-- ==== Sys2Proof/Word.lean ====
section
/-! DEFINITION. The word types of Agsia and their plainest arithmetic (R3, R29, R49). -/
namespace Sys2Proof

/-- One byte of memory. -/
abbrev Byte := BitVec 8
/-- A scalar register, an address, a control register: 64 bits (R29). -/
abbrev Word := BitVec 64
/-- An instruction word: 32 bits (R33). -/
abbrev Word32 := BitVec 32
/-- A vector register of this part: VWIDTH is 256 bytes (R30). -/
abbrev VWord := BitVec 2048
/-- A predicate register: one bit per byte lane (R30). -/
abbrev PWord := BitVec 256

/-- Field [hi:lo] of a number (R3). -/
def field (x hi lo : Nat) : Nat := (x >>> lo) % 2 ^ (hi + 1 - lo)

/-- Field [hi:lo] of a bit vector, as a number (R3). -/
def bits {w : Nat} (x : BitVec w) (hi lo : Nat) : Nat := field x.toNat hi lo

/-- Bit n of a bit vector (R3). -/
def bit {w : Nat} (x : BitVec w) (n : Nat) : Bool := x.getLsbD n

/-- ZExt of R49: the low bits of x, zero-extended to 64 bits. -/
def zext {w : Nat} (x : BitVec w) : Word := x.setWidth 64

/-- SExt of R49: a field read as two's complement, widened to 64 bits. -/
def sext {w : Nat} (x : BitVec w) : Word := x.signExtend 64

/-- A Bool as the register value 1 or 0. -/
def boolWord (b : Bool) : Word := if b then 1#64 else 0#64

/-- The Euclidean ceiling of a quotient of naturals. -/
def ceilDiv' (a b : Nat) : Nat := (a + b - 1) / b

end Sys2Proof
end

