-- ==== Sys2Proof/Config.lean ====
section
/-! DEFINITION. What this part fixes (R2: the XNX-9600 value of every implementation-defined figure) and the free values of the model (log 6, log 8). -/
namespace Sys2Proof.Config

/-- VWIDTH in bytes (R30). -/
def vwidth : Nat := 256
/-- Cores of a cluster (R12, R13). -/
def coresPerCluster : Nat := 96
/-- Clusters of the device (R11). -/
def clusters : Nat := 32
/-- End of the HBM range of device physical addresses (R131): 384 GiB. -/
def hbmEnd : Nat := 0x6000000000
/-- Depth of a copy-engine command FIFO and of a completion FIFO (R299). -/
def portDepth : Nat := 16
/-- Entries of the vector sequencer (R16, R241). -/
def sequencerDepth : Nat := 16
/-- Depth of the matrix queue (R282). -/
def matrixDepth : Nat := 8
/-- Records of deferred failures that a core holds (R98). -/
def uncorrRecords : Nat := 16
/-- Pending launches of one queue (R348). -/
def launchDepth : Nat := 64
/-- Sets and ways of a cluster slice and of an L1, in blocks of 512 bytes (R142, R143): 16 MiB and 32 KiB. -/
def sliceSets : Nat := 2048
def sliceWays : Nat := 16
def l1Sets : Nat := 16
def l1Ways : Nat := 4
/-- Cycles after which an issued store is visible to the whole device (R65). -/
def storeBound : Nat := 8192
/-- Entries of a cluster's hold queue (R156). -/
def holdDepth : Nat := 64
/-- Orphaned writes that a slice holds (R177). -/
def orphanDepth : Nat := 64
/-- Yielded tasks of one core (R362). -/
def yieldLimit : Nat := 3
/-- Live frontier launches of one galley (R384). -/
def galleyLaunches : Nat := 16
/-- Rows of the live band of a frontier (R378). -/
def bandRows : Nat := 4096
/-- Requests of one session that the compositor holds (R420). -/
def heldRequests : Nat := 64
/-- Ticks of a sampling period and of a counting window (R338, R343). -/
def periodTicks : Nat := 65536
/-- The lead of a synchronised stop's tick (R329). -/
def stopLead : Nat := 10000
/-- Cores halt within this many cycles of the stop tick (R330). -/
def haltWindow : Nat := 64
/-- Sets and ways of an MSC slice (R194). -/
def mscSets : Nat := 4096
def mscWays : Nat := 16

/-- FREE VALUE: the n-th value that the device's true random number generator gives (R188, R198; log 6). -/
opaque trng : Nat → BitVec 64
/-- FREE VALUE: the SHAKE256 digest of a text (R425, R426; log 8). -/
opaque shake256 : List (BitVec 8) → BitVec 256
/-- FREE VALUE: the ML-DSA-65 signature of the device's identity key over a text (R426; log 8). -/
opaque identitySignature : List (BitVec 8) → List (BitVec 8)
/-- FREE VALUE: whether a signature by Gelwera's firmware key verifies over a digest (R425; log 8). -/
opaque firmwareSignatureOk : BitVec 256 → List (BitVec 8) → Bool
/-- FREE VALUE: how far the work in progress of an engine has come when its core halts (R330; log 6), by draw number. -/
opaque haltProgress : Nat → Nat
/-- FREE VALUE: the SHAKE256 measurement of the compositor (R426; log 8). -/
opaque compositorDigest : BitVec 256
/-- FREE VALUE: what TINFO writes for LO, HI and GRAIN in a task that has no interval (R367; log 13), by draw number. -/
opaque taskField : Nat → BitVec 64
/-- FREE VALUE: the doublewords of the body of a response to a request code with a result, which the firmware series lays out (R427; log 8). -/
opaque bodyWords : Nat → Nat
/-- FREE VALUE: CODE, SEQ and LENGTH of the header of a notice, which the spec does not state (R421; log 8), by the notice's number. -/
opaque noticeField : Nat → BitVec 80
/-- FREE VALUE: the 64 bytes of the message that names a CORE task to a core, whose layout the spec does not state: from its queue, sequence
number, kernel identifier, ENTRY, uses, argument and anchor addresses (R101, R361; log 21). -/
opaque taskMessage : Nat → Nat → BitVec 32 → BitVec 64 → BitVec 64 → BitVec 64 → BitVec 64 → BitVec 512

/-- FREE VALUE: the Ethernet port by which packets leave for an endpoint, which the spec does not state (R202, R416; log 19). -/
opaque portOf : Nat → Nat
/-- FREE VALUE: the 32-byte entry that a proof record holds for a block of a kind with its latched values (R345; log 14). -/
opaque proofEntry : Nat → List Nat → BitVec 256

end Sys2Proof.Config
end

