-- ==== Sys2Proof/Syntax.lean ====
section
/-! DEFINITION. The instructions of Agsia and the steps of the device: the shared codes of R44 to R48, the data that steps
carry, and Instr, with one constructor for each row of the spec's opcode table. -/
namespace Sys2Proof

/-- The number of a scalar register (R29). -/
abbrev SReg := BitVec 5
/-- The number of a vector register (R29). -/
abbrev VReg := BitVec 5
/-- The number of a predicate register (R29). -/
abbrev PReg := BitVec 3

/-- Access sizes (R45). -/
inductive Size where
  | b | h | w | d | q
  deriving DecidableEq, Repr

/-- Element sizes of vector instructions: R45 without .q (R244, R249, R256). -/
inductive ESize where
  | b | h | w | d
  deriving DecidableEq, Repr

/-- The load column of R44. -/
inductive LdKind where
  | bz | hz | wz | d | bs | hs | ws | q
  deriving DecidableEq, Repr

/-- Element types (R46). -/
inductive Ty where
  | i8 | i16 | i32 | i64 | n8 | n16 | n32 | n64 | f32 | f16 | bf16 | e4m3 | e5m2 | e2m1
  deriving DecidableEq, Repr

/-- The integer types of R46. -/
inductive ITy where
  | i8 | i16 | i32 | i64 | n8 | n16 | n32 | n64
  deriving DecidableEq, Repr

/-- The formats of FP arithmetic (R118, R247). -/
inductive FFmt where
  | f32 | f16 | bf16
  deriving DecidableEq, Repr

/-- Scopes (R20, R47). -/
inductive MemScope where
  | core | cl | die | dev | pod
  deriving DecidableEq, Repr

/-- Order codes (R47). -/
inductive MemOrder where
  | none | acq | rel | ar
  deriving DecidableEq, Repr

/-- Full/empty codes (R47). -/
inductive Fe where
  | none | fe | fc | fk
  deriving DecidableEq, Repr

/-- The rounding modes that an instruction field names (R48); .sr belongs to the draw forms (R227). -/
inductive Rm where
  | rne | rtz | rdn | rup
  deriving DecidableEq, Repr

/-- Control registers (R88). -/
inductive CReg where
  | status | cause | epc | faddr | finfo | tvec | tstack | kscr | savearea | ctxbuf | ipend | frst
  | fflags | coreid | owner | gcycle
  deriving DecidableEq, Repr

/-- An uncorrectable error that the matrix engine meets on an operand block: operand, line and K-block (R280). -/
structure MatrixError where
  operandB : Bool
  line : Nat
  kblock : Nat
  deriving DecidableEq, Repr

/-- An event unit of the pod: device and cluster number die x 8 + cluster (R317, R321). -/
structure UnitRef where
  dev : BitVec 12
  cluster : BitVec 5
  deriving DecidableEq, Repr

/-- A barrier of an event unit (R317). -/
structure BarRef where
  unit : UnitRef
  bar : BitVec 8
  deriving DecidableEq, Repr

/-- A barrier message between units: owner, sending and receiving barrier (R326, R328). -/
structure BarMsg where
  owner : Nat
  src : BarRef
  dst : BarRef
  deriving DecidableEq, Repr

/-- An event signal: owner, target unit and event (R321). -/
structure SignalMsg where
  owner : Nat
  dst : UnitRef
  ev : BitVec 8
  scope : MemScope
  deriving DecidableEq, Repr

/-- The operations of RED (R172). -/
inductive RedOp where
  | add | and | or | xor | min | max
  deriving DecidableEq, Repr

/-- Who issued a write that may be reported later: the kernel identifier, and the launch by queue and sequence number where a task
issued it (R177). -/
structure Origin where
  kid : BitVec 32
  launch : Option (Nat × Nat)
  deriving DecidableEq, Repr

/-- A reduction on its way to a slice or a home (R173, R174): the pod-global address, the operation and who issued it. -/
structure RedRequest where
  pa : Nat
  va : Word
  op : RedOp
  ty : Ty
  arr : Bool
  value : Word
  owner : Nat
  kid : Origin
  deriving DecidableEq, Repr

/-- A unit that is retired or returns, or a function that reports at bring-up (R210, R422). -/
inductive DevUnit where
  | port (n : Nat) | link (n : Nat) | channel (stack ch : Nat) | cluster (n : Nat) | galley (die : Nat) | control (die : Nat)
  deriving DecidableEq, Repr

/-- A die of an owner that the stop tree stops (R329). -/
structure StopSite where
  owner : Nat
  die : Nat
  deriving DecidableEq, Repr

/-- An input of a router of a die (R332). -/
structure RouterInput where
  router : Nat
  input : Nat
  deriving DecidableEq, Repr

/-- What a remote home refused (R133, R303): a load, fetch or atomic of a core, a retired write, a CELL instruction, or a row of a
copy-engine command. -/
inductive Refused where
  | load (core : Nat) (va : Word)
  | write (cluster : Nat) (pa : Nat) (va : Word) (bytes : List Byte) (owner : Nat) (kid : Origin)
  | red (cluster : Nat) (r : RedRequest)
  | cell (core : Nat) (va : Word)
  | fetch (core : Nat) (va : Word)
  | atomic (core : Nat) (va : Word)
  | row (core : Nat) (port : BitVec 2) (va : Word)
  deriving DecidableEq, Repr

/-- The header of a host request (R418). -/
structure ReqHeader where
  session : BitVec 16
  seq : BitVec 32
  part : BitVec 6
  /-- LENGTH and STATUS, and the bits that R418 reserves. -/
  length : BitVec 32 := 8
  status : BitVec 8 := 0
  rsv8 : BitVec 24 := 0
  rsv16 : BitVec 58 := 0
  rsv24 : Word := 0
  /-- The fabric endpoint that sent it, and the port at which it arrives (R415, R416). -/
  endpoint : Nat := 0
  port : Nat := 0
  deriving DecidableEq, Repr

/-- CREATE (R419): clusters, weights, minima and the seed-visible attribute. -/
structure CreateBody where
  clusters : List Nat
  weights : List Nat
  minima : List Nat
  seedVisible : Bool
  deriving DecidableEq, Repr

/-- MAP (R419): the first page's address and entry, and the number of consecutive pages. -/
structure MapBody where
  va : Word
  pte : Word
  pages : Nat
  deriving DecidableEq, Repr

/-- UNMAP (R419): the first page's address, the page-size field and the number of pages. -/
structure UnmapBody where
  va : Word
  k : BitVec 4
  pages : Nat
  deriving DecidableEq, Repr

/-- A core that the compositor starts at supervisor level at the owner's entry (R103). -/
structure CoreStart where
  core : Nat
  entry : Word
  tvec : Word
  tstack : Word
  savearea : Word
  ctxbuf : Word
  deriving DecidableEq, Repr

/-- A kernel entry of an object file (R78) with the address at which the loader builds its descriptor (R350): the address of its first
instruction, whether it executes FUSE and FRAME, its accumulator sets, its scratchpad rows, and the highest registers used. -/
structure KernelEntry where
  desc : Word
  entry : Word
  fuse : Bool
  frame : Bool
  acc : BitVec 4
  first : Nat
  count : Nat
  vhi : BitVec 5
  shi : BitVec 5
  deriving DecidableEq, Repr

/-- LOAD (R419, R350): the object file, the bytes that it places at addresses of the partition, the kernel descriptors to build from
its kernel entries, and the cores to start, with what the compositor writes for them (R103; log 2, log 8). -/
structure LoadBody where
  file : List Byte
  image : List (Word × List Byte)
  kernels : List KernelEntry
  starts : List CoreStart
  deriving DecidableEq, Repr

/-- BIND (R348). -/
structure BindBody where
  q : Nat
  unbind : Bool
  prio : Nat
  word : Word
  deriving DecidableEq, Repr

/-- LAUNCH by the host (R428). -/
structure LaunchBody where
  q : Nat
  record : Word
  deriving DecidableEq, Repr

/-- One switch of a schedule: tick, owner that goes out, owner that comes in (R329, R334). -/
structure SwitchPlan where
  tick : Nat
  outgoing : Nat
  incoming : Nat
  deriving DecidableEq, Repr

/-- SCHED (R334). -/
structure SchedBody where
  switches : List SwitchPlan
  deadlineUs : Nat
  deriving DecidableEq, Repr

/-- CORE (R94): the core to rewrite and resume. -/
structure CoreBody where
  core : Nat
  regs : List (SReg × Word)
  ctrl : List (CReg × Word)
  pc : Option Word
  deriving DecidableEq, Repr

/-- Power states (R423). -/
inductive PowerState where
  | active | capped | standby | sleep
  deriving DecidableEq, Repr

/-- POWER (R423), with the limit in watts for CAPPED. -/
structure PowerBody where
  state : PowerState
  limit : Nat
  deriving DecidableEq, Repr

/-- ATTEST (R426): the host nonce. -/
structure AttestBody where
  nonce : BitVec 256
  deriving DecidableEq, Repr

/-- FIRMWARE (R425): image, signature and security version. -/
structure FirmwareBody where
  image : List Byte
  signature : List Byte
  version : Nat
  deriving DecidableEq, Repr

/-- PTPCFG (R417, R416): domain, port roles (true for a boundary clock) and pod table. -/
structure PtpcfgBody where
  domain : BitVec 8
  roles : List Bool
  podTable : List (BitVec 12 × Nat)
  deriving DecidableEq, Repr

/-- One constructor for each row of the spec's table of operations and events. A row with an encoding carries the fields of
its word; a row without one (a step of an engine, of the dispatcher, of the stop tree or of the host port) carries what the
step is about. -/
inductive Instr where
  -- Words that are not instructions, and asynchronous causes (R39, R98).
  | illop (word : Word32) (reason : BitVec 4)
  -- Integer operations between registers (R105 to R107).
  | add (rd ra rb : SReg)
  | sub (rd ra rb : SReg)
  | and (rd ra rb : SReg)
  | or (rd ra rb : SReg)
  | xor (rd ra rb : SReg)
  | andn (rd ra rb : SReg)
  | orn (rd ra rb : SReg)
  | xnor (rd ra rb : SReg)
  | sll (rd ra rb : SReg)
  | srl (rd ra rb : SReg)
  | sra (rd ra rb : SReg)
  | ror (rd ra rb : SReg)
  | slt (rd ra rb : SReg)
  | sltn (rd ra rb : SReg)
  | min (rd ra rb : SReg)
  | max (rd ra rb : SReg)
  | minn (rd ra rb : SReg)
  | maxn (rd ra rb : SReg)
  | mul (rd ra rb : SReg)
  | mulh (rd ra rb : SReg)
  | mulhn (rd ra rb : SReg)
  | div (rd ra rb : SReg)
  | divn (rd ra rb : SReg)
  | rem (rd ra rb : SReg)
  | remn (rd ra rb : SReg)
  | clz (rd ra : SReg)
  | ctz (rd ra : SReg)
  | popc (rd ra : SReg)
  | bswap (rd ra : SReg)
  | addw (rd ra rb : SReg)
  | subw (rd ra rb : SReg)
  | sllw (rd ra rb : SReg)
  | srlw (rd ra rb : SReg)
  | sraw (rd ra rb : SReg)
  | mulw (rd ra rb : SReg)
  | adds (rd ra rb : SReg)
  | subs (rd ra rb : SReg)
  -- Integer operations with immediates (R108, R109).
  | addi (rd ra : SReg) (imm : BitVec 16)
  | andi (rd ra : SReg) (imm : BitVec 16)
  | ori (rd ra : SReg) (imm : BitVec 16)
  | xori (rd ra : SReg) (imm : BitVec 16)
  | slti (rd ra : SReg) (imm : BitVec 16)
  | sltin (rd ra : SReg) (imm : BitVec 16)
  | slli (rd ra : SReg) (n : BitVec 6)
  | srli (rd ra : SReg) (n : BitVec 6)
  | srai (rd ra : SReg) (n : BitVec 6)
  | rori (rd ra : SReg) (n : BitVec 6)
  | slliw (rd ra : SReg) (n : BitVec 5)
  | srliw (rd ra : SReg) (n : BitVec 5)
  | sraiw (rd ra : SReg) (n : BitVec 5)
  -- Constants and addresses (R110, R111).
  | hwz (rd : SReg) (k : BitVec 2) (imm : BitVec 16)
  | hwi (rd : SReg) (k : BitVec 2) (imm : BitVec 16)
  | hws (rd : SReg) (k : BitVec 2) (imm : BitVec 16)
  | adpc (rd : SReg) (imm : BitVec 16)
  | adpch (rd : SReg) (imm : BitVec 16)
  -- Control flow (R113 to R116).
  | beq (ra rb : SReg) (off : BitVec 13)
  | bne (ra rb : SReg) (off : BitVec 13)
  | blt (ra rb : SReg) (off : BitVec 13)
  | bge (ra rb : SReg) (off : BitVec 13)
  | bltn (ra rb : SReg) (off : BitVec 13)
  | bgen (ra rb : SReg) (off : BitVec 13)
  | bany (ra rb : SReg) (off : BitVec 13)
  | bnone (ra rb : SReg) (off : BitVec 13)
  | loop (ra : SReg) (off : BitVec 13)
  | loopn (ra rb : SReg) (off : BitVec 13)
  | loopd (ra rb : SReg) (off : BitVec 13)
  | jmp (off : BitVec 26)
  | call (off : BitVec 26)
  | jreg (rd ra : SReg)
  -- Scalar floating point (R117 to R122).
  | fadd (fmt : FFmt) (rm : Rm) (rd ra rb : SReg)
  | fsub (fmt : FFmt) (rm : Rm) (rd ra rb : SReg)
  | fmul (fmt : FFmt) (rm : Rm) (rd ra rb : SReg)
  | fdiv (fmt : FFmt) (rm : Rm) (rd ra rb : SReg)
  | fsqrt (fmt : FFmt) (rm : Rm) (rd ra : SReg)
  | fmin (fmt : FFmt) (rd ra rb : SReg)
  | fmax (fmt : FFmt) (rd ra rb : SReg)
  | fcopysg (fmt : FFmt) (rd ra rb : SReg)
  | fneg (fmt : FFmt) (rd ra : SReg)
  | fabs (fmt : FFmt) (rd ra : SReg)
  | feq (fmt : FFmt) (rd ra rb : SReg)
  | flt (fmt : FFmt) (rd ra rb : SReg)
  | fle (fmt : FFmt) (rd ra rb : SReg)
  | fkind (fmt : FFmt) (rd ra : SReg)
  | fcvt (fmt src : FFmt) (rm : Rm) (rd ra : SReg)
  | fcvti (fmt : FFmt) (unsigned : Bool) (rm : Rm) (rd ra : SReg)
  | fcvtf (fmt : FFmt) (unsigned : Bool) (rm : Rm) (rd ra : SReg)
  | fmadd (fmt : FFmt) (rm : Rm) (rd ra rb rc : SReg)
  | fmsub (fmt : FFmt) (rm : Rm) (rd ra rb rc : SReg)
  | fnmadd (fmt : FFmt) (rm : Rm) (rd ra rb rc : SReg)
  | fnmsub (fmt : FFmt) (rm : Rm) (rd ra rb rc : SReg)
  -- The SYS group (R123 to R126, R92).
  | nop
  | trap (code : BitVec 10)
  | brk (code : BitVec 10)
  | eret
  | crd (rd : SReg) (creg : CReg)
  | crdFflags (rd : SReg)
  | cwr (creg : CReg) (ra : SReg)
  | cwrStatus (ra : SReg)
  | cwrFflags (ra : SReg)
  | halt
  -- Loads, stores, atomics and reductions (R166 to R176).
  | ld (kind : LdKind) (rd ra : SReg) (off : BitVec 13)
  | st (size : Size) (rs ra : SReg) (off : BitVec 13)
  | ldx (size : Size) (signed : Bool) (fq : Fe) (ord : MemOrder) (scope : MemScope) (rd ra rb : SReg)
  | stx (size : Size) (fq : Fe) (ord : MemOrder) (scope : MemScope) (rs ra rb : SReg)
  | atomSwp (size : Size) (ord : MemOrder) (scope : MemScope) (rd ra rb : SReg)
  | atomCas (size : Size) (ord : MemOrder) (scope : MemScope) (rd ra rb : SReg)
  | atomAdd (size : Size) (ord : MemOrder) (scope : MemScope) (rd ra rb : SReg)
  | atomAnd (size : Size) (ord : MemOrder) (scope : MemScope) (rd ra rb : SReg)
  | atomOr (size : Size) (ord : MemOrder) (scope : MemScope) (rd ra rb : SReg)
  | atomXor (size : Size) (ord : MemOrder) (scope : MemScope) (rd ra rb : SReg)
  | atomMax (size : Size) (ord : MemOrder) (scope : MemScope) (rd ra rb : SReg)
  | atomMin (size : Size) (ord : MemOrder) (scope : MemScope) (rd ra rb : SReg)
  | redAdd (arr : Bool) (ty : Ty) (ord : MemOrder) (scope : MemScope) (ra rb : SReg)
  | redAnd (arr : Bool) (ty : Ty) (ord : MemOrder) (scope : MemScope) (ra rb : SReg)
  | redOr (arr : Bool) (ty : Ty) (ord : MemOrder) (scope : MemScope) (ra rb : SReg)
  | redXor (arr : Bool) (ty : Ty) (ord : MemOrder) (scope : MemScope) (ra rb : SReg)
  | redMin (arr : Bool) (ty : Ty) (ord : MemOrder) (scope : MemScope) (ra rb : SReg)
  | redMax (arr : Bool) (ty : Ty) (ord : MemOrder) (scope : MemScope) (ra rb : SReg)
  -- Regions and MEMSYS (R178 to R184).
  | alrb (ord : MemOrder) (scope : MemScope) (ra : SReg)
  | fence (ord : MemOrder) (scope : MemScope)
  | seal (rl ra : SReg)
  | unseal (rl ra : SReg)
  | xinv (ro ra : SReg)
  | xinva (ro : SReg)
  | rinv (ra : SReg)
  | cpref (ra : SReg)
  | orph (abandon : Bool) (rd ra : SReg)
  -- Vector loads and stores (R244, R245).
  | vld (size : ESize) (fq : Fe) (adv : Bool) (pg : PReg) (vd : VReg) (ra : SReg) (rb : BitVec 5)
  | vlds (size : ESize) (fq : Fe) (adv : Bool) (pg : PReg) (vd : VReg) (ra : SReg) (rb : BitVec 5)
  | vldx (size : ESize) (fq : Fe) (adv : Bool) (pg : PReg) (vd : VReg) (ra : SReg) (rb : BitVec 5)
  | vldr (size : ESize) (fq : Fe) (adv : Bool) (pg : PReg) (vd : VReg) (ra : SReg) (rb : BitVec 5)
  | vst (size : ESize) (fq : Fe) (adv : Bool) (pg : PReg) (vs : VReg) (ra : SReg) (rb : BitVec 5)
  | vsts (size : ESize) (fq : Fe) (adv : Bool) (pg : PReg) (vs : VReg) (ra : SReg) (rb : BitVec 5)
  | vstx (size : ESize) (fq : Fe) (adv : Bool) (pg : PReg) (vs : VReg) (ra : SReg) (rb : BitVec 5)
  -- Vector integer operations (R246).
  | vadd (ty : ITy) (pg : PReg) (vd va vb : VReg)
  | vsub (ty : ITy) (pg : PReg) (vd va vb : VReg)
  | vmul (ty : ITy) (pg : PReg) (vd va vb : VReg)
  | vmulh (ty : ITy) (pg : PReg) (vd va vb : VReg)
  | vmin (ty : ITy) (pg : PReg) (vd va vb : VReg)
  | vmax (ty : ITy) (pg : PReg) (vd va vb : VReg)
  | vand (ty : ITy) (pg : PReg) (vd va vb : VReg)
  | vor (ty : ITy) (pg : PReg) (vd va vb : VReg)
  | vxor (ty : ITy) (pg : PReg) (vd va vb : VReg)
  | vandn (ty : ITy) (pg : PReg) (vd va vb : VReg)
  | vsll (ty : ITy) (pg : PReg) (vd va vb : VReg)
  | vsrl (ty : ITy) (pg : PReg) (vd va vb : VReg)
  | vsra (ty : ITy) (pg : PReg) (vd va vb : VReg)
  | vadds (ty : ITy) (pg : PReg) (vd va vb : VReg)
  | vsubs (ty : ITy) (pg : PReg) (vd va vb : VReg)
  | vabsd (ty : ITy) (pg : PReg) (vd va vb : VReg)
  | vavg (ty : ITy) (pg : PReg) (vd va vb : VReg)
  | vneg (ty : ITy) (pg : PReg) (vd va : VReg)
  | vabs (ty : ITy) (pg : PReg) (vd va : VReg)
  | vpopc (ty : ITy) (pg : PReg) (vd va : VReg)
  -- Vector floating point (R247, R248).
  | vfadd (fmt : FFmt) (pg : PReg) (vd va vb : VReg)
  | vfsub (fmt : FFmt) (pg : PReg) (vd va vb : VReg)
  | vfmul (fmt : FFmt) (pg : PReg) (vd va vb : VReg)
  | vfdiv (fmt : FFmt) (pg : PReg) (vd va vb : VReg)
  | vfsqrt (fmt : FFmt) (pg : PReg) (vd va : VReg)
  | vfmin (fmt : FFmt) (pg : PReg) (vd va vb : VReg)
  | vfmax (fmt : FFmt) (pg : PReg) (vd va vb : VReg)
  | vfcopysg (fmt : FFmt) (pg : PReg) (vd va vb : VReg)
  | vfneg (fmt : FFmt) (pg : PReg) (vd va : VReg)
  | vfabs (fmt : FFmt) (pg : PReg) (vd va : VReg)
  | vfkind (fmt : FFmt) (pg : PReg) (vd va : VReg)
  | vfma (fmt : FFmt) (pg : PReg) (vd va vb vc : VReg)
  | vfms (fmt : FFmt) (pg : PReg) (vd va vb vc : VReg)
  -- Permutes (R249, R250).
  | vtrn (size : ESize) (vd : VReg)
  | vperm (size : ESize) (pg : PReg) (vd va vb : VReg)
  | vlift (size : ESize) (pg : PReg) (vd va : VReg) (rb : SReg)
  | vdrop (size : ESize) (pg : PReg) (vd va : VReg) (rb : SReg)
  | vrev (size : ESize) (pg : PReg) (vd va : VReg)
  | vsqz (size : ESize) (pg : PReg) (vd va : VReg)
  | vknitl (size : ESize) (pg : PReg) (vd va vb : VReg)
  | vknith (size : ESize) (pg : PReg) (vd va vb : VReg)
  | vsiftev (size : ESize) (pg : PReg) (vd va vb : VReg)
  | vsiftod (size : ESize) (pg : PReg) (vd va vb : VReg)
  -- Predicates (R251).
  | vceq (ty : Ty) (pg pd : PReg) (va vb : VReg)
  | vcne (ty : Ty) (pg pd : PReg) (va vb : VReg)
  | vclt (ty : Ty) (pg pd : PReg) (va vb : VReg)
  | vcle (ty : Ty) (pg pd : PReg) (va vb : VReg)
  | vbound (ty : ITy) (pd : PReg) (ra rb : SReg)
  | pand (pd pa pb : PReg)
  | por (pd pa pb : PReg)
  | pxor (pd pa pb : PReg)
  | pandn (pd pa pb : PReg)
  | pcnt (ty : Ty) (rd : SReg) (pa : PReg)
  | pfirst (ty : Ty) (rd : SReg) (pa : PReg)
  -- Vector reductions (R252, R253).
  | vrsum (ty : Ty) (pg : PReg) (vd va vb : VReg)
  | vrsumArr (ty : Ty) (pg : PReg) (vd va vb : VReg)
  | vrmin (ty : Ty) (pg : PReg) (vd va vb : VReg)
  | vrmax (ty : Ty) (pg : PReg) (vd va vb : VReg)
  | vrand (ty : Ty) (pg : PReg) (vd va vb : VReg)
  | vror (ty : Ty) (pg : PReg) (vd va vb : VReg)
  | vrxor (ty : Ty) (pg : PReg) (vd va vb : VReg)
  -- Conversions, FRAME and moves (R254 to R256, R260, R261).
  | vcvt (dst src : Ty) (rm : Rm) (part : BitVec 3) (pg : PReg) (vd va : VReg)
  | frame (sv : BitVec 5) (n1 : BitVec 4) (k1 : BitVec 8) (sp : BitVec 2)
  | vmov (pg : PReg) (vd va : VReg)
  | vdup (size : ESize) (pg : PReg) (vd : VReg) (ra : SReg)
  | vins (size : ESize) (vd : VReg) (ra rb : SReg)
  | vextr (size : ESize) (rd : SReg) (va : VReg) (rb : SReg)
  | vidx (size : ESize) (pg : PReg) (vd : VReg) (ra rb : SReg)
  | vwidth (rd : SReg)
  -- Draws into vectors (R257 to R259).
  | vdraw (vd : VReg) (ds : BitVec 4) (ra : SReg)
  | vdrawb (vd : VReg) (ds : BitVec 4) (ra : SReg)
  | vdrawu (vd : VReg) (ds : BitVec 4) (ra : SReg)
  | vnoiseG (vd : VReg) (ds : BitVec 4) (ra : SReg)
  | vsrcvtBf16F32 (vd : VReg) (ds : BitVec 4) (ra : SReg)
  | vsrcvtF16F32 (vd : VReg) (ds : BitVec 4) (ra : SReg)
  | vsrcvtE4m3F32 (vd : VReg) (ds : BitVec 4) (ra : SReg)
  | vsrcvtE5m2F32 (vd : VReg) (ds : BitVec 4) (ra : SReg)
  | vsrcvtE2m1F32 (vd : VReg) (ds : BitVec 4) (ra : SReg)
  | vsrcvtE4m3F16 (vd : VReg) (ds : BitVec 4) (ra : SReg)
  | vsrcvtE5m2F16 (vd : VReg) (ds : BitVec 4) (ra : SReg)
  | vsrcvtE4m3Bf16 (vd : VReg) (ds : BitVec 4) (ra : SReg)
  -- The matrix engine (R282 to R294).
  | mma (acc : BitVec 2) (dA dB : BitVec 4) (sk so : SReg) (pm1 : BitVec 4) (rnd z : Bool)
  | mswap (acc : BitVec 2)
  | mwait (acc : BitVec 2)
  | mzero (acc : BitVec 2)
  | mlda (acc : BitVec 2) (ra : SReg)
  | msto (fe : Bool) (acc : BitVec 2) (ra : SReg)
  | mrow (vd : VReg) (acc : BitVec 2) (ra : SReg)
  | pdesc (dn : BitVec 4) (ra : SReg) (off : BitVec 10)
  | pdset (dn : BitVec 4) (ra : SReg)
  | pdrd (rd : SReg) (dn : BitVec 4)
  | pscale (dn : BitVec 4) (ra rb : SReg)
  | pgscale (dn : BitVec 4) (ra rb : SReg)
  -- The copy engine (R299 to R312).
  | qpush (port : BitVec 2) (rd ra : SReg)
  | qpop (port : BitVec 2) (rd : SReg)
  | qtry (port : BitVec 2) (rd : SReg)
  | qstat (port : BitVec 2) (rd : SReg)
  | qabort (port : BitVec 2)
  -- The cluster event unit (R316 to R328).
  | barv (rd : SReg) (b : BitVec 8)
  | barw (rd ra : SReg) (b : BitVec 8)
  | evsig (ra : SReg) (e : BitVec 8)
  | evwait (rd : SReg) (e : BitVec 8)
  | evtry (rd : SReg) (e : BitVec 8)
  | mlock (m : BitVec 6)
  | mtry (rd : SReg) (m : BitVec 6)
  | munlock (rd : SReg) (m : BitVec 6)
  | monitorAndWait (acq : Bool) (scope : MemScope) (rd ra rb : SReg)
  -- The task dispatcher and gangs (R348 to R373).
  | launch (rd ra : SReg) (q : BitVec 10)
  | tspawn (ra : SReg)
  | tnext (rd : SReg)
  | tend
  | await (ra : SReg)
  | tinfo (rd : SReg) (k : BitVec 3)
  | tclose (rd ra : SReg) (q : BitVec 10)
  | tqstat (rd : SReg) (q : BitVec 10)
  | fuse (rd : SReg) (n : BitVec 5)
  | split
  | gidx (rd : SReg)
  | gsize (rd : SReg)
  | gredAdd (rd ra : SReg)
  | gredAnd (rd ra : SReg)
  | gredOr (rd ra : SReg)
  | gredXor (rd ra : SReg)
  | gredMin (rd ra : SReg)
  | gredMax (rd ra : SReg)
  | gredMinn (rd ra : SReg)
  | gredMaxn (rd ra : SReg)
  -- The draw unit (R188 to R215).
  | draw (rd : SReg) (ds : BitVec 4) (ra : SReg)
  | dkey (ds : BitVec 4) (t : BitVec 10)
  | dkset (ds : BitVec 4) (ra : SReg)
  | dkrd (rd : SReg) (ds : BitVec 4)
  | reseed (rd : SReg)
  | seedset (rd ra : SReg)
  | seedrd (rd : SReg)
  | cplace (rd ra : SReg)
  | exq (rd ra : SReg) (c : BitVec 3)
  | exqm (rd : SReg) (c : BitVec 3)
  -- The cell unit (R398 to R411).
  | propose (ord : MemOrder) (scope : MemScope) (rd ra rb : SReg)
  | cread (wait : Bool) (ord : MemOrder) (scope : MemScope) (rd ra rb : SReg)
  | recycleRetire (ord : MemOrder) (scope : MemScope) (rd ra rb : SReg)
  | recycleOpen (ord : MemOrder) (scope : MemScope) (rd ra rb : SReg)
  | cinit (ord : MemOrder) (scope : MemScope) (ra rb : SReg)
  -- The galley (R374 to R393).
  | fpt (rd : SReg)
  | fcut (rd ra : SReg) (q : BitVec 10)
  | fprog (rd : SReg) (q : BitVec 10)
  -- The stop tree (R329 to R347).
  | ctrd (rd : SReg) (n : BitVec 10)
  | ctsel (ra : SReg) (slot : BitVec 5)
  | tstamp (rd : SReg)
  | proof (rd ra : SReg)
  -- Steps: asynchronous causes and what requests them (R98).
  | asynchronousCause
  | preemptRequest (core : Nat) (source : BitVec 8)
  | uncorrRecord (core : Nat) (faddr : Word) (place : BitVec 3)
  -- Steps: conversions, FRAME and moves (R254 to R256, R260, R261).
  | frameReplay
  -- Steps: the matrix engine (R282 to R294).
  | matrixQueueEntry (core : Nat) (mctl : Bool) (err : Option MatrixError)
  -- Steps: the copy engine (R299 to R312).
  | copy (core : Nat) (port : BitVec 2) (err : Option Nat)
  | mcast (core : Nat) (port : BitVec 2) (err : Option Nat)
  | fill (core : Nat) (port : BitVec 2)
  -- Steps: the cluster event unit (R316 to R328).
  | barrierCfgWrite (b : BitVec 8) (value : Word)
  | barrierParentWrite (b : BitVec 8) (value : Word)
  | eventWordWrite (e : BitVec 8) (value : Word)
  | eventUnitWrite (offset : BitVec 21) (size : Size)
  | eventSignal (m : SignalMsg)
  | arrive (m : BarMsg)
  | release (m : BarMsg) (timedOut : Bool)
  | absent (m : BarMsg)
  | present (m : BarMsg)
  | barrierTimeout (cluster : Nat) (b : BitVec 8)
  -- Steps: the task dispatcher and gangs (R348 to R373).
  | launchStart (q : BitVec 10) (seq : Nat)
  | taskStart (core : Nat)
  | spawnPacket (id : Nat)
  | awaitResume (core : Nat)
  | clusterReport (q : BitVec 10) (seq cluster : Nat)
  | dieReport (q : BitVec 10) (seq die : Nat)
  | launchCompletion (q : BitVec 10) (seq : Nat)
  -- Steps: the draw unit (R188 to R215).
  | arbitrationRound (cls inst : Nat) (accepts : Bool)
  | sweepMove (owner stack : Nat)
  | windowClose (owner stack : Nat)
  | unitRetirement (u : DevUnit)
  | unitReturn (u : DevUnit)
  | weightChange (owner : Nat) (weights : List Nat)
  -- Steps: the galley (R374 to R393).
  | pointFire (q : BitVec 10) (seq x0 x1 x2 : Nat)
  -- Steps: homes, slices and walkers (R131 to R161, R174).
  | storeAtHome (id : Nat)
  | update (id cluster : Nat)
  | commit (id : Nat)
  | commitAtSharer (id cluster : Nat)
  | loadMiss (cluster pa : Nat)
  | grainEviction (cluster pa : Nat)
  | directoryEntryReuse (pa : Nat)
  | redAcceptance (cluster : Nat) (r : RedRequest)
  | partialGiveUp (cluster pa : Nat)
  | pageWalk (cluster : Nat) (va : Word)
  | remoteRefusal (r : Refused)
  | scrub (cluster : Nat)
  | scrubEnd (cluster : Nat)
  -- Steps: the stop tree (R329 to R347).
  | synchronisedStop (owner tick : Nat)
  | coreHalt (core : Nat)
  | routerHalt (site : StopSite) (router : Nat)
  | flushToken (site : StopSite) (at' : RouterInput)
  | cutClose
  | dieSaveComplete (site : StopSite)
  | saveDeadline (site : StopSite)
  | restore (owner : Nat)
  | pcSample (core : Nat)
  | counterSlotRotation
  | proofTrigger
  | gcycleStep (extra : Bool) (toff : Nat)
  | ptpMessage (port : Nat)
  | ptpLoss
  -- Steps: the host port (R415 to R428).
  | create (h : ReqHeader) (body : CreateBody)
  | destroy (h : ReqHeader)
  | map (h : ReqHeader) (body : MapBody)
  | unmap (h : ReqHeader) (body : UnmapBody)
  | load (h : ReqHeader) (body : LoadBody)
  | bind (h : ReqHeader) (body : BindBody)
  | hostLaunch (h : ReqHeader) (body : LaunchBody)
  | sched (h : ReqHeader) (body : SchedBody)
  | coreRequest (h : ReqHeader) (body : CoreBody)
  | power (h : ReqHeader) (body : PowerBody)
  | attest (h : ReqHeader) (body : AttestBody)
  | firmware (h : ReqHeader) (body : FirmwareBody)
  | ptpcfg (h : ReqHeader) (body : PtpcfgBody)
  | otherRequestCode (h : ReqHeader) (code : BitVec 16)
  | packetDrop (port : Nat)
  | unlistedEndpoint (endpoint : Nat)
  | powerOn
  | functionCheckEnd (f : DevUnit) (passed : Bool)
  | thermalThrottle
  | thermalRecovery
  | thermalShutdown
  | deviceIdentifierAssignment (id : BitVec 12)
  deriving DecidableEq, Repr

end Sys2Proof
end

