-- ==== Sys2Proof/WellFormed.lean ====
section
/-! DEFINITION. Which terms of Instr stand for a word or a step: the conditions that R39, R47 and the instructions' own
tables put on the fields of a word, and the ranges of R13 and R201 for the steps. -/
namespace Sys2Proof

/-- An even first register of a pair (R31). -/
def even (r : SReg) : Bool := decide (r.toNat % 2 = 0)
/-- A register that must start a pair when the form is .q (R31). -/
def pairOk (q : Bool) (r : SReg) : Bool := !q || even r
/-- A scope code beside the order 'none' is 0b000 (R47). -/
def scopeOk (o : MemOrder) (s : MemScope) : Bool := decide (o ≠ .none) || decide (s = .core)
/-- Stores permit only the full/empty codes none and .fe (R47). -/
def storeFeOk (f : Fe) : Bool := decide (f = .none ∨ f = .fe)
/-- The extension bit is zero with .d and .q (R45). -/
def extOk (s : Bool) (z : Size) : Bool := !s || decide (z = .b ∨ z = .h ∨ z = .w)

/-- Width of an element type in bits (R46). -/
def Ty.bits : Ty → Nat
  | .i8 | .n8 | .e4m3 | .e5m2 => 8
  | .i16 | .n16 | .f16 | .bf16 => 16
  | .i32 | .n32 | .f32 => 32
  | .i64 | .n64 => 64
  | .e2m1 => 4

/-- The integer types. -/
def Ty.isInt : Ty → Bool
  | .i8 | .i16 | .i32 | .i64 | .n8 | .n16 | .n32 | .n64 => true
  | .f32 | .f16 | .bf16 | .e4m3 | .e5m2 | .e2m1 => false

/-- The types of FP arithmetic: .f32, .f16, .bf16. -/
def Ty.isFmt : Ty → Bool
  | .f32 | .f16 | .bf16 => true
  | .i8 | .i16 | .i32 | .i64 | .n8 | .n16 | .n32 | .n64 | .e4m3 | .e5m2 | .e2m1 => false

/-- The combinations that RED permits (R172). -/
def redOk (op : RedOp) (arr : Bool) (t : Ty) : Bool :=
  (t.isInt && decide (t.bits = 32 ∨ t.bits = 64) && !arr) ||
  (decide (t = .f32) && (decide (op = .add) || (!arr && decide (op = .min ∨ op = .max))))

/-- The part of a VCVT lies below P, and .e2m1 does not convert to or from a 64-bit type (R254). -/
def cvtOk (d s : Ty) (part : BitVec 3) : Bool :=
  let hi := max d.bits s.bits
  let lo := min d.bits s.bits
  decide (hi / lo < 16) && decide (part.toNat < hi / lo)

/-- A core identifier that names a core (R13). -/
def coreOk (c : Nat) : Bool := decide (c < 4096) && decide (c % 128 < 96)

/-- Instances of each structure class at manufacture (R201). -/
def instances : Nat → Nat
  | 0 => 960 | 1 => 12 | 2 => 8 | 3 => 256 | 4 => 64 | 5 => 12 | 6 => 8 | 7 => 32 | _ => 0

/-- Counter numbers that R342 lists. -/
def counterOk (n : Nat) : Bool :=
  decide (n ≤ 9) || decide (0x100 ≤ n ∧ n < 0x140) || decide (0x200 ≤ n ∧ n < 0x280)

/-- Eight weights from 1 to 8 (R204). -/
def weightsOk (ws : List Nat) : Bool := decide (ws.length = 8) && ws.all (fun w => decide (1 ≤ w ∧ w ≤ 8))
/-- Eight minima from 0 to 1,024 (R209). -/
def minimaOk (ms : List Nat) : Bool := decide (ms.length = 8) && ms.all (fun m => decide (m ≤ 1024))

/-- A unit that exists (R11, R15, R422). -/
def unitOk : DevUnit → Bool
  | .port n => decide (n < 12)
  | .link n => decide (n < 6)
  | .channel s c => decide (s < 8 ∧ c < 32)
  | .cluster n => decide (n < 32)
  | .galley d => decide (d < 4)
  | .control d => decide (d < 4)

/-- Well-formed terms: those that an encoding, or a step of the device, has. -/
def Instr.wf : Instr → Bool
  | .illop _ reason => decide (1 ≤ reason.toNat ∧ reason.toNat ≤ 5)
  | .add _ _ _ => true
  | .sub _ _ _ => true
  | .and _ _ _ => true
  | .or _ _ _ => true
  | .xor _ _ _ => true
  | .andn _ _ _ => true
  | .orn _ _ _ => true
  | .xnor _ _ _ => true
  | .sll _ _ _ => true
  | .srl _ _ _ => true
  | .sra _ _ _ => true
  | .ror _ _ _ => true
  | .slt _ _ _ => true
  | .sltn _ _ _ => true
  | .min _ _ _ => true
  | .max _ _ _ => true
  | .minn _ _ _ => true
  | .maxn _ _ _ => true
  | .mul _ _ _ => true
  | .mulh _ _ _ => true
  | .mulhn _ _ _ => true
  | .div _ _ _ => true
  | .divn _ _ _ => true
  | .rem _ _ _ => true
  | .remn _ _ _ => true
  | .clz _ _ => true
  | .ctz _ _ => true
  | .popc _ _ => true
  | .bswap _ _ => true
  | .addw _ _ _ => true
  | .subw _ _ _ => true
  | .sllw _ _ _ => true
  | .srlw _ _ _ => true
  | .sraw _ _ _ => true
  | .mulw _ _ _ => true
  | .adds _ _ _ => true
  | .subs _ _ _ => true
  | .addi _ _ _ => true
  | .andi _ _ _ => true
  | .ori _ _ _ => true
  | .xori _ _ _ => true
  | .slti _ _ _ => true
  | .sltin _ _ _ => true
  | .slli _ _ _ => true
  | .srli _ _ _ => true
  | .srai _ _ _ => true
  | .rori _ _ _ => true
  | .slliw _ _ _ => true
  | .srliw _ _ _ => true
  | .sraiw _ _ _ => true
  | .hwz _ _ _ => true
  | .hwi _ _ _ => true
  | .hws _ _ _ => true
  | .adpc _ _ => true
  | .adpch _ _ => true
  | .beq _ _ _ => true
  | .bne _ _ _ => true
  | .blt _ _ _ => true
  | .bge _ _ _ => true
  | .bltn _ _ _ => true
  | .bgen _ _ _ => true
  | .bany _ _ _ => true
  | .bnone _ _ _ => true
  | .loop _ _ => true
  | .loopn _ _ _ => true
  | .loopd _ _ _ => true
  | .jmp _ => true
  | .call _ => true
  | .jreg _ _ => true
  | .fadd _ _ _ _ _ => true
  | .fsub _ _ _ _ _ => true
  | .fmul _ _ _ _ _ => true
  | .fdiv _ _ _ _ _ => true
  | .fsqrt _ _ _ _ => true
  | .fmin _ _ _ _ => true
  | .fmax _ _ _ _ => true
  | .fcopysg _ _ _ _ => true
  | .fneg _ _ _ => true
  | .fabs _ _ _ => true
  | .feq _ _ _ _ => true
  | .flt _ _ _ _ => true
  | .fle _ _ _ _ => true
  | .fkind _ _ _ => true
  | .fcvt _ _ _ _ _ => true
  | .fcvti _ _ _ _ _ => true
  | .fcvtf _ _ _ _ _ => true
  | .fmadd _ _ _ _ _ _ => true
  | .fmsub _ _ _ _ _ _ => true
  | .fnmadd _ _ _ _ _ _ => true
  | .fnmsub _ _ _ _ _ _ => true
  | .nop => true
  | .trap _ => true
  | .brk _ => true
  | .eret => true
  | .crd _ creg => decide (creg ≠ .fflags)
  | .crdFflags _ => true
  | .cwr creg _ => decide (creg ≠ .fflags) && decide (creg ≠ .status)
  | .cwrStatus _ => true
  | .cwrFflags _ => true
  | .halt => true
  | .ld kind rd _ _ => pairOk (decide (kind = .q)) rd
  | .st size rs _ _ => pairOk (decide (size = .q)) rs
  | .ldx size signed _ ord scope rd _ _ => scopeOk ord scope && decide (ord = .none ∨ ord = .acq) && extOk signed size && pairOk (decide (size = .q)) rd
  | .stx size fq ord scope rs _ _ => scopeOk ord scope && decide (ord = .none ∨ ord = .rel) && storeFeOk fq && pairOk (decide (size = .q)) rs
  | .atomSwp size ord scope rd _ rb => scopeOk ord scope && decide (size = .w ∨ size = .d ∨ size = .q) && pairOk (decide (size = .q)) rd && pairOk (decide (size = .q)) rb
  | .atomCas size ord scope rd _ rb => scopeOk ord scope && decide (size = .w ∨ size = .d ∨ size = .q) && pairOk (decide (size = .q)) rd && pairOk (decide (size = .q)) rb
  | .atomAdd size ord scope _ _ _ => scopeOk ord scope && decide (size = .w ∨ size = .d)
  | .atomAnd size ord scope _ _ _ => scopeOk ord scope && decide (size = .w ∨ size = .d)
  | .atomOr size ord scope _ _ _ => scopeOk ord scope && decide (size = .w ∨ size = .d)
  | .atomXor size ord scope _ _ _ => scopeOk ord scope && decide (size = .w ∨ size = .d)
  | .atomMax size ord scope _ _ _ => scopeOk ord scope && decide (size = .w ∨ size = .d)
  | .atomMin size ord scope _ _ _ => scopeOk ord scope && decide (size = .w ∨ size = .d)
  | .redAdd arr ty ord scope _ _ => scopeOk ord scope && decide (ord = .none ∨ ord = .rel) && redOk .add arr ty
  | .redAnd arr ty ord scope _ _ => scopeOk ord scope && decide (ord = .none ∨ ord = .rel) && redOk .and arr ty
  | .redOr arr ty ord scope _ _ => scopeOk ord scope && decide (ord = .none ∨ ord = .rel) && redOk .or arr ty
  | .redXor arr ty ord scope _ _ => scopeOk ord scope && decide (ord = .none ∨ ord = .rel) && redOk .xor arr ty
  | .redMin arr ty ord scope _ _ => scopeOk ord scope && decide (ord = .none ∨ ord = .rel) && redOk .min arr ty
  | .redMax arr ty ord scope _ _ => scopeOk ord scope && decide (ord = .none ∨ ord = .rel) && redOk .max arr ty
  | .alrb ord scope _ => scopeOk ord scope
  | .fence ord _ => decide (ord ≠ .none)
  | .seal _ _ => true
  | .unseal _ _ => true
  | .xinv _ _ => true
  | .xinva _ => true
  | .rinv _ => true
  | .cpref _ => true
  | .orph _ _ _ => true
  | .vld _ _ _ _ _ _ _ => true
  | .vlds _ _ _ _ _ _ _ => true
  | .vldx _ _ _ _ _ _ _ => true
  | .vldr _ _ _ _ _ _ _ => true
  | .vst _ fq _ _ _ _ _ => storeFeOk fq
  | .vsts _ fq _ _ _ _ _ => storeFeOk fq
  | .vstx _ fq _ _ _ _ _ => storeFeOk fq
  | .vadd _ _ _ _ _ => true
  | .vsub _ _ _ _ _ => true
  | .vmul _ _ _ _ _ => true
  | .vmulh _ _ _ _ _ => true
  | .vmin _ _ _ _ _ => true
  | .vmax _ _ _ _ _ => true
  | .vand _ _ _ _ _ => true
  | .vor _ _ _ _ _ => true
  | .vxor _ _ _ _ _ => true
  | .vandn _ _ _ _ _ => true
  | .vsll _ _ _ _ _ => true
  | .vsrl _ _ _ _ _ => true
  | .vsra _ _ _ _ _ => true
  | .vadds _ _ _ _ _ => true
  | .vsubs _ _ _ _ _ => true
  | .vabsd _ _ _ _ _ => true
  | .vavg _ _ _ _ _ => true
  | .vneg _ _ _ _ => true
  | .vabs _ _ _ _ => true
  | .vpopc _ _ _ _ => true
  | .vfadd _ _ _ _ _ => true
  | .vfsub _ _ _ _ _ => true
  | .vfmul _ _ _ _ _ => true
  | .vfdiv _ _ _ _ _ => true
  | .vfsqrt _ _ _ _ => true
  | .vfmin _ _ _ _ _ => true
  | .vfmax _ _ _ _ _ => true
  | .vfcopysg _ _ _ _ _ => true
  | .vfneg _ _ _ _ => true
  | .vfabs _ _ _ _ => true
  | .vfkind _ _ _ _ => true
  | .vfma _ _ _ _ _ _ => true
  | .vfms _ _ _ _ _ _ => true
  | .vtrn size vd => decide (size ≠ .d) && decide (vd.toNat % 8 = 0)
  | .vperm _ _ _ _ _ => true
  | .vlift _ _ _ _ _ => true
  | .vdrop _ _ _ _ _ => true
  | .vrev _ _ _ _ => true
  | .vsqz _ _ _ _ => true
  | .vknitl _ _ _ _ _ => true
  | .vknith _ _ _ _ _ => true
  | .vsiftev _ _ _ _ _ => true
  | .vsiftod _ _ _ _ _ => true
  | .vceq ty _ _ _ _ => decide (ty ≠ .e2m1)
  | .vcne ty _ _ _ _ => decide (ty ≠ .e2m1)
  | .vclt ty _ _ _ _ => decide (ty ≠ .e2m1)
  | .vcle ty _ _ _ _ => decide (ty ≠ .e2m1)
  | .vbound _ _ _ _ => true
  | .pand _ _ _ => true
  | .por _ _ _ => true
  | .pxor _ _ _ => true
  | .pandn _ _ _ => true
  | .pcnt _ _ _ => true
  | .pfirst _ _ _ => true
  | .vrsum ty _ _ _ _ => ty.isInt || ty.isFmt
  | .vrsumArr ty _ _ _ _ => ty.isFmt
  | .vrmin ty _ _ _ _ => ty.isInt || ty.isFmt
  | .vrmax ty _ _ _ _ => ty.isInt || ty.isFmt
  | .vrand ty _ _ _ _ => ty.isInt
  | .vror ty _ _ _ _ => ty.isInt
  | .vrxor ty _ _ _ _ => ty.isInt
  | .vcvt dst src _ part _ _ _ => cvtOk dst src part
  | .frame _ _ _ _ => true
  | .vmov _ _ _ => true
  | .vdup _ _ _ _ => true
  | .vins _ _ _ _ => true
  | .vextr _ _ _ _ => true
  | .vidx _ _ _ _ _ => true
  | .vwidth _ => true
  | .vdraw _ _ _ => true
  | .vdrawb _ _ _ => true
  | .vdrawu _ _ _ => true
  | .vnoiseG _ _ _ => true
  | .vsrcvtBf16F32 _ _ _ => true
  | .vsrcvtF16F32 _ _ _ => true
  | .vsrcvtE4m3F32 _ _ _ => true
  | .vsrcvtE5m2F32 _ _ _ => true
  | .vsrcvtE2m1F32 _ _ _ => true
  | .vsrcvtE4m3F16 _ _ _ => true
  | .vsrcvtE5m2F16 _ _ _ => true
  | .vsrcvtE4m3Bf16 _ _ _ => true
  | .mma _ _ _ _ _ _ _ _ => true
  | .mswap _ => true
  | .mwait _ => true
  | .mzero _ => true
  | .mlda _ _ => true
  | .msto _ _ _ => true
  | .mrow _ _ _ => true
  | .pdesc _ _ _ => true
  | .pdset _ _ => true
  | .pdrd _ _ => true
  | .pscale _ _ _ => true
  | .pgscale _ _ _ => true
  | .qpush _ rd ra => even rd && even ra
  | .qpop _ rd => even rd
  | .qtry _ rd => even rd
  | .qstat _ _ => true
  | .qabort _ => true
  | .barv _ _ => true
  | .barw _ _ _ => true
  | .evsig _ _ => true
  | .evwait _ _ => true
  | .evtry _ _ => true
  | .mlock _ => true
  | .mtry _ _ => true
  | .munlock _ _ => true
  | .monitorAndWait acq scope _ _ _ => acq || decide (scope = .core)
  | .launch _ _ _ => true
  | .tspawn _ => true
  | .tnext rd => even rd
  | .tend => true
  | .await _ => true
  | .tinfo _ k => decide (k.toNat < 7)
  | .tclose _ _ _ => true
  | .tqstat _ _ => true
  | .fuse _ _ => true
  | .split => true
  | .gidx _ => true
  | .gsize _ => true
  | .gredAdd _ _ => true
  | .gredAnd _ _ => true
  | .gredOr _ _ => true
  | .gredXor _ _ => true
  | .gredMin _ _ => true
  | .gredMax _ _ => true
  | .gredMinn _ _ => true
  | .gredMaxn _ _ => true
  | .draw _ _ _ => true
  | .dkey _ _ => true
  | .dkset _ _ => true
  | .dkrd _ _ => true
  | .reseed _ => true
  | .seedset _ _ => true
  | .seedrd _ => true
  | .cplace _ _ => true
  | .exq _ _ _ => true
  | .exqm _ _ => true
  | .propose ord scope rd _ rb => scopeOk ord scope && even rd && even rb
  | .cread _ ord scope rd _ _ => scopeOk ord scope && decide (ord = .none ∨ ord = .acq) && even rd
  | .recycleRetire ord scope _ _ _ => scopeOk ord scope
  | .recycleOpen ord scope _ _ _ => scopeOk ord scope
  | .cinit ord scope _ _ => scopeOk ord scope
  | .fpt _ => true
  | .fcut _ _ _ => true
  | .fprog _ _ => true
  | .ctrd _ n => counterOk n.toNat
  | .ctsel _ _ => true
  | .tstamp rd => even rd
  | .proof _ _ => true
  | .asynchronousCause => true
  | .preemptRequest core _ => coreOk core
  | .uncorrRecord core _ place => coreOk core && decide (place.toNat ≤ 5)
  | .frameReplay => true
  | .matrixQueueEntry core _ _ => coreOk core
  | .copy core _ _ => coreOk core
  | .mcast core _ _ => coreOk core
  | .fill core _ => coreOk core
  | .barrierCfgWrite _ _ => true
  | .barrierParentWrite _ _ => true
  | .eventWordWrite _ _ => true
  | .eventUnitWrite _ _ => true
  | .eventSignal _ => true
  | .arrive _ => true
  | .release _ _ => true
  | .absent _ => true
  | .present _ => true
  | .barrierTimeout cluster _ => decide (cluster < 32)
  | .launchStart _ _ => true
  | .taskStart core => coreOk core
  | .spawnPacket _ => true
  | .awaitResume core => coreOk core
  | .clusterReport _ _ cluster => decide (cluster < 32)
  | .dieReport _ _ die => decide (die < 4)
  | .launchCompletion _ _ => true
  | .arbitrationRound cls inst _ => decide (cls < 8) && decide (inst < instances cls)
  | .sweepMove owner stack => decide (owner < 64 ∧ stack < 8)
  | .windowClose owner stack => decide (owner < 64 ∧ stack < 8)
  | .unitRetirement u => unitOk u
  | .unitReturn u => unitOk u
  | .weightChange owner weights => decide (0 < owner ∧ owner < 64) && weightsOk weights
  | .pointFire _ _ _ _ _ => true
  | .storeAtHome _ => true
  | .update _ cluster => decide (cluster < 32)
  | .commit _ => true
  | .commitAtSharer _ cluster => decide (cluster < 32)
  | .loadMiss cluster pa => decide (cluster < 32) && decide (pa < Config.hbmEnd)
  | .grainEviction cluster pa => decide (cluster < 32) && decide (pa < Config.hbmEnd)
  | .directoryEntryReuse pa => decide (pa < Config.hbmEnd)
  | .redAcceptance cluster r => decide (cluster < 32) && redOk r.op r.arr r.ty
  | .partialGiveUp cluster _ => decide (cluster < 32)
  | .pageWalk cluster _ => decide (cluster < 32)
  | .remoteRefusal _ => true
  | .scrub cluster => decide (cluster < 32)
  | .scrubEnd cluster => decide (cluster < 32)
  | .synchronisedStop owner _ => decide (owner < 64)
  | .coreHalt core => coreOk core
  | .routerHalt site router => decide (site.owner < 64 ∧ site.die < 4 ∧ router < 48)
  | .flushToken site at' => decide (site.owner < 64 ∧ site.die < 4 ∧ at'.router < 48 ∧ at'.input < 5)
  | .cutClose => true
  | .dieSaveComplete site => decide (site.owner < 64 ∧ site.die < 4)
  | .saveDeadline site => decide (site.owner < 64 ∧ site.die < 4)
  | .restore owner => decide (owner < 64)
  | .pcSample core => coreOk core
  | .counterSlotRotation => true
  | .proofTrigger => true
  | .gcycleStep _ _ => true
  | .ptpMessage port => decide (port < 12)
  | .ptpLoss => true
  | .create _ body => weightsOk body.weights && minimaOk body.minima && body.clusters.all (fun c => decide (c < 32))
  | .destroy _ => true
  | .map _ _ => true
  | .unmap _ _ => true
  | .load _ _ => true
  | .bind _ _ => true
  | .hostLaunch _ _ => true
  | .sched _ _ => true
  | .coreRequest _ _ => true
  | .power _ _ => true
  | .attest _ _ => true
  | .firmware _ _ => true
  | .ptpcfg _ _ => true
  | .otherRequestCode _ _ => true
  | .packetDrop port => decide (port < 12)
  | .unlistedEndpoint _ => true
  | .powerOn => true
  | .functionCheckEnd f _ => unitOk f
  | .thermalThrottle => true
  | .thermalRecovery => true
  | .thermalShutdown => true
  | .deviceIdentifierAssignment _ => true

end Sys2Proof
end

