-- ==== Sys2Proof/Decode.lean ====
section
/-! DEFINITION. The decoder of instruction words, total on every word, and after it the encoder, both written from the
formats of R33 and the encoding tables of the engines' chapters. A word that is no instruction is rejected with the reason
code of R40; the order of the checks in each decoder is the order of that table. -/
namespace Sys2Proof

/-- What decoding answers: an instruction, or the reason code of R40. -/
abbrev Decoded := Except (BitVec 4) Instr

/-- The instructions of the last families of the encoding (TASK, GANG, scalar DRAW, CELL, FRONT, PERF). Lean's compiler builds no
constructor with fields past the 245th of one inductive, so their decoders answer in this type and Late.toInstr names the
instruction. -/
inductive Late where
  | launch (rd ra : SReg) (q : BitVec 10)
  | tspawn (ra : SReg)
  | tnext (rd : SReg)
  | tend
  | await (ra : SReg)
  | tinfo (rd : SReg) (k : BitVec 3)
  | tclose (rd ra : SReg) (q : BitVec 10)
  | tqstat (rd : SReg) (q : BitVec 10)
  | fuse (rd : SReg) (n : BitVec 5)
  | split
  | gidx (rd : SReg)
  | gsize (rd : SReg)
  | gredAdd (rd ra : SReg)
  | gredAnd (rd ra : SReg)
  | gredOr (rd ra : SReg)
  | gredXor (rd ra : SReg)
  | gredMin (rd ra : SReg)
  | gredMax (rd ra : SReg)
  | gredMinn (rd ra : SReg)
  | gredMaxn (rd ra : SReg)
  | draw (rd : SReg) (ds : BitVec 4) (ra : SReg)
  | dkey (ds : BitVec 4) (t : BitVec 10)
  | dkset (ds : BitVec 4) (ra : SReg)
  | dkrd (rd : SReg) (ds : BitVec 4)
  | reseed (rd : SReg)
  | seedset (rd ra : SReg)
  | seedrd (rd : SReg)
  | cplace (rd ra : SReg)
  | exq (rd ra : SReg) (c : BitVec 3)
  | exqm (rd : SReg) (c : BitVec 3)
  | propose (ord : MemOrder) (scope : MemScope) (rd ra rb : SReg)
  | cread (wait : Bool) (ord : MemOrder) (scope : MemScope) (rd ra rb : SReg)
  | recycleRetire (ord : MemOrder) (scope : MemScope) (rd ra rb : SReg)
  | recycleOpen (ord : MemOrder) (scope : MemScope) (rd ra rb : SReg)
  | cinit (ord : MemOrder) (scope : MemScope) (ra rb : SReg)
  | fpt (rd : SReg)
  | fcut (rd ra : SReg) (q : BitVec 10)
  | fprog (rd : SReg) (q : BitVec 10)
  | ctrd (rd : SReg) (n : BitVec 10)
  | ctsel (ra : SReg) (s : BitVec 5)
  | tstamp (rd : SReg)
  | proof (rd ra : SReg)
  deriving DecidableEq, Repr

/-- What the decoders of the last families answer. -/
abbrev DecodedLate := Except (BitVec 4) Late

/-- Continue when a condition holds; otherwise the word is refused with a reason (R39, R40). -/
def need {β : Type} (reason : BitVec 4) (c : Bool) (k : Except (BitVec 4) β) : Except (BitVec 4) β := if c then k else .error reason

/-- Continue with the value of a code; a reserved code is reason 0x4 (R40). -/
def code {α β : Type} (o : Option α) (k : α → Except (BitVec 4) β) : Except (BitVec 4) β :=
  match o with
  | some a => k a
  | none => .error 4#4

/-- An unassigned sub-function (R40). -/
def unassigned {β : Type} : Except (BitVec 4) β := .error 2#4

-- The fields of R33.
def moOf (w : Word32) : BitVec 6 := w.extractLsb' 26 6
def f25 (w : Word32) : BitVec 5 := w.extractLsb' 21 5
def f20 (w : Word32) : BitVec 5 := w.extractLsb' 16 5
def f15 (w : Word32) : BitVec 5 := w.extractLsb' 11 5
def f10 (w : Word32) : BitVec 5 := w.extractLsb' 6 5
def fn11 (w : Word32) : BitVec 11 := w.extractLsb' 0 11
def fn8 (w : Word32) : BitVec 8 := w.extractLsb' 0 8
def imm16 (w : Word32) : BitVec 16 := w.extractLsb' 0 16
def off13 (w : Word32) : BitVec 13 := w.extractLsb' 0 13
def off26 (w : Word32) : BitVec 26 := w.extractLsb' 0 26
def f13 (w : Word32) : BitVec 3 := w.extractLsb' 13 3
def subOf (w : Word32) : BitVec 6 := w.extractLsb' 10 6
def imm10 (w : Word32) : BitVec 10 := w.extractLsb' 0 10
def pgOf (w : Word32) : BitVec 3 := w.extractLsb' 8 3
def low {n : Nat} (w : Word32) : BitVec n := w.extractLsb' 0 n
/-- Bits [hi:lo] of a word are zero (a must-be-zero field, R36). -/
def isZero (w : Word32) (hi lo : Nat) : Bool := decide (field w.toNat hi lo = 0)

-- The shared codes of R44 to R48, each with its inverse.
def Size.ofCode (c : BitVec 3) : Option Size :=
  match c.toNat with
  | 0 => some .b | 1 => some .h | 2 => some .w | 3 => some .d | 4 => some .q | _ => none
def Size.code : Size → BitVec 3
  | .b => 0 | .h => 1 | .w => 2 | .d => 3 | .q => 4

def ESize.ofCode (c : BitVec 3) : Option ESize :=
  match c.toNat with
  | 0 => some .b | 1 => some .h | 2 => some .w | 3 => some .d | _ => none
def ESize.code : ESize → BitVec 3
  | .b => 0 | .h => 1 | .w => 2 | .d => 3

/-- The load column of R44. -/
def LdKind.ofCode (c : BitVec 3) : LdKind :=
  match c.toNat with
  | 0 => .bz | 1 => .hz | 2 => .wz | 3 => .d | 4 => .bs | 5 => .hs | 6 => .ws | _ => .q
def LdKind.code : LdKind → BitVec 3
  | .bz => 0 | .hz => 1 | .wz => 2 | .d => 3 | .bs => 4 | .hs => 5 | .ws => 6 | .q => 7

/-- The store column of R44. -/
def Size.ofStCode (c : BitVec 3) : Option Size :=
  match c.toNat with
  | 0 => some .b | 1 => some .h | 2 => some .w | 3 => some .d | 7 => some .q | _ => none
def Size.stCode : Size → BitVec 3
  | .b => 0 | .h => 1 | .w => 2 | .d => 3 | .q => 7

/-- R46. -/
def Ty.ofCode (c : BitVec 4) : Option Ty :=
  match c.toNat with
  | 0 => some .i8 | 1 => some .i16 | 2 => some .i32 | 3 => some .i64
  | 4 => some .n8 | 5 => some .n16 | 6 => some .n32 | 7 => some .n64
  | 8 => some .f32 | 9 => some .f16 | 10 => some .bf16 | 11 => some .e4m3 | 12 => some .e5m2 | 13 => some .e2m1
  | _ => none
def Ty.code : Ty → BitVec 4
  | .i8 => 0 | .i16 => 1 | .i32 => 2 | .i64 => 3 | .n8 => 4 | .n16 => 5 | .n32 => 6 | .n64 => 7
  | .f32 => 8 | .f16 => 9 | .bf16 => 10 | .e4m3 => 11 | .e5m2 => 12 | .e2m1 => 13

def ITy.ofCode (c : BitVec 3) : ITy :=
  match c.toNat with
  | 0 => .i8 | 1 => .i16 | 2 => .i32 | 3 => .i64 | 4 => .n8 | 5 => .n16 | 6 => .n32 | _ => .n64
def ITy.code : ITy → BitVec 3
  | .i8 => 0 | .i16 => 1 | .i32 => 2 | .i64 => 3 | .n8 => 4 | .n16 => 5 | .n32 => 6 | .n64 => 7

def FFmt.ofCode (c : BitVec 3) : Option FFmt :=
  match c.toNat with
  | 0 => some .f32 | 1 => some .f16 | 2 => some .bf16 | _ => none
def FFmt.code : FFmt → BitVec 3
  | .f32 => 0 | .f16 => 1 | .bf16 => 2
/-- The two-bit format code of FMADD and VFMA (R122, R248). -/
def FFmt.ofCode2 (c : BitVec 2) : Option FFmt :=
  match c.toNat with
  | 0 => some .f32 | 1 => some .f16 | 2 => some .bf16 | _ => none
def FFmt.code2 : FFmt → BitVec 2
  | .f32 => 0 | .f16 => 1 | .bf16 => 2

/-- R48 without .sr, which no scalar instruction permits (R118). -/
def Rm.ofCode (c : BitVec 3) : Option Rm :=
  match c.toNat with
  | 0 => some .rne | 1 => some .rtz | 2 => some .rdn | 3 => some .rup | _ => none
def Rm.code : Rm → BitVec 3
  | .rne => 0 | .rtz => 1 | .rdn => 2 | .rup => 3
def Rm.ofCode2 (c : BitVec 2) : Rm :=
  match c.toNat with
  | 0 => .rne | 1 => .rtz | 2 => .rdn | _ => .rup
def Rm.code2 : Rm → BitVec 2
  | .rne => 0 | .rtz => 1 | .rdn => 2 | .rup => 3

/-- R47. -/
def MemScope.ofCode (c : BitVec 3) : Option MemScope :=
  match c.toNat with
  | 0 => some .core | 1 => some .cl | 2 => some .die | 3 => some .dev | 4 => some .pod | _ => none
def MemScope.code : MemScope → BitVec 3
  | .core => 0 | .cl => 1 | .die => 2 | .dev => 3 | .pod => 4
def MemOrder.ofCode (c : BitVec 2) : MemOrder :=
  match c.toNat with
  | 0 => .none | 1 => .acq | 2 => .rel | _ => .ar
def MemOrder.code : MemOrder → BitVec 2
  | .none => 0 | .acq => 1 | .rel => 2 | .ar => 3
def Fe.ofCode (c : BitVec 2) : Fe :=
  match c.toNat with
  | 0 => .none | 1 => .fe | 2 => .fc | _ => .fk
def Fe.code : Fe → BitVec 2
  | .none => 0 | .fe => 1 | .fc => 2 | .fk => 3

/-- The numbers of R88. -/
def CReg.ofCode (c : BitVec 10) : Option CReg :=
  match c.toNat with
  | 0x000 => some .status | 0x001 => some .cause | 0x002 => some .epc | 0x003 => some .faddr
  | 0x004 => some .finfo | 0x005 => some .tvec | 0x006 => some .tstack | 0x007 => some .kscr
  | 0x008 => some .savearea | 0x009 => some .ctxbuf | 0x00A => some .ipend | 0x00B => some .frst
  | 0x010 => some .fflags | 0x011 => some .coreid | 0x012 => some .owner | 0x013 => some .gcycle
  | _ => none
def CReg.code : CReg → BitVec 10
  | .status => 0x000 | .cause => 0x001 | .epc => 0x002 | .faddr => 0x003 | .finfo => 0x004 | .tvec => 0x005
  | .tstack => 0x006 | .kscr => 0x007 | .savearea => 0x008 | .ctxbuf => 0x009 | .ipend => 0x00A | .frst => 0x00B
  | .fflags => 0x010 | .coreid => 0x011 | .owner => 0x012 | .gcycle => 0x013

def boolBit (b : Bool) : BitVec 1 := if b then 1#1 else 0#1
def bitBool (c : BitVec 1) : Bool := decide (c = 1#1)

/-- Order and scope together: a scope beside the order 'none' is 0b000 (R47). -/
def ordScope {β : Type} (o : BitVec 2) (s : BitVec 3) (allowed : MemOrder → Bool)
    (k : MemOrder → MemScope → Except (BitVec 4) β) : Except (BitVec 4) β :=
  code (MemScope.ofCode s) fun sc =>
    need 4 (allowed (MemOrder.ofCode o) && scopeOk (MemOrder.ofCode o) sc) (k (MemOrder.ofCode o) sc)

def anyOrder (_ : MemOrder) : Bool := true
def loadOrder (o : MemOrder) : Bool := decide (o = .none ∨ o = .acq)
def storeOrder (o : MemOrder) : Bool := decide (o = .none ∨ o = .rel)

/-- ALU (R105, R106). -/
def decodeAlu (w : Word32) : Decoded :=
  let rd := f25 w; let ra := f20 w; let rb := f15 w
  let un (i : Instr) : Decoded := need 3 (isZero w 15 11) (.ok i)
  match (fn11 w).toNat with
  | 0x000 => .ok (.add rd ra rb) | 0x001 => .ok (.sub rd ra rb) | 0x002 => .ok (.and rd ra rb)
  | 0x003 => .ok (.or rd ra rb) | 0x004 => .ok (.xor rd ra rb) | 0x005 => .ok (.andn rd ra rb)
  | 0x006 => .ok (.orn rd ra rb) | 0x007 => .ok (.xnor rd ra rb) | 0x008 => .ok (.sll rd ra rb)
  | 0x009 => .ok (.srl rd ra rb) | 0x00A => .ok (.sra rd ra rb) | 0x00B => .ok (.ror rd ra rb)
  | 0x00C => .ok (.slt rd ra rb) | 0x00D => .ok (.sltn rd ra rb) | 0x00E => .ok (.min rd ra rb)
  | 0x00F => .ok (.max rd ra rb) | 0x010 => .ok (.minn rd ra rb) | 0x011 => .ok (.maxn rd ra rb)
  | 0x012 => .ok (.mul rd ra rb) | 0x013 => .ok (.mulh rd ra rb) | 0x014 => .ok (.mulhn rd ra rb)
  | 0x015 => .ok (.div rd ra rb) | 0x016 => .ok (.divn rd ra rb) | 0x017 => .ok (.rem rd ra rb)
  | 0x018 => .ok (.remn rd ra rb) | 0x019 => un (.clz rd ra) | 0x01A => un (.ctz rd ra)
  | 0x01B => un (.popc rd ra) | 0x01C => un (.bswap rd ra) | 0x020 => .ok (.addw rd ra rb)
  | 0x021 => .ok (.subw rd ra rb) | 0x022 => .ok (.sllw rd ra rb) | 0x023 => .ok (.srlw rd ra rb)
  | 0x024 => .ok (.sraw rd ra rb) | 0x025 => .ok (.mulw rd ra rb) | 0x028 => .ok (.adds rd ra rb)
  | 0x029 => .ok (.subs rd ra rb)
  | _ => unassigned

/-- Immediate shifts (R109). -/
def decodeShiftImm (w : Word32) : Decoded :=
  let rd := f25 w; let ra := f20 w
  let s6 (i : Instr) : Decoded := need 3 (isZero w 9 6) (.ok i)
  let s5 (i : Instr) : Decoded := need 3 (isZero w 9 5) (.ok i)
  match (subOf w).toNat with
  | 0 => s6 (.slli rd ra (low w)) | 1 => s6 (.srli rd ra (low w)) | 2 => s6 (.srai rd ra (low w)) | 3 => s6 (.rori rd ra (low w))
  | 4 => s5 (.slliw rd ra (low w)) | 5 => s5 (.srliw rd ra (low w)) | 6 => s5 (.sraiw rd ra (low w))
  | _ => unassigned

/-- MOVW (R110). -/
def decodeMovw (w : Word32) : Decoded :=
  let rd := f25 w; let k : BitVec 2 := w.extractLsb' 16 2
  let z (i : Instr) : Decoded := need 3 (isZero w 20 20) (.ok i)
  match field w.toNat 19 18 with
  | 0 => z (.hwz rd k (imm16 w)) | 1 => z (.hwi rd k (imm16 w)) | 2 => z (.hws rd k (imm16 w))
  | _ => unassigned

/-- ADPC (R111). -/
def decodeAdpc (w : Word32) : Decoded :=
  match (f20 w).toNat with
  | 0 => .ok (.adpc (f25 w) (imm16 w)) | 1 => .ok (.adpch (f25 w) (imm16 w))
  | _ => unassigned

/-- BCMP (R113). -/
def decodeBcmp (w : Word32) : Decoded :=
  let a := f25 w; let b := f20 w; let o := off13 w
  match (f13 w).toNat with
  | 0 => .ok (.beq a b o) | 1 => .ok (.bne a b o) | 2 => .ok (.blt a b o) | 3 => .ok (.bge a b o)
  | 4 => .ok (.bltn a b o) | 5 => .ok (.bgen a b o) | 6 => .ok (.bany a b o) | _ => .ok (.bnone a b o)

/-- LOOP (R114). -/
def decodeLoop (w : Word32) : Decoded :=
  match (f13 w).toNat with
  | 0 => need 3 (isZero w 20 16) (.ok (.loop (f25 w) (off13 w)))
  | 1 => .ok (.loopn (f25 w) (f20 w) (off13 w)) | 2 => .ok (.loopd (f25 w) (f20 w) (off13 w))
  | _ => unassigned

/-- FPU (R118 to R121). -/
def decodeFpu (w : Word32) : Decoded :=
  let rd := f25 w; let ra := f20 w; let rb := f15 w
  let fmt := FFmt.ofCode (low w)
  let rm := Rm.ofCode (w.extractLsb' 3 3)
  let round (k : FFmt → Rm → Decoded) : Decoded := code fmt fun f => code rm fun m => k f m
  let plain (k : FFmt → Decoded) : Decoded := code fmt fun f => need 4 (isZero w 5 3) (k f)
  let un (k : Decoded) : Decoded := need 3 (isZero w 15 11) k
  match (f10 w).toNat with
  | 0x00 => round fun f m => .ok (.fadd f m rd ra rb)
  | 0x01 => round fun f m => .ok (.fsub f m rd ra rb)
  | 0x02 => round fun f m => .ok (.fmul f m rd ra rb)
  | 0x03 => round fun f m => .ok (.fdiv f m rd ra rb)
  | 0x04 => un (round fun f m => .ok (.fsqrt f m rd ra))
  | 0x05 => plain fun f => .ok (.fmin f rd ra rb)
  | 0x06 => plain fun f => .ok (.fmax f rd ra rb)
  | 0x07 => plain fun f => .ok (.fcopysg f rd ra rb)
  | 0x08 => un (plain fun f => .ok (.fneg f rd ra))
  | 0x09 => un (plain fun f => .ok (.fabs f rd ra))
  | 0x0A => plain fun f => .ok (.feq f rd ra rb)
  | 0x0B => plain fun f => .ok (.flt f rd ra rb)
  | 0x0C => plain fun f => .ok (.fle f rd ra rb)
  | 0x0D => un (plain fun f => .ok (.fkind f rd ra))
  | 0x0E => round fun f m => need 4 (isZero w 15 14) (code (FFmt.ofCode (w.extractLsb' 11 3)) fun s => .ok (.fcvt f s m rd ra))
  | 0x0F => round fun f m => need 4 (isZero w 15 12) (.ok (.fcvti f (bitBool (w.extractLsb' 11 1)) m rd ra))
  | 0x10 => round fun f m => need 4 (isZero w 15 12) (.ok (.fcvtf f (bitBool (w.extractLsb' 11 1)) m rd ra))
  | _ => unassigned

/-- FMADD (R122). -/
def decodeFmadd (w : Word32) : Decoded :=
  let rd := f25 w; let ra := f20 w; let rb := f15 w; let rc := f10 w
  let m := Rm.ofCode2 (low w)
  code (FFmt.ofCode2 (w.extractLsb' 2 2)) fun f =>
    match field w.toNat 5 4 with
    | 0 => .ok (.fmadd f m rd ra rb rc) | 1 => .ok (.fmsub f m rd ra rb rc)
    | 2 => .ok (.fnmadd f m rd ra rb rc) | _ => .ok (.fnmsub f m rd ra rb rc)

/-- SYS (R123). -/
def decodeSys (w : Word32) : Decoded :=
  let noRd (k : Decoded) : Decoded := need 3 (isZero w 25 21) k
  let noRa (k : Decoded) : Decoded := need 3 (isZero w 20 16) k
  let noImm (k : Decoded) : Decoded := need 3 (isZero w 9 0) k
  match (subOf w).toNat with
  | 0 => noRd (noRa (noImm (.ok .nop)))
  | 1 => noRd (noRa (.ok (.trap (imm10 w))))
  | 2 => noRd (noRa (.ok (.brk (imm10 w))))
  | 3 => noRd (noRa (noImm (.ok .eret)))
  | 4 => match CReg.ofCode (imm10 w) with
    | none => unassigned
    | some .fflags => noRa (.ok (.crdFflags (f25 w)))
    | some c => noRa (.ok (.crd (f25 w) c))
  | 5 => match CReg.ofCode (imm10 w) with
    | none => unassigned
    | some .fflags => noRd (.ok (.cwrFflags (f20 w)))
    | some .status => noRd (.ok (.cwrStatus (f20 w)))
    | some c => noRd (.ok (.cwr c (f20 w)))
  | 6 => noRd (noRa (noImm (.ok .halt)))
  | _ => unassigned

/-- LD and ST (R166). -/
def decodeLd (w : Word32) : Decoded :=
  let k := LdKind.ofCode (f13 w)
  need 5 (pairOk (decide (k = .q)) (f25 w)) (.ok (.ld k (f25 w) (f20 w) (off13 w)))
def decodeSt (w : Word32) : Decoded :=
  code (Size.ofStCode (f13 w)) fun z =>
    need 5 (pairOk (decide (z = .q)) (f25 w)) (.ok (.st z (f25 w) (f20 w) (off13 w)))

/-- LDX and STX (R168). -/
def decodeLdx (w : Word32) : Decoded :=
  let sx := bitBool (w.extractLsb' 7 1)
  code (Size.ofCode (w.extractLsb' 8 3)) fun z =>
    need 4 (extOk sx z) <| ordScope (w.extractLsb' 3 2) (low w) loadOrder fun o s =>
      need 5 (pairOk (decide (z = .q)) (f25 w))
        (.ok (.ldx z sx (Fe.ofCode (w.extractLsb' 5 2)) o s (f25 w) (f20 w) (f15 w)))
def decodeStx (w : Word32) : Decoded :=
  code (Size.ofCode (w.extractLsb' 8 3)) fun z =>
    need 4 (isZero w 7 7 && storeFeOk (Fe.ofCode (w.extractLsb' 5 2))) <|
      ordScope (w.extractLsb' 3 2) (low w) storeOrder fun o s =>
        need 5 (pairOk (decide (z = .q)) (f25 w))
          (.ok (.stx z (Fe.ofCode (w.extractLsb' 5 2)) o s (f25 w) (f20 w) (f15 w)))

/-- ATOM (R169). -/
def decodeAtom (w : Word32) : Decoded :=
  let rd := f25 w; let ra := f20 w; let rb := f15 w
  code (Size.ofCode (w.extractLsb' 5 3)) fun z =>
    let small : Bool := decide (z = .w ∨ z = .d)
    let wide : Bool := small || decide (z = .q)
    let pair : Bool := pairOk (decide (z = .q)) rd && pairOk (decide (z = .q)) rb
    let go (ok : Bool) (k : MemOrder → MemScope → Instr) : Decoded :=
      need 4 ok <| ordScope (w.extractLsb' 3 2) (low w) anyOrder fun o s => need 5 pair (.ok (k o s))
    match field w.toNat 10 8 with
    | 0 => go wide fun o s => .atomSwp z o s rd ra rb
    | 1 => go wide fun o s => .atomCas z o s rd ra rb
    | 2 => go small fun o s => .atomAdd z o s rd ra rb
    | 3 => go small fun o s => .atomAnd z o s rd ra rb
    | 4 => go small fun o s => .atomOr z o s rd ra rb
    | 5 => go small fun o s => .atomXor z o s rd ra rb
    | 6 => go small fun o s => .atomMax z o s rd ra rb
    | _ => go small fun o s => .atomMin z o s rd ra rb

/-- RED (R172). -/
def decodeRed (w : Word32) : Decoded :=
  let ra := f20 w; let rb := f15 w; let arr := bitBool (w.extractLsb' 22 1)
  let go (op : RedOp) (k : Ty → MemOrder → MemScope → Instr) : Decoded :=
    need 3 (isZero w 21 21 && isZero w 1 0) <| code (Ty.ofCode (w.extractLsb' 7 4)) fun t =>
      need 4 (redOk op arr t) <| ordScope (w.extractLsb' 5 2) (w.extractLsb' 2 3) storeOrder fun o s => .ok (k t o s)
  match field w.toNat 25 23 with
  | 0 => go .add fun t o s => .redAdd arr t o s ra rb
  | 1 => go .and fun t o s => .redAnd arr t o s ra rb
  | 2 => go .or fun t o s => .redOr arr t o s ra rb
  | 3 => go .xor fun t o s => .redXor arr t o s ra rb
  | 4 => go .min fun t o s => .redMin arr t o s ra rb
  | 5 => go .max fun t o s => .redMax arr t o s ra rb
  | _ => unassigned

/-- ALR outside a region: ALRB alone is an instruction (R178). -/
def decodeAlr (w : Word32) : Decoded :=
  match (subOf w).toNat with
  | 0 => need 3 (isZero w 25 21 && isZero w 9 5) <|
      ordScope (w.extractLsb' 3 2) (low w) anyOrder fun o s => .ok (.alrb o s (f20 w))
  | _ => unassigned

/-- MEMSYS (R181). -/
def decodeMemsys (w : Word32) : Decoded :=
  let rd := f25 w; let ra := f20 w
  let noImm (k : Decoded) : Decoded := need 3 (isZero w 9 0) k
  match (subOf w).toNat with
  | 0 => need 3 (isZero w 25 16 && isZero w 9 5) <| code (MemScope.ofCode (low w)) fun s =>
      need 4 (decide (MemOrder.ofCode (w.extractLsb' 3 2) ≠ .none)) (.ok (.fence (MemOrder.ofCode (w.extractLsb' 3 2)) s))
  | 1 => noImm (.ok (.seal rd ra))
  | 2 => noImm (.ok (.unseal rd ra))
  | 3 => noImm (.ok (.xinv rd ra))
  | 4 => need 3 (isZero w 20 16) (noImm (.ok (.xinva rd)))
  | 5 => need 3 (isZero w 25 21) (noImm (.ok (.rinv ra)))
  | 6 => need 3 (isZero w 25 21) (noImm (.ok (.cpref ra)))
  | 7 => need 3 (isZero w 9 1) (.ok (.orph (bitBool (low w)) rd ra))
  | _ => unassigned

/-- VLD and VST (R244). -/
def decodeVld (w : Word32) : Decoded :=
  let fq := Fe.ofCode (low w); let adv := bitBool (w.extractLsb' 7 1)
  code (ESize.ofCode (w.extractLsb' 2 3)) fun z =>
    match field w.toNat 6 5 with
    | 0 => .ok (.vld z fq adv (pgOf w) (f25 w) (f20 w) (f15 w))
    | 1 => .ok (.vlds z fq adv (pgOf w) (f25 w) (f20 w) (f15 w))
    | 2 => .ok (.vldx z fq adv (pgOf w) (f25 w) (f20 w) (f15 w))
    | _ => .ok (.vldr z fq adv (pgOf w) (f25 w) (f20 w) (f15 w))
def decodeVst (w : Word32) : Decoded :=
  let fq := Fe.ofCode (low w); let adv := bitBool (w.extractLsb' 7 1)
  code (ESize.ofCode (w.extractLsb' 2 3)) fun z => need 4 (storeFeOk fq) <|
    match field w.toNat 6 5 with
    | 0 => .ok (.vst z fq adv (pgOf w) (f25 w) (f20 w) (f15 w))
    | 1 => .ok (.vsts z fq adv (pgOf w) (f25 w) (f20 w) (f15 w))
    | 2 => .ok (.vstx z fq adv (pgOf w) (f25 w) (f20 w) (f15 w))
    | _ => .error 4#4

/-- VINT (R246). -/
def decodeVint (w : Word32) : Decoded :=
  let d := f25 w; let a := f20 w; let b := f15 w; let p := pgOf w; let t := ITy.ofCode (low w)
  let un (i : Instr) : Decoded := need 3 (isZero w 15 11) (.ok i)
  match field w.toNat 7 3 with
  | 0x00 => .ok (.vadd t p d a b) | 0x01 => .ok (.vsub t p d a b) | 0x02 => .ok (.vmul t p d a b)
  | 0x03 => .ok (.vmulh t p d a b) | 0x04 => .ok (.vmin t p d a b) | 0x05 => .ok (.vmax t p d a b)
  | 0x06 => .ok (.vand t p d a b) | 0x07 => .ok (.vor t p d a b) | 0x08 => .ok (.vxor t p d a b)
  | 0x09 => .ok (.vandn t p d a b) | 0x0A => .ok (.vsll t p d a b) | 0x0B => .ok (.vsrl t p d a b)
  | 0x0C => .ok (.vsra t p d a b) | 0x0D => .ok (.vadds t p d a b) | 0x0E => .ok (.vsubs t p d a b)
  | 0x0F => .ok (.vabsd t p d a b) | 0x10 => .ok (.vavg t p d a b)
  | 0x11 => un (.vneg t p d a) | 0x12 => un (.vabs t p d a) | 0x13 => un (.vpopc t p d a)
  | _ => unassigned

/-- VFP (R247). -/
def decodeVfp (w : Word32) : Decoded :=
  let d := f25 w; let a := f20 w; let b := f15 w; let p := pgOf w
  let fm (k : FFmt → Instr) : Decoded := code (FFmt.ofCode (low w)) fun f => .ok (k f)
  let un (k : FFmt → Instr) : Decoded := need 3 (isZero w 15 11) (fm k)
  match field w.toNat 7 3 with
  | 0x00 => fm fun f => .vfadd f p d a b
  | 0x01 => fm fun f => .vfsub f p d a b
  | 0x02 => fm fun f => .vfmul f p d a b
  | 0x03 => fm fun f => .vfdiv f p d a b
  | 0x04 => un fun f => .vfsqrt f p d a
  | 0x05 => fm fun f => .vfmin f p d a b
  | 0x06 => fm fun f => .vfmax f p d a b
  | 0x07 => fm fun f => .vfcopysg f p d a b
  | 0x08 => un fun f => .vfneg f p d a
  | 0x09 => un fun f => .vfabs f p d a
  | 0x0A => un fun f => .vfkind f p d a
  | _ => unassigned

/-- VFMA (R248). -/
def decodeVfma (w : Word32) : Decoded :=
  code (FFmt.ofCode2 (w.extractLsb' 1 2)) fun f =>
    if bitBool (low w) then .ok (.vfms f (w.extractLsb' 3 3) (f25 w) (f20 w) (f15 w) (f10 w))
    else .ok (.vfma f (w.extractLsb' 3 3) (f25 w) (f20 w) (f15 w) (f10 w))

/-- VPERM (R249, R250). -/
def decodeVperm (w : Word32) : Decoded :=
  let d := f25 w; let a := f20 w; let b := f15 w; let p := pgOf w
  let sz (k : ESize → Instr) : Decoded := code (ESize.ofCode (low w)) fun z => .ok (k z)
  let un (k : ESize → Instr) : Decoded := need 3 (isZero w 15 11) (sz k)
  match field w.toNat 7 3 with
  | 0x00 => need 3 (isZero w 20 8 && decide (d.toNat % 8 = 0)) <| code (ESize.ofCode (low w)) fun z =>
      need 4 (decide (z ≠ .d)) (.ok (.vtrn z d))
  | 0x01 => sz fun z => .vperm z p d a b
  | 0x02 => sz fun z => .vlift z p d a b
  | 0x03 => sz fun z => .vdrop z p d a b
  | 0x04 => un fun z => .vrev z p d a
  | 0x05 => un fun z => .vsqz z p d a
  | 0x06 => sz fun z => .vknitl z p d a b
  | 0x07 => sz fun z => .vknith z p d a b
  | 0x08 => sz fun z => .vsiftev z p d a b
  | 0x09 => sz fun z => .vsiftod z p d a b
  | _ => unassigned

/-- VPRED (R251). -/
def decodeVpred (w : Word32) : Decoded :=
  let pd : PReg := w.extractLsb' 21 3; let a := f20 w; let b := f15 w; let p := pgOf w
  let pa : PReg := w.extractLsb' 16 3; let pb : PReg := w.extractLsb' 11 3
  let ty := Ty.ofCode (low w)
  let cmp (k : Ty → Instr) : Decoded :=
    need 3 (isZero w 25 24) <| code ty fun t => need 4 (decide (t ≠ .e2m1)) (.ok (k t))
  let logic (i : Instr) : Decoded :=
    need 3 (isZero w 25 24 && isZero w 20 19 && isZero w 15 14 && isZero w 10 8 && isZero w 3 0) (.ok i)
  let scan (k : Ty → Instr) : Decoded := need 3 (isZero w 20 19 && isZero w 15 8) <| code ty fun t => .ok (k t)
  match field w.toNat 7 4 with
  | 0x0 => cmp fun t => .vceq t p pd a b
  | 0x1 => cmp fun t => .vcne t p pd a b
  | 0x2 => cmp fun t => .vclt t p pd a b
  | 0x3 => cmp fun t => .vcle t p pd a b
  | 0x4 => need 3 (isZero w 25 24 && isZero w 10 8) <| need 4 (isZero w 3 3) (.ok (.vbound (ITy.ofCode (low w)) pd a b))
  | 0x5 => logic (.pand pd pa pb)
  | 0x6 => logic (.por pd pa pb)
  | 0x7 => logic (.pxor pd pa pb)
  | 0x8 => logic (.pandn pd pa pb)
  | 0x9 => scan fun t => .pcnt t (f25 w) pa
  | 0xA => scan fun t => .pfirst t (f25 w) pa
  | _ => unassigned

/-- VRED (R252). -/
def decodeVred (w : Word32) : Decoded :=
  let d := f25 w; let a := f20 w; let b := f15 w; let p := pgOf w
  let go (ok : Ty → Bool) (k : Ty → Instr) : Decoded := code (Ty.ofCode (low w)) fun t => need 4 (ok t) (.ok (k t))
  match field w.toNat 7 4 with
  | 0x0 => go (fun t => t.isInt || t.isFmt) fun t => .vrsum t p d a b
  | 0x1 => go Ty.isFmt fun t => .vrsumArr t p d a b
  | 0x2 => go (fun t => t.isInt || t.isFmt) fun t => .vrmin t p d a b
  | 0x3 => go (fun t => t.isInt || t.isFmt) fun t => .vrmax t p d a b
  | 0x4 => go Ty.isInt fun t => .vrand t p d a b
  | 0x5 => go Ty.isInt fun t => .vror t p d a b
  | 0x6 => go Ty.isInt fun t => .vrxor t p d a b
  | _ => unassigned

/-- VCVT (R254). -/
def decodeVcvt (w : Word32) : Decoded :=
  code (Ty.ofCode (w.extractLsb' 4 4)) fun d => code (Ty.ofCode (low w)) fun s =>
    need 4 (cvtOk d s (w.extractLsb' 11 3))
      (.ok (.vcvt d s (Rm.ofCode2 (w.extractLsb' 14 2)) (w.extractLsb' 11 3) (pgOf w) (f25 w) (f20 w)))

/-- FRAME (R260). -/
def decodeFrame (w : Word32) : Decoded :=
  match (subOf w).toNat with
  | 0 => need 3 (isZero w 20 20) (.ok (.frame (f25 w) (w.extractLsb' 16 4) (w.extractLsb' 2 8) (low w)))
  | _ => unassigned

/-- VMOVE (R256). -/
def decodeVmove (w : Word32) : Decoded :=
  let d := f25 w; let a := f20 w; let b := f15 w; let p := pgOf w
  let sz (k : ESize → Instr) : Decoded := code (ESize.ofCode (low w)) fun z => .ok (k z)
  match field w.toNat 7 3 with
  | 0x00 => need 3 (isZero w 15 11) <| need 4 (isZero w 2 0) (.ok (.vmov p d a))
  | 0x01 => need 3 (isZero w 15 11) (sz fun z => .vdup z p d a)
  | 0x02 => need 3 (isZero w 10 8) (sz fun z => .vins z d a b)
  | 0x03 => need 3 (isZero w 10 8) (sz fun z => .vextr z d a b)
  | 0x04 => sz fun z => .vidx z p d a b
  | 0x05 => need 3 (isZero w 20 8 && isZero w 2 0) (.ok (.vwidth d))
  | _ => unassigned

/-- DRAW, the forms on vector registers (R257, R259). -/
def decodeVdraw (w : Word32) : Decoded :=
  let d := f25 w; let a := f20 w; let n : BitVec 4 := low w
  let ds (i : Instr) : Decoded := need 3 (isZero w 9 4) (.ok i)
  match (subOf w).toNat with
  | 0x20 => ds (.vdraw d n a) | 0x21 => ds (.vdrawb d n a) | 0x22 => ds (.vdrawu d n a) | 0x23 => ds (.vnoiseG d n a)
  | 0x28 => ds (.vsrcvtBf16F32 d n a) | 0x29 => ds (.vsrcvtF16F32 d n a) | 0x2A => ds (.vsrcvtE4m3F32 d n a)
  | 0x2B => ds (.vsrcvtE5m2F32 d n a) | 0x2C => ds (.vsrcvtE2m1F32 d n a) | 0x2D => ds (.vsrcvtE4m3F16 d n a)
  | 0x2E => ds (.vsrcvtE5m2F16 d n a) | 0x2F => ds (.vsrcvtE4m3Bf16 d n a)
  | _ => unassigned

/-- DRAW, the scalar forms (R212). -/
def decodeDraw (w : Word32) : DecodedLate :=
  let d := f25 w; let a := f20 w; let n : BitVec 4 := low w
  let noRd (k : DecodedLate) : DecodedLate := need 3 (isZero w 25 21) k
  let noRa (k : DecodedLate) : DecodedLate := need 3 (isZero w 20 16) k
  let ds (i : Late) : DecodedLate := need 3 (isZero w 9 4) (.ok i)
  let noImm (i : Late) : DecodedLate := need 3 (isZero w 9 0) (.ok i)
  match (subOf w).toNat with
  | 0x00 => ds (.draw d n a)
  | 0x01 => need 3 (isZero w 25 25) (noRa (.ok (.dkey (w.extractLsb' 21 4) (imm10 w))))
  | 0x02 => noRd (ds (.dkset n a))
  | 0x03 => noRa (ds (.dkrd d n))
  | 0x04 => noRa (noImm (.reseed d))
  | 0x05 => noImm (.seedset d a)
  | 0x06 => noRa (noImm (.seedrd d))
  | 0x07 => noImm (.cplace d a)
  | 0x08 => need 3 (isZero w 9 4) <|
      if bitBool (w.extractLsb' 3 1) then noRa (.ok (.exqm d (low w))) else .ok (.exq d a (low w))
  | _ => unassigned

/-- MMA: every bit pattern is valid (R284). -/
def decodeMma (w : Word32) : Decoded :=
  .ok (.mma (w.extractLsb' 24 2) (w.extractLsb' 20 4) (w.extractLsb' 16 4) (f15 w) (f10 w) (w.extractLsb' 2 4)
    (bitBool (w.extractLsb' 1 1)) (bitBool (low w)))

/-- MCTL (R289). -/
def decodeMctl (w : Word32) : Decoded :=
  let n : BitVec 2 := low w
  let noRd (k : Decoded) : Decoded := need 3 (isZero w 25 21) k
  let noRa (k : Decoded) : Decoded := need 3 (isZero w 20 16) k
  let set (k : Decoded) : Decoded := need 3 (isZero w 9 2) k
  match (subOf w).toNat with
  | 0 => noRd (noRa (set (.ok (.mswap n))))
  | 1 => noRd (noRa (set (.ok (.mwait n))))
  | 2 => noRd (noRa (set (.ok (.mzero n))))
  | 3 => noRd (set (.ok (.mlda n (f20 w))))
  | 4 => noRd (need 3 (isZero w 9 3) (.ok (.msto (bitBool (w.extractLsb' 2 1)) n (f20 w))))
  | 5 => set (.ok (.mrow (f25 w) n (f20 w)))
  | _ => unassigned

/-- PLANE (R293). -/
def decodePlane (w : Word32) : Decoded :=
  let n : BitVec 4 := w.extractLsb' 21 4
  let desc (k : Decoded) : Decoded := need 3 (isZero w 25 25) k
  match (subOf w).toNat with
  | 0 => desc (.ok (.pdesc n (f20 w) (imm10 w)))
  | 1 => desc (need 3 (isZero w 9 0) (.ok (.pdset n (f20 w))))
  | 2 => need 3 (isZero w 20 16 && isZero w 9 4) (.ok (.pdrd (f25 w) (low w)))
  | 3 => desc (need 3 (isZero w 9 5) (.ok (.pscale n (f20 w) (low w))))
  | 4 => desc (need 3 (isZero w 9 5) (.ok (.pgscale n (f20 w) (low w))))
  | _ => unassigned

/-- ENG (R309). -/
def decodeEng (w : Word32) : Decoded :=
  let n : BitVec 2 := low w; let d := f25 w; let a := f20 w
  let port (k : Decoded) : Decoded := need 3 (isZero w 9 2) k
  let noRa (k : Decoded) : Decoded := need 3 (isZero w 20 16) k
  match (subOf w).toNat with
  | 0 => port (need 5 (even d && even a) (.ok (.qpush n d a)))
  | 1 => noRa (port (need 5 (even d) (.ok (.qpop n d))))
  | 2 => noRa (port (need 5 (even d) (.ok (.qtry n d))))
  | 3 => noRa (port (.ok (.qstat n d)))
  | 4 => need 3 (isZero w 25 16) (port (.ok (.qabort n)))
  | _ => unassigned

/-- EVT (R319, R323). -/
def decodeEvt (w : Word32) : Decoded :=
  let d := f25 w; let a := f20 w
  let noRd (k : Decoded) : Decoded := need 3 (isZero w 25 21) k
  let noRa (k : Decoded) : Decoded := need 3 (isZero w 20 16) k
  let ev (k : Decoded) : Decoded := need 3 (isZero w 9 8) k
  let mx (k : Decoded) : Decoded := need 3 (isZero w 9 6) k
  match (subOf w).toNat with
  | 0 => noRa (ev (.ok (.barv d (low w))))
  | 1 => ev (.ok (.barw d a (low w)))
  | 2 => noRd (ev (.ok (.evsig a (low w))))
  | 3 => noRa (ev (.ok (.evwait d (low w))))
  | 4 => noRa (ev (.ok (.evtry d (low w))))
  | 5 => noRd (noRa (mx (.ok (.mlock (low w)))))
  | 6 => noRa (mx (.ok (.mtry d (low w))))
  | 7 => noRa (mx (.ok (.munlock d (low w))))
  | 8 => need 3 (isZero w 9 9) <| code (MemScope.ofCode (w.extractLsb' 6 3)) fun s =>
      need 4 (bitBool (w.extractLsb' 5 1) || decide (s = .core))
        (.ok (.monitorAndWait (bitBool (w.extractLsb' 5 1)) s d a (low w)))
  | _ => unassigned

/-- TASK (R367). -/
def decodeTask (w : Word32) : DecodedLate :=
  let d := f25 w; let a := f20 w
  let noRd (k : DecodedLate) : DecodedLate := need 3 (isZero w 25 21) k
  let noRa (k : DecodedLate) : DecodedLate := need 3 (isZero w 20 16) k
  let noImm (k : DecodedLate) : DecodedLate := need 3 (isZero w 9 0) k
  match (subOf w).toNat with
  | 0 => .ok (.launch d a (imm10 w))
  | 1 => noRd (noImm (.ok (.tspawn a)))
  | 2 => noRa (noImm (need 5 (even d) (.ok (.tnext d))))
  | 3 => noRd (noRa (noImm (.ok .tend)))
  | 4 => noRd (noImm (.ok (.await a)))
  | 5 => noRa (need 3 (decide ((imm10 w).toNat < 7)) (.ok (.tinfo d (low w))))
  | 6 => .ok (.tclose d a (imm10 w))
  | 7 => noRa (.ok (.tqstat d (imm10 w)))
  | _ => unassigned

/-- GANG (R370, R373). -/
def decodeGang (w : Word32) : DecodedLate :=
  let d := f25 w; let a := f20 w
  let noRd (k : DecodedLate) : DecodedLate := need 3 (isZero w 25 21) k
  let noRa (k : DecodedLate) : DecodedLate := need 3 (isZero w 20 16) k
  let noImm (k : DecodedLate) : DecodedLate := need 3 (isZero w 9 0) k
  match (subOf w).toNat with
  | 0 => noRa (need 3 (isZero w 9 5) (.ok (.fuse d (low w))))
  | 1 => noRd (noRa (noImm (.ok .split)))
  | 2 => noRa (noImm (.ok (.gidx d)))
  | 3 => noRa (noImm (.ok (.gsize d)))
  | 4 => need 3 (isZero w 9 3) <| match field w.toNat 2 0 with
    | 0 => .ok (.gredAdd d a) | 1 => .ok (.gredAnd d a) | 2 => .ok (.gredOr d a) | 3 => .ok (.gredXor d a)
    | 4 => .ok (.gredMin d a) | 5 => .ok (.gredMax d a) | 6 => .ok (.gredMinn d a) | _ => .ok (.gredMaxn d a)
  | _ => unassigned

/-- CELL (R401). -/
def decodeCell (w : Word32) : DecodedLate :=
  let d := f25 w; let a := f20 w; let b := f15 w; let m := bitBool (w.extractLsb' 7 1)
  let z65 (k : DecodedLate) : DecodedLate := need 3 (isZero w 6 5) k
  let os (ok : MemOrder → Bool) (k : MemOrder → MemScope → DecodedLate) : DecodedLate := ordScope (w.extractLsb' 3 2) (low w) ok k
  match field w.toNat 10 8 with
  | 0 => need 3 (isZero w 7 7) <| z65 <| os anyOrder fun o s => need 5 (even d && even b) (.ok (.propose o s d a b))
  | 1 => z65 <| os loadOrder fun o s => need 5 (even d) (.ok (.cread m o s d a b))
  | 2 => z65 <| os anyOrder fun o s => if m then .ok (.recycleOpen o s d a b) else .ok (.recycleRetire o s d a b)
  | 3 => need 3 (isZero w 25 21 && isZero w 7 7) <| z65 <| os anyOrder fun o s => .ok (.cinit o s a b)
  | _ => unassigned

/-- FRONT (R389). -/
def decodeFront (w : Word32) : DecodedLate :=
  let d := f25 w; let a := f20 w
  let noRa (k : DecodedLate) : DecodedLate := need 3 (isZero w 20 16) k
  match (subOf w).toNat with
  | 0 => noRa (need 3 (isZero w 9 0) (.ok (.fpt d)))
  | 1 => .ok (.fcut d a (imm10 w))
  | 2 => noRa (.ok (.fprog d (imm10 w)))
  | _ => unassigned

/-- PERF (R346, R347). -/
def decodePerf (w : Word32) : DecodedLate :=
  let d := f25 w; let a := f20 w
  let noRa (k : DecodedLate) : DecodedLate := need 3 (isZero w 20 16) k
  match (subOf w).toNat with
  | 0 => need 2 (counterOk (imm10 w).toNat) (noRa (.ok (.ctrd d (imm10 w))))
  | 1 => need 3 (isZero w 25 21 && isZero w 9 5) (.ok (.ctsel a (low w)))
  | 2 => noRa (need 3 (isZero w 9 0) (need 5 (even d) (.ok (.tstamp d))))
  | 3 => need 3 (isZero w 9 0) (.ok (.proof d a))
  | _ => unassigned

/-- JREG (R116). -/
def decodeJreg (w : Word32) : Decoded := need 3 (isZero w 15 0) (.ok (.jreg (f25 w) (f20 w)))

/-- The major opcodes 0x01 to 0x29, 0x2F and the vector sub-functions of DRAW (R37). -/
def decodeEarly (w : Word32) : Decoded :=
  let d := f25 w; let a := f20 w
  match (moOf w).toNat with
  | 0x01 => decodeAlu w
  | 0x02 => .ok (.addi d a (imm16 w)) | 0x03 => .ok (.andi d a (imm16 w)) | 0x04 => .ok (.ori d a (imm16 w))
  | 0x05 => .ok (.xori d a (imm16 w))
  | 0x06 => decodeShiftImm w
  | 0x07 => .ok (.slti d a (imm16 w)) | 0x08 => .ok (.sltin d a (imm16 w))
  | 0x09 => decodeMovw w | 0x0A => decodeAdpc w | 0x0B => decodeBcmp w
  | 0x0C => .ok (.jmp (off26 w)) | 0x0D => .ok (.call (off26 w)) | 0x0E => decodeJreg w | 0x0F => decodeLoop w
  | 0x10 => decodeLd w | 0x11 => decodeSt w | 0x12 => decodeLdx w | 0x13 => decodeStx w
  | 0x14 => decodeAtom w | 0x15 => decodeRed w | 0x16 => decodeAlr w | 0x17 => decodeMemsys w
  | 0x18 => decodeFpu w | 0x19 => decodeFmadd w | 0x1A => decodeVld w | 0x1B => decodeVst w
  | 0x1C => decodeVint w | 0x1D => decodeVfp w | 0x1E => decodeVfma w | 0x1F => decodeVperm w
  | 0x20 => decodeVpred w | 0x21 => decodeVred w | 0x22 => decodeVcvt w | 0x23 => decodeFrame w
  | 0x24 => decodeVmove w | 0x25 => decodeMma w | 0x26 => decodeMctl w | 0x27 => decodePlane w
  | 0x28 => decodeEng w | 0x29 => decodeEvt w | 0x2C => decodeVdraw w | 0x2F => decodeSys w
  | _ => .error 1#4

/-- The major opcodes 0x2A, 0x2B, 0x2C (scalar), 0x2D, 0x2E and 0x30 (R37). -/
def decodeLate (w : Word32) : DecodedLate :=
  match (moOf w).toNat with
  | 0x2A => decodeTask w | 0x2B => decodeGang w | 0x2C => decodeDraw w | 0x2D => decodeCell w | 0x2E => decodeFront w
  | 0x30 => decodePerf w
  | _ => .error 1#4

/-- The words that decodeLate reads. -/
def isLate (w : Word32) : Bool :=
  match (moOf w).toNat with
  | 0x2A | 0x2B | 0x2D | 0x2E | 0x30 => true
  | 0x2C => decide ((subOf w).toNat < 0x20)
  | _ => false

/-- The decoder: the major opcode selects the format and the chapter (R37). -/
def decodeWord (w : Word32) : Except (BitVec 4) (Instr ⊕ Late) :=
  if isLate w then (decodeLate w).map .inr else (decodeEarly w).map .inl

/-- The instruction that a decoded word is. -/
noncomputable def Late.toInstr : Late → Instr
  | .launch rd ra q => .launch rd ra q
  | .tspawn ra => .tspawn ra
  | .tnext rd => .tnext rd
  | .tend => .tend
  | .await ra => .await ra
  | .tinfo rd k => .tinfo rd k
  | .tclose rd ra q => .tclose rd ra q
  | .tqstat rd q => .tqstat rd q
  | .fuse rd n => .fuse rd n
  | .split => .split
  | .gidx rd => .gidx rd
  | .gsize rd => .gsize rd
  | .gredAdd rd ra => .gredAdd rd ra
  | .gredAnd rd ra => .gredAnd rd ra
  | .gredOr rd ra => .gredOr rd ra
  | .gredXor rd ra => .gredXor rd ra
  | .gredMin rd ra => .gredMin rd ra
  | .gredMax rd ra => .gredMax rd ra
  | .gredMinn rd ra => .gredMinn rd ra
  | .gredMaxn rd ra => .gredMaxn rd ra
  | .draw rd ds ra => .draw rd ds ra
  | .dkey ds t => .dkey ds t
  | .dkset ds ra => .dkset ds ra
  | .dkrd rd ds => .dkrd rd ds
  | .reseed rd => .reseed rd
  | .seedset rd ra => .seedset rd ra
  | .seedrd rd => .seedrd rd
  | .cplace rd ra => .cplace rd ra
  | .exq rd ra c => .exq rd ra c
  | .exqm rd c => .exqm rd c
  | .propose ord scope rd ra rb => .propose ord scope rd ra rb
  | .cread wait ord scope rd ra rb => .cread wait ord scope rd ra rb
  | .recycleRetire ord scope rd ra rb => .recycleRetire ord scope rd ra rb
  | .recycleOpen ord scope rd ra rb => .recycleOpen ord scope rd ra rb
  | .cinit ord scope ra rb => .cinit ord scope ra rb
  | .fpt rd => .fpt rd
  | .fcut rd ra q => .fcut rd ra q
  | .fprog rd q => .fprog rd q
  | .ctrd rd n => .ctrd rd n
  | .ctsel ra s => .ctsel ra s
  | .tstamp rd => .tstamp rd
  | .proof rd ra => .proof rd ra

/-- The instruction that a word is, or the reason why it is none (R39, R40). -/
noncomputable def decode (w : Word32) : Decoded := (decodeWord w).map (Sum.elim id Late.toInstr)

/-- A word of an ALR body (R178, R179): an instruction, or one of the words that exist only inside a region. -/
inductive BodyWord where
  | instr (i : Instr)
  | late
  | alre
  | alrsw (rs ra : SReg) (off4 : BitVec 5) (rc : SReg)
  | alrsd (rs ra : SReg) (off8 : BitVec 4) (rc : SReg)
  deriving DecidableEq, Repr

/-- Decoding inside a region (R178, R179). A word of the last families is valid but not an instruction that a region may
hold: it is answered as such, without its fields. -/
def decodeBody (w : Word32) : Except (BitVec 4) BodyWord :=
  if (moOf w).toNat = 0x16 ∧ (subOf w).toNat ≠ 0 then
    match (subOf w).toNat with
    | 1 => if isZero w 25 16 && isZero w 9 0 then .ok .alre else .error 3
    | 2 => .ok (.alrsw (f25 w) (f20 w) (low w) (w.extractLsb' 5 5))
    | 3 => if isZero w 4 4 then .ok (.alrsd (f25 w) (f20 w) (low w) (w.extractLsb' 5 5)) else .error 3
    | _ => unassigned
  else if isLate w then (decodeLate w).map fun _ => .late
  else (decodeEarly w).map .instr

-- The encoder.

/-- The formats of R33, from bit 31 down. -/
def encR (mo : BitVec 6) (rd ra rb : BitVec 5) (fn : BitVec 11) : Word32 := mo ++ rd ++ ra ++ rb ++ fn
def encI (mo : BitVec 6) (rd ra : BitVec 5) (imm : BitVec 16) : Word32 := mo ++ rd ++ ra ++ imm
def encM (mo : BitVec 6) (rd ra : BitVec 5) (sz : BitVec 3) (off : BitVec 13) : Word32 := mo ++ rd ++ ra ++ sz ++ off
def encJ (mo : BitVec 6) (off : BitVec 26) : Word32 := mo ++ off
def encQ (mo : BitVec 6) (rd ra rb rc : BitVec 5) (fn : BitVec 6) : Word32 := mo ++ rd ++ ra ++ rb ++ rc ++ fn
def encV (mo : BitVec 6) (vd va vb : BitVec 5) (pg : BitVec 3) (fn : BitVec 8) : Word32 := mo ++ vd ++ va ++ vb ++ pg ++ fn
def encV4 (mo : BitVec 6) (vd va vb vc : BitVec 5) (pg fn : BitVec 3) : Word32 := mo ++ vd ++ va ++ vb ++ vc ++ pg ++ fn
def encVM (mo : BitVec 6) (vd ra rb : BitVec 5) (pg : BitVec 3) (adv : BitVec 1) (addr : BitVec 2) (sz : BitVec 3)
    (q : BitVec 2) : Word32 := mo ++ vd ++ ra ++ rb ++ pg ++ adv ++ addr ++ sz ++ q
def encS (mo : BitVec 6) (rd ra : BitVec 5) (sub : BitVec 6) (imm : BitVec 10) : Word32 := mo ++ rd ++ ra ++ sub ++ imm

-- The sub-fields that families share.
def encFpu (rd ra rb op : BitVec 5) (rm fmt : BitVec 3) : Word32 := encR 0x18 rd ra rb (op ++ rm ++ fmt)
def encFma (op : BitVec 2) (f : FFmt) (m : Rm) (rd ra rb rc : BitVec 5) : Word32 := encQ 0x19 rd ra rb rc (op ++ f.code2 ++ m.code2)
def encAtom (op : BitVec 3) (z : Size) (o : MemOrder) (s : MemScope) (rd ra rb : BitVec 5) : Word32 :=
  encR 0x14 rd ra rb (op ++ z.code ++ o.code ++ s.code)
def encRed (op : BitVec 3) (arr : Bool) (t : Ty) (o : MemOrder) (s : MemScope) (ra rb : BitVec 5) : Word32 :=
  encR 0x15 (op ++ boolBit arr ++ 0#1) ra rb (t.code ++ o.code ++ s.code ++ 0#2)
def encVmem (mo : BitVec 6) (addr : BitVec 2) (z : ESize) (q : Fe) (adv : Bool) (pg : PReg) (vd ra rb : BitVec 5) : Word32 :=
  encVM mo vd ra rb pg (boolBit adv) addr z.code q.code
def encVint (op : BitVec 5) (t : ITy) (pg : PReg) (vd va vb : BitVec 5) : Word32 := encV 0x1C vd va vb pg (op ++ t.code)
def encVfp (op : BitVec 5) (f : FFmt) (pg : PReg) (vd va vb : BitVec 5) : Word32 := encV 0x1D vd va vb pg (op ++ f.code)
def encVperm (op : BitVec 5) (z : ESize) (pg : PReg) (vd va vb : BitVec 5) : Word32 := encV 0x1F vd va vb pg (op ++ z.code)
def encVcmp (op t : BitVec 4) (pg pd : PReg) (va vb : BitVec 5) : Word32 := encV 0x20 (0#2 ++ pd) va vb pg (op ++ t)
def encPlogic (op : BitVec 4) (pd pa pb : PReg) : Word32 := encV 0x20 (0#2 ++ pd) (0#2 ++ pa) (0#2 ++ pb) 0 (op ++ 0#4)
def encPscan (op : BitVec 4) (t : Ty) (rd : SReg) (pa : PReg) : Word32 := encV 0x20 rd (0#2 ++ pa) 0 0 (op ++ t.code)
def encVred (op : BitVec 4) (t : Ty) (pg : PReg) (vd va vb : BitVec 5) : Word32 := encV 0x21 vd va vb pg (op ++ t.code)
def encVmove (op : BitVec 5) (sz : BitVec 3) (pg : PReg) (vd va vb : BitVec 5) : Word32 := encV 0x24 vd va vb pg (op ++ sz)
def encDs (sub : BitVec 6) (rd : BitVec 5) (n : BitVec 4) (ra : BitVec 5) : Word32 := encS 0x2C rd ra sub (0#6 ++ n)
def encCell (op : BitVec 3) (m : Bool) (o : MemOrder) (s : MemScope) (rd ra rb : BitVec 5) : Word32 :=
  encR 0x2D rd ra rb (op ++ boolBit m ++ 0#2 ++ o.code ++ s.code)

/-- The word of a well-formed instruction; a row that has no encoding has none. -/
def encode : Instr → Option Word32
  | .illop _ _ => none
  | .add rd ra rb => some (encR 0x01 rd ra rb 0x000)
  | .sub rd ra rb => some (encR 0x01 rd ra rb 0x001)
  | .and rd ra rb => some (encR 0x01 rd ra rb 0x002)
  | .or rd ra rb => some (encR 0x01 rd ra rb 0x003)
  | .xor rd ra rb => some (encR 0x01 rd ra rb 0x004)
  | .andn rd ra rb => some (encR 0x01 rd ra rb 0x005)
  | .orn rd ra rb => some (encR 0x01 rd ra rb 0x006)
  | .xnor rd ra rb => some (encR 0x01 rd ra rb 0x007)
  | .sll rd ra rb => some (encR 0x01 rd ra rb 0x008)
  | .srl rd ra rb => some (encR 0x01 rd ra rb 0x009)
  | .sra rd ra rb => some (encR 0x01 rd ra rb 0x00A)
  | .ror rd ra rb => some (encR 0x01 rd ra rb 0x00B)
  | .slt rd ra rb => some (encR 0x01 rd ra rb 0x00C)
  | .sltn rd ra rb => some (encR 0x01 rd ra rb 0x00D)
  | .min rd ra rb => some (encR 0x01 rd ra rb 0x00E)
  | .max rd ra rb => some (encR 0x01 rd ra rb 0x00F)
  | .minn rd ra rb => some (encR 0x01 rd ra rb 0x010)
  | .maxn rd ra rb => some (encR 0x01 rd ra rb 0x011)
  | .mul rd ra rb => some (encR 0x01 rd ra rb 0x012)
  | .mulh rd ra rb => some (encR 0x01 rd ra rb 0x013)
  | .mulhn rd ra rb => some (encR 0x01 rd ra rb 0x014)
  | .div rd ra rb => some (encR 0x01 rd ra rb 0x015)
  | .divn rd ra rb => some (encR 0x01 rd ra rb 0x016)
  | .rem rd ra rb => some (encR 0x01 rd ra rb 0x017)
  | .remn rd ra rb => some (encR 0x01 rd ra rb 0x018)
  | .clz rd ra => some (encR 0x01 rd ra 0 0x019)
  | .ctz rd ra => some (encR 0x01 rd ra 0 0x01A)
  | .popc rd ra => some (encR 0x01 rd ra 0 0x01B)
  | .bswap rd ra => some (encR 0x01 rd ra 0 0x01C)
  | .addw rd ra rb => some (encR 0x01 rd ra rb 0x020)
  | .subw rd ra rb => some (encR 0x01 rd ra rb 0x021)
  | .sllw rd ra rb => some (encR 0x01 rd ra rb 0x022)
  | .srlw rd ra rb => some (encR 0x01 rd ra rb 0x023)
  | .sraw rd ra rb => some (encR 0x01 rd ra rb 0x024)
  | .mulw rd ra rb => some (encR 0x01 rd ra rb 0x025)
  | .adds rd ra rb => some (encR 0x01 rd ra rb 0x028)
  | .subs rd ra rb => some (encR 0x01 rd ra rb 0x029)
  | .addi rd ra imm => some (encI 0x02 rd ra imm)
  | .andi rd ra imm => some (encI 0x03 rd ra imm)
  | .ori rd ra imm => some (encI 0x04 rd ra imm)
  | .xori rd ra imm => some (encI 0x05 rd ra imm)
  | .slti rd ra imm => some (encI 0x07 rd ra imm)
  | .sltin rd ra imm => some (encI 0x08 rd ra imm)
  | .slli rd ra n => some (encS 0x06 rd ra 0 (0#4 ++ n))
  | .srli rd ra n => some (encS 0x06 rd ra 1 (0#4 ++ n))
  | .srai rd ra n => some (encS 0x06 rd ra 2 (0#4 ++ n))
  | .rori rd ra n => some (encS 0x06 rd ra 3 (0#4 ++ n))
  | .slliw rd ra n => some (encS 0x06 rd ra 4 (0#5 ++ n))
  | .srliw rd ra n => some (encS 0x06 rd ra 5 (0#5 ++ n))
  | .sraiw rd ra n => some (encS 0x06 rd ra 6 (0#5 ++ n))
  | .hwz rd k imm => some (encI 0x09 rd (0#1 ++ 0#2 ++ k) imm)
  | .hwi rd k imm => some (encI 0x09 rd (0#1 ++ 1#2 ++ k) imm)
  | .hws rd k imm => some (encI 0x09 rd (0#1 ++ 2#2 ++ k) imm)
  | .adpc rd imm => some (encI 0x0A rd 0 imm)
  | .adpch rd imm => some (encI 0x0A rd 1 imm)
  | .beq ra rb off => some (encM 0x0B ra rb 0 off)
  | .bne ra rb off => some (encM 0x0B ra rb 1 off)
  | .blt ra rb off => some (encM 0x0B ra rb 2 off)
  | .bge ra rb off => some (encM 0x0B ra rb 3 off)
  | .bltn ra rb off => some (encM 0x0B ra rb 4 off)
  | .bgen ra rb off => some (encM 0x0B ra rb 5 off)
  | .bany ra rb off => some (encM 0x0B ra rb 6 off)
  | .bnone ra rb off => some (encM 0x0B ra rb 7 off)
  | .loop ra off => some (encM 0x0F ra 0 0 off)
  | .loopn ra rb off => some (encM 0x0F ra rb 1 off)
  | .loopd ra rb off => some (encM 0x0F ra rb 2 off)
  | .jmp off => some (encJ 0x0C off)
  | .call off => some (encJ 0x0D off)
  | .jreg rd ra => some (encR 0x0E rd ra 0 0)
  | .fadd fmt rm rd ra rb => some (encFpu rd ra rb 0 rm.code fmt.code)
  | .fsub fmt rm rd ra rb => some (encFpu rd ra rb 1 rm.code fmt.code)
  | .fmul fmt rm rd ra rb => some (encFpu rd ra rb 2 rm.code fmt.code)
  | .fdiv fmt rm rd ra rb => some (encFpu rd ra rb 3 rm.code fmt.code)
  | .fsqrt fmt rm rd ra => some (encFpu rd ra 0 4 rm.code fmt.code)
  | .fmin fmt rd ra rb => some (encFpu rd ra rb 5 0 fmt.code)
  | .fmax fmt rd ra rb => some (encFpu rd ra rb 6 0 fmt.code)
  | .fcopysg fmt rd ra rb => some (encFpu rd ra rb 7 0 fmt.code)
  | .fneg fmt rd ra => some (encFpu rd ra 0 8 0 fmt.code)
  | .fabs fmt rd ra => some (encFpu rd ra 0 9 0 fmt.code)
  | .feq fmt rd ra rb => some (encFpu rd ra rb 10 0 fmt.code)
  | .flt fmt rd ra rb => some (encFpu rd ra rb 11 0 fmt.code)
  | .fle fmt rd ra rb => some (encFpu rd ra rb 12 0 fmt.code)
  | .fkind fmt rd ra => some (encFpu rd ra 0 13 0 fmt.code)
  | .fcvt fmt src rm rd ra => some (encFpu rd ra (0#2 ++ src.code) 14 rm.code fmt.code)
  | .fcvti fmt unsigned rm rd ra => some (encFpu rd ra (0#4 ++ boolBit unsigned) 15 rm.code fmt.code)
  | .fcvtf fmt unsigned rm rd ra => some (encFpu rd ra (0#4 ++ boolBit unsigned) 16 rm.code fmt.code)
  | .fmadd fmt rm rd ra rb rc => some (encFma 0 fmt rm rd ra rb rc)
  | .fmsub fmt rm rd ra rb rc => some (encFma 1 fmt rm rd ra rb rc)
  | .fnmadd fmt rm rd ra rb rc => some (encFma 2 fmt rm rd ra rb rc)
  | .fnmsub fmt rm rd ra rb rc => some (encFma 3 fmt rm rd ra rb rc)
  | .nop  => some (encS 0x2F 0 0 0 0)
  | .trap code => some (encS 0x2F 0 0 1 code)
  | .brk code => some (encS 0x2F 0 0 2 code)
  | .eret  => some (encS 0x2F 0 0 3 0)
  | .crd rd creg => some (encS 0x2F rd 0 4 creg.code)
  | .crdFflags rd => some (encS 0x2F rd 0 4 0x010)
  | .cwr creg ra => some (encS 0x2F 0 ra 5 creg.code)
  | .cwrStatus ra => some (encS 0x2F 0 ra 5 0x000)
  | .cwrFflags ra => some (encS 0x2F 0 ra 5 0x010)
  | .halt  => some (encS 0x2F 0 0 6 0)
  | .ld kind rd ra off => some (encM 0x10 rd ra kind.code off)
  | .st size rs ra off => some (encM 0x11 rs ra size.stCode off)
  | .ldx size signed fq ord scope rd ra rb => some (encR 0x12 rd ra rb (size.code ++ boolBit signed ++ fq.code ++ ord.code ++ scope.code))
  | .stx size fq ord scope rs ra rb => some (encR 0x13 rs ra rb (size.code ++ 0#1 ++ fq.code ++ ord.code ++ scope.code))
  | .atomSwp size ord scope rd ra rb => some (encAtom 0 size ord scope rd ra rb)
  | .atomCas size ord scope rd ra rb => some (encAtom 1 size ord scope rd ra rb)
  | .atomAdd size ord scope rd ra rb => some (encAtom 2 size ord scope rd ra rb)
  | .atomAnd size ord scope rd ra rb => some (encAtom 3 size ord scope rd ra rb)
  | .atomOr size ord scope rd ra rb => some (encAtom 4 size ord scope rd ra rb)
  | .atomXor size ord scope rd ra rb => some (encAtom 5 size ord scope rd ra rb)
  | .atomMax size ord scope rd ra rb => some (encAtom 6 size ord scope rd ra rb)
  | .atomMin size ord scope rd ra rb => some (encAtom 7 size ord scope rd ra rb)
  | .redAdd arr ty ord scope ra rb => some (encRed 0 arr ty ord scope ra rb)
  | .redAnd arr ty ord scope ra rb => some (encRed 1 arr ty ord scope ra rb)
  | .redOr arr ty ord scope ra rb => some (encRed 2 arr ty ord scope ra rb)
  | .redXor arr ty ord scope ra rb => some (encRed 3 arr ty ord scope ra rb)
  | .redMin arr ty ord scope ra rb => some (encRed 4 arr ty ord scope ra rb)
  | .redMax arr ty ord scope ra rb => some (encRed 5 arr ty ord scope ra rb)
  | .alrb ord scope ra => some (encS 0x16 0 ra 0 (0#5 ++ ord.code ++ scope.code))
  | .fence ord scope => some (encS 0x17 0 0 0 (0#5 ++ ord.code ++ scope.code))
  | .seal rl ra => some (encS 0x17 rl ra 1 0)
  | .unseal rl ra => some (encS 0x17 rl ra 2 0)
  | .xinv ro ra => some (encS 0x17 ro ra 3 0)
  | .xinva ro => some (encS 0x17 ro 0 4 0)
  | .rinv ra => some (encS 0x17 0 ra 5 0)
  | .cpref ra => some (encS 0x17 0 ra 6 0)
  | .orph abandon rd ra => some (encS 0x17 rd ra 7 (0#9 ++ boolBit abandon))
  | .vld size fq adv pg vd ra rb => some (encVmem 0x1A 0 size fq adv pg vd ra rb)
  | .vlds size fq adv pg vd ra rb => some (encVmem 0x1A 1 size fq adv pg vd ra rb)
  | .vldx size fq adv pg vd ra rb => some (encVmem 0x1A 2 size fq adv pg vd ra rb)
  | .vldr size fq adv pg vd ra rb => some (encVmem 0x1A 3 size fq adv pg vd ra rb)
  | .vst size fq adv pg vs ra rb => some (encVmem 0x1B 0 size fq adv pg vs ra rb)
  | .vsts size fq adv pg vs ra rb => some (encVmem 0x1B 1 size fq adv pg vs ra rb)
  | .vstx size fq adv pg vs ra rb => some (encVmem 0x1B 2 size fq adv pg vs ra rb)
  | .vadd ty pg vd va vb => some (encVint 0x00 ty pg vd va vb)
  | .vsub ty pg vd va vb => some (encVint 0x01 ty pg vd va vb)
  | .vmul ty pg vd va vb => some (encVint 0x02 ty pg vd va vb)
  | .vmulh ty pg vd va vb => some (encVint 0x03 ty pg vd va vb)
  | .vmin ty pg vd va vb => some (encVint 0x04 ty pg vd va vb)
  | .vmax ty pg vd va vb => some (encVint 0x05 ty pg vd va vb)
  | .vand ty pg vd va vb => some (encVint 0x06 ty pg vd va vb)
  | .vor ty pg vd va vb => some (encVint 0x07 ty pg vd va vb)
  | .vxor ty pg vd va vb => some (encVint 0x08 ty pg vd va vb)
  | .vandn ty pg vd va vb => some (encVint 0x09 ty pg vd va vb)
  | .vsll ty pg vd va vb => some (encVint 0x0A ty pg vd va vb)
  | .vsrl ty pg vd va vb => some (encVint 0x0B ty pg vd va vb)
  | .vsra ty pg vd va vb => some (encVint 0x0C ty pg vd va vb)
  | .vadds ty pg vd va vb => some (encVint 0x0D ty pg vd va vb)
  | .vsubs ty pg vd va vb => some (encVint 0x0E ty pg vd va vb)
  | .vabsd ty pg vd va vb => some (encVint 0x0F ty pg vd va vb)
  | .vavg ty pg vd va vb => some (encVint 0x10 ty pg vd va vb)
  | .vneg ty pg vd va => some (encVint 0x11 ty pg vd va 0)
  | .vabs ty pg vd va => some (encVint 0x12 ty pg vd va 0)
  | .vpopc ty pg vd va => some (encVint 0x13 ty pg vd va 0)
  | .vfadd fmt pg vd va vb => some (encVfp 0 fmt pg vd va vb)
  | .vfsub fmt pg vd va vb => some (encVfp 1 fmt pg vd va vb)
  | .vfmul fmt pg vd va vb => some (encVfp 2 fmt pg vd va vb)
  | .vfdiv fmt pg vd va vb => some (encVfp 3 fmt pg vd va vb)
  | .vfsqrt fmt pg vd va => some (encVfp 4 fmt pg vd va 0)
  | .vfmin fmt pg vd va vb => some (encVfp 5 fmt pg vd va vb)
  | .vfmax fmt pg vd va vb => some (encVfp 6 fmt pg vd va vb)
  | .vfcopysg fmt pg vd va vb => some (encVfp 7 fmt pg vd va vb)
  | .vfneg fmt pg vd va => some (encVfp 8 fmt pg vd va 0)
  | .vfabs fmt pg vd va => some (encVfp 9 fmt pg vd va 0)
  | .vfkind fmt pg vd va => some (encVfp 10 fmt pg vd va 0)
  | .vfma fmt pg vd va vb vc => some (encV4 0x1E vd va vb vc pg (fmt.code2 ++ 0#1))
  | .vfms fmt pg vd va vb vc => some (encV4 0x1E vd va vb vc pg (fmt.code2 ++ 1#1))
  | .vtrn size vd => some (encVperm 0 size 0 vd 0 0)
  | .vperm size pg vd va vb => some (encVperm 1 size pg vd va vb)
  | .vlift size pg vd va rb => some (encVperm 2 size pg vd va rb)
  | .vdrop size pg vd va rb => some (encVperm 3 size pg vd va rb)
  | .vrev size pg vd va => some (encVperm 4 size pg vd va 0)
  | .vsqz size pg vd va => some (encVperm 5 size pg vd va 0)
  | .vknitl size pg vd va vb => some (encVperm 6 size pg vd va vb)
  | .vknith size pg vd va vb => some (encVperm 7 size pg vd va vb)
  | .vsiftev size pg vd va vb => some (encVperm 8 size pg vd va vb)
  | .vsiftod size pg vd va vb => some (encVperm 9 size pg vd va vb)
  | .vceq ty pg pd va vb => some (encVcmp 0 ty.code pg pd va vb)
  | .vcne ty pg pd va vb => some (encVcmp 1 ty.code pg pd va vb)
  | .vclt ty pg pd va vb => some (encVcmp 2 ty.code pg pd va vb)
  | .vcle ty pg pd va vb => some (encVcmp 3 ty.code pg pd va vb)
  | .vbound ty pd ra rb => some (encVcmp 4 (0#1 ++ ty.code) 0 pd ra rb)
  | .pand pd pa pb => some (encPlogic 5 pd pa pb)
  | .por pd pa pb => some (encPlogic 6 pd pa pb)
  | .pxor pd pa pb => some (encPlogic 7 pd pa pb)
  | .pandn pd pa pb => some (encPlogic 8 pd pa pb)
  | .pcnt ty rd pa => some (encPscan 9 ty rd pa)
  | .pfirst ty rd pa => some (encPscan 10 ty rd pa)
  | .vrsum ty pg vd va vb => some (encVred 0 ty pg vd va vb)
  | .vrsumArr ty pg vd va vb => some (encVred 1 ty pg vd va vb)
  | .vrmin ty pg vd va vb => some (encVred 2 ty pg vd va vb)
  | .vrmax ty pg vd va vb => some (encVred 3 ty pg vd va vb)
  | .vrand ty pg vd va vb => some (encVred 4 ty pg vd va vb)
  | .vror ty pg vd va vb => some (encVred 5 ty pg vd va vb)
  | .vrxor ty pg vd va vb => some (encVred 6 ty pg vd va vb)
  | .vcvt dst src rm part pg vd va => some (encV 0x22 vd va (rm.code2 ++ part) pg (dst.code ++ src.code))
  | .frame sv n1 k1 sp => some (encS 0x23 sv (0#1 ++ n1) 0 (k1 ++ sp))
  | .vmov pg vd va => some (encVmove 0 0 pg vd va 0)
  | .vdup size pg vd ra => some (encVmove 1 size.code pg vd ra 0)
  | .vins size vd ra rb => some (encVmove 2 size.code 0 vd ra rb)
  | .vextr size rd va rb => some (encVmove 3 size.code 0 rd va rb)
  | .vidx size pg vd ra rb => some (encVmove 4 size.code pg vd ra rb)
  | .vwidth rd => some (encVmove 5 0 0 rd 0 0)
  | .vdraw vd ds ra => some (encDs 0x20 vd ds ra)
  | .vdrawb vd ds ra => some (encDs 0x21 vd ds ra)
  | .vdrawu vd ds ra => some (encDs 0x22 vd ds ra)
  | .vnoiseG vd ds ra => some (encDs 0x23 vd ds ra)
  | .vsrcvtBf16F32 vd ds ra => some (encDs 0x28 vd ds ra)
  | .vsrcvtF16F32 vd ds ra => some (encDs 0x29 vd ds ra)
  | .vsrcvtE4m3F32 vd ds ra => some (encDs 0x2A vd ds ra)
  | .vsrcvtE5m2F32 vd ds ra => some (encDs 0x2B vd ds ra)
  | .vsrcvtE2m1F32 vd ds ra => some (encDs 0x2C vd ds ra)
  | .vsrcvtE4m3F16 vd ds ra => some (encDs 0x2D vd ds ra)
  | .vsrcvtE5m2F16 vd ds ra => some (encDs 0x2E vd ds ra)
  | .vsrcvtE4m3Bf16 vd ds ra => some (encDs 0x2F vd ds ra)
  | .mma acc dA dB sk so pm1 rnd z => some (((0x25#6 ++ acc ++ dA ++ dB ++ sk ++ so ++ pm1 ++ boolBit rnd ++ boolBit z : Word32)))
  | .mswap acc => some (encS 0x26 0 0 0 (0#8 ++ acc))
  | .mwait acc => some (encS 0x26 0 0 1 (0#8 ++ acc))
  | .mzero acc => some (encS 0x26 0 0 2 (0#8 ++ acc))
  | .mlda acc ra => some (encS 0x26 0 ra 3 (0#8 ++ acc))
  | .msto fe acc ra => some (encS 0x26 0 ra 4 (0#7 ++ boolBit fe ++ acc))
  | .mrow vd acc ra => some (encS 0x26 vd ra 5 (0#8 ++ acc))
  | .pdesc dn ra off => some (encS 0x27 (0#1 ++ dn) ra 0 off)
  | .pdset dn ra => some (encS 0x27 (0#1 ++ dn) ra 1 0)
  | .pdrd rd dn => some (encS 0x27 rd 0 2 (0#6 ++ dn))
  | .pscale dn ra rb => some (encS 0x27 (0#1 ++ dn) ra 3 (0#5 ++ rb))
  | .pgscale dn ra rb => some (encS 0x27 (0#1 ++ dn) ra 4 (0#5 ++ rb))
  | .qpush port rd ra => some (encS 0x28 rd ra 0 (0#8 ++ port))
  | .qpop port rd => some (encS 0x28 rd 0 1 (0#8 ++ port))
  | .qtry port rd => some (encS 0x28 rd 0 2 (0#8 ++ port))
  | .qstat port rd => some (encS 0x28 rd 0 3 (0#8 ++ port))
  | .qabort port => some (encS 0x28 0 0 4 (0#8 ++ port))
  | .barv rd b => some (encS 0x29 rd 0 0 (0#2 ++ b))
  | .barw rd ra b => some (encS 0x29 rd ra 1 (0#2 ++ b))
  | .evsig ra e => some (encS 0x29 0 ra 2 (0#2 ++ e))
  | .evwait rd e => some (encS 0x29 rd 0 3 (0#2 ++ e))
  | .evtry rd e => some (encS 0x29 rd 0 4 (0#2 ++ e))
  | .mlock m => some (encS 0x29 0 0 5 (0#4 ++ m))
  | .mtry rd m => some (encS 0x29 rd 0 6 (0#4 ++ m))
  | .munlock rd m => some (encS 0x29 rd 0 7 (0#4 ++ m))
  | .monitorAndWait acq scope rd ra rb => some (encS 0x29 rd ra 8 (0#1 ++ scope.code ++ boolBit acq ++ rb))
  | .launch rd ra q => some (encS 0x2A rd ra 0 q)
  | .tspawn ra => some (encS 0x2A 0 ra 1 0)
  | .tnext rd => some (encS 0x2A rd 0 2 0)
  | .tend  => some (encS 0x2A 0 0 3 0)
  | .await ra => some (encS 0x2A 0 ra 4 0)
  | .tinfo rd k => some (encS 0x2A rd 0 5 (0#7 ++ k))
  | .tclose rd ra q => some (encS 0x2A rd ra 6 q)
  | .tqstat rd q => some (encS 0x2A rd 0 7 q)
  | .fuse rd n => some (encS 0x2B rd 0 0 (0#5 ++ n))
  | .split  => some (encS 0x2B 0 0 1 0)
  | .gidx rd => some (encS 0x2B rd 0 2 0)
  | .gsize rd => some (encS 0x2B rd 0 3 0)
  | .gredAdd rd ra => some (encS 0x2B rd ra 4 0)
  | .gredAnd rd ra => some (encS 0x2B rd ra 4 1)
  | .gredOr rd ra => some (encS 0x2B rd ra 4 2)
  | .gredXor rd ra => some (encS 0x2B rd ra 4 3)
  | .gredMin rd ra => some (encS 0x2B rd ra 4 4)
  | .gredMax rd ra => some (encS 0x2B rd ra 4 5)
  | .gredMinn rd ra => some (encS 0x2B rd ra 4 6)
  | .gredMaxn rd ra => some (encS 0x2B rd ra 4 7)
  | .draw rd ds ra => some (encDs 0 rd ds ra)
  | .dkey ds t => some (encS 0x2C (0#1 ++ ds) 0 1 t)
  | .dkset ds ra => some (encDs 2 0 ds ra)
  | .dkrd rd ds => some (encDs 3 rd ds 0)
  | .reseed rd => some (encS 0x2C rd 0 4 0)
  | .seedset rd ra => some (encS 0x2C rd ra 5 0)
  | .seedrd rd => some (encS 0x2C rd 0 6 0)
  | .cplace rd ra => some (encS 0x2C rd ra 7 0)
  | .exq rd ra c => some (encS 0x2C rd ra 8 (0#6 ++ 0#1 ++ c))
  | .exqm rd c => some (encS 0x2C rd 0 8 (0#6 ++ 1#1 ++ c))
  | .propose ord scope rd ra rb => some (encCell 0 false ord scope rd ra rb)
  | .cread wait ord scope rd ra rb => some (encCell 1 wait ord scope rd ra rb)
  | .recycleRetire ord scope rd ra rb => some (encCell 2 false ord scope rd ra rb)
  | .recycleOpen ord scope rd ra rb => some (encCell 2 true ord scope rd ra rb)
  | .cinit ord scope ra rb => some (encCell 3 false ord scope 0 ra rb)
  | .fpt rd => some (encS 0x2E rd 0 0 0)
  | .fcut rd ra q => some (encS 0x2E rd ra 1 q)
  | .fprog rd q => some (encS 0x2E rd 0 2 q)
  | .ctrd rd n => some (encS 0x30 rd 0 0 n)
  | .ctsel ra s => some (encS 0x30 0 ra 1 (0#5 ++ s))
  | .tstamp rd => some (encS 0x30 rd 0 2 0)
  | .proof rd ra => some (encS 0x30 rd ra 3 0)
  | .asynchronousCause => none
  | .preemptRequest _ _ => none
  | .uncorrRecord _ _ _ => none
  | .frameReplay => none
  | .matrixQueueEntry _ _ _ => none
  | .copy _ _ _ => none
  | .mcast _ _ _ => none
  | .fill _ _ => none
  | .barrierCfgWrite _ _ => none
  | .barrierParentWrite _ _ => none
  | .eventWordWrite _ _ => none
  | .eventUnitWrite _ _ => none
  | .eventSignal _ => none
  | .arrive _ => none
  | .release _ _ => none
  | .absent _ => none
  | .present _ => none
  | .barrierTimeout _ _ => none
  | .launchStart _ _ => none
  | .taskStart _ => none
  | .spawnPacket _ => none
  | .awaitResume _ => none
  | .clusterReport _ _ _ => none
  | .dieReport _ _ _ => none
  | .launchCompletion _ _ => none
  | .arbitrationRound _ _ _ => none
  | .sweepMove _ _ => none
  | .windowClose _ _ => none
  | .unitRetirement _ => none
  | .unitReturn _ => none
  | .weightChange _ _ => none
  | .pointFire _ _ _ _ _ => none
  | .storeAtHome _ => none
  | .update _ _ => none
  | .commit _ => none
  | .commitAtSharer _ _ => none
  | .loadMiss _ _ => none
  | .grainEviction _ _ => none
  | .directoryEntryReuse _ => none
  | .redAcceptance _ _ => none
  | .partialGiveUp _ _ => none
  | .pageWalk _ _ => none
  | .remoteRefusal _ => none
  | .scrub _ => none
  | .scrubEnd _ => none
  | .synchronisedStop _ _ => none
  | .coreHalt _ => none
  | .routerHalt _ _ => none
  | .flushToken _ _ => none
  | .cutClose => none
  | .dieSaveComplete _ => none
  | .saveDeadline _ => none
  | .restore _ => none
  | .pcSample _ => none
  | .counterSlotRotation => none
  | .proofTrigger => none
  | .gcycleStep _ _ => none
  | .ptpMessage _ => none
  | .ptpLoss => none
  | .create _ _ => none
  | .destroy _ => none
  | .map _ _ => none
  | .unmap _ _ => none
  | .load _ _ => none
  | .bind _ _ => none
  | .hostLaunch _ _ => none
  | .sched _ _ => none
  | .coreRequest _ _ => none
  | .power _ _ => none
  | .attest _ _ => none
  | .firmware _ _ => none
  | .ptpcfg _ _ => none
  | .otherRequestCode _ _ => none
  | .packetDrop _ => none
  | .unlistedEndpoint _ => none
  | .powerOn => none
  | .functionCheckEnd _ _ => none
  | .thermalThrottle => none
  | .thermalRecovery => none
  | .thermalShutdown => none
  | .deviceIdentifierAssignment _ => none

/-- The bytes of a word as memory holds them, lowest address first (R4, R33). -/
def wordBytes (w : Word32) : List Byte := [w.extractLsb' 0 8, w.extractLsb' 8 8, w.extractLsb' 16 8, w.extractLsb' 24 8]

/-- The word that four bytes of memory hold (R4). -/
def bytesWord (b0 b1 b2 b3 : Byte) : Word32 := b3 ++ b2 ++ b1 ++ b0

/-- The instruction that the decoder reads from the bits w of the opcode table's numbering: one 32-bit word, stored
little-endian and read back. -/
noncomputable def decodeTableWord (_nbits w : Nat) : Option Instr :=
  match wordBytes (BitVec.ofNat 32 w) with
  | [b0, b1, b2, b3] => (decode (bytesWord b0 b1 b2 b3)).toOption
  | _ => none

end Sys2Proof
end

