-- ==== Sys2Proof/Machine/State.lean ====
section
/-! DEFINITION. The state of the machine: one core is current, every other agent of the device is held beside it, and the
input list says which agent moves next (log 1). -/
namespace Sys2Proof.Machine

/-- Why the machine stops with a fault. -/
inductive Fault where
  /-- Raised by step when the input list names an encoded instruction, which a core fetches and no input is. Safe: the model
  stops where no hardware step corresponds. -/
  | spuriousInput
  deriving DecidableEq, Repr

/-- Why the machine refuses an instruction. -/
inductive Refusal where
  /-- Raised by an arm of exec whose instruction has no meaning yet. Safe: nothing is claimed of it. -/
  | notModelled (mnemonic : String)
  deriving DecidableEq, Repr

/-- What a meaning answers. -/
abbrev Result (σ : Type) := Host.Outcome σ Fault Refusal

-- Sparse tables and memory.

/-- A sparse table by number, keys strictly rising. -/
abbrev Tbl (α : Type) := List (Nat × α)

/-- The entry of a key, or a default. -/
def Tbl.get {α : Type} (d : α) : Tbl α → Nat → α
  | [], _ => d
  | (j, x) :: t, k => if j = k then x else Tbl.get d t k

/-- The entry of a key, if the table holds one. -/
def Tbl.find {α : Type} : Tbl α → Nat → Option α
  | [], _ => none
  | (j, x) :: t, k => if j = k then some x else Tbl.find t k

/-- The table with an entry replaced or added in order. -/
def Tbl.set {α : Type} : Tbl α → Nat → α → Tbl α
  | [], k, v => [(k, v)]
  | (j, x) :: t, k, v =>
    if k < j then (k, v) :: (j, x) :: t else if j = k then (k, v) :: t else (j, x) :: Tbl.set t k v

/-- The table without a key. -/
def Tbl.erase {α : Type} : Tbl α → Nat → Tbl α
  | [], _ => []
  | (j, x) :: t, k => if j = k then t else (j, x) :: Tbl.erase t k

/-- A memory: its bytes that are not what an unlisted address reads as, addresses strictly rising. -/
abbrev Memory := List Host.Cell

/-- What an unlisted byte reads as: zero (DESIGN CHOICE, log 4). -/
def Memory.unlisted : Byte := 0#8

/-- One byte of a memory. -/
def Memory.get : Memory → Nat → Byte
  | [], _ => Memory.unlisted
  | (a, b) :: t, k => if a = k then b else Memory.get t k

/-- A memory without an address. -/
def Memory.erase : Memory → Nat → Memory
  | [], _ => []
  | (a, b) :: t, k => if k < a then (a, b) :: t else if a = k then t else (a, b) :: Memory.erase t k

/-- A memory with an address listed. -/
def Memory.insert : Memory → Nat → Byte → Memory
  | [], k, v => [(k, v)]
  | (a, b) :: t, k, v =>
    if k < a then (k, v) :: (a, b) :: t else if a = k then (k, v) :: t else (a, b) :: Memory.insert t k v

/-- Writing one byte keeps the canonical form: the unlisted value is not listed. -/
def Memory.set (m : Memory) (k : Nat) (v : Byte) : Memory :=
  if v = Memory.unlisted then m.erase k else m.insert k v

/-- Every address lies above a bound and they rise strictly, and no entry holds the unlisted value. -/
def Memory.above : Nat → Memory → Bool
  | _, [] => true
  | lo, (a, b) :: t => decide (lo ≤ a) && decide (b ≠ Memory.unlisted) && Memory.above (a + 1) t

/-- The canonical form of a memory. -/
def Memory.wf (m : Memory) : Bool := Memory.above 0 m

-- The core.

/-- A register with the generation that was current when it was last written (R102). -/
structure Tagged (α : Type) where
  val : α
  gen : BitVec 8
  deriving DecidableEq, Repr

/-- The privilege levels that a compute core holds (R86). -/
inductive Level where
  | user | supervisor
  deriving DecidableEq, Repr

/-- STATUS (R89). GANGM and FRAMEACT are read from the gang and the FRAME that the core holds. -/
structure Status where
  cons : Bool
  ppl : Level
  pie : Bool
  ie : Bool
  pl : Level
  deriving DecidableEq, Repr

/-- CAUSE (R90). -/
structure Cause where
  defer : Bool
  async : Bool
  code : BitVec 6
  deriving DecidableEq, Repr

/-- IPEND but for UNCORR, which is set while the core holds a record of a deferred failure (R98). -/
structure Ipend where
  stop : Bool
  preempt : Bool
  orphan : Bool
  minima : Bool
  deriving DecidableEq, Repr

/-- FRST (R99). -/
structure Frst where
  act : Bool
  rep : BitVec 8
  pos : BitVec 4
  deriving DecidableEq, Repr

/-- FFLAGS (R228). -/
structure Flags where
  nv : Bool
  dz : Bool
  of : Bool
  uf : Bool
  nx : Bool
  deriving DecidableEq, Repr

/-- A record of a deferred failure of a store: FADDR, FINFO and LOST (R98). -/
structure Uncorr where
  faddr : Word
  place : BitVec 3
  lost : Bool
  deriving DecidableEq, Repr

/-- One bank of an accumulator set: 512 FP32 elements, row by row, with its generation (R29, R102, R278). -/
abbrev Bank := Tagged (Vector Word32 512)

/-- What MATRIX reports of a poisoned set: descriptor, block and FADDR (R95, R280). -/
structure Poison where
  desc : BitVec 4
  block : Nat
  faddr : Word
  deriving DecidableEq, Repr

/-- An accumulator set (R29, R275, R278, R280). -/
structure AccSet where
  working : Bank
  visible : Bank
  rowNaN : BitVec 32
  colNaN : BitVec 16
  poison : Option Poison
  deriving DecidableEq, Repr

/-- What an entry of the matrix queue does (R282, R290). -/
inductive MatrixOp where
  | mma (dA dB : BitVec 4) (sk so : Word) (pm1 : BitVec 4) (rnd z : Bool) (descA descB : Word)
  | zero
  | load (addr : Word)
  | store (fe : Bool) (addr : Word)
  | row (vd : VReg) (m0 : Nat)
  deriving DecidableEq, Repr

/-- An entry of the matrix queue: its set and the operation. -/
structure MatrixEntry where
  set : BitVec 2
  op : MatrixOp
  deriving DecidableEq, Repr

/-- A write into the lowest granule of one destination of a command, which the command makes last (R68, R305): the core, the window, the offset
and the bytes. -/
structure LateWrite where
  core : Nat
  win : Nat
  off : Nat
  bytes : List Byte
  deriving DecidableEq, Repr

/-- A command of a copy-engine port: four 64-bit words, the level that pushed it, the piece of the task that pushed it, if a task
did, and who it is attributed to (R299, R300, R303, R314); whether it has started, its rows done (R330), the writes into lowest granules
that it has still to make (R305), and its code and address once its work has ended and it waits for a completion slot (R299). -/
structure Command where
  words : Vector Word 4
  level : Level
  task : Option Nat
  kid : Origin
  started : Bool
  rowsDone : Nat
  low : List LateWrite
  result : Option (Nat × Word)
  deriving DecidableEq, Repr

/-- A completion element: 16 bytes (R306). -/
structure Element where
  lo : Word
  hi : Word
  deriving DecidableEq, Repr

/-- A copy-engine port: command FIFO and completion FIFO, oldest first (R299). -/
structure Port where
  commands : List Command
  done : List Element
  deriving DecidableEq, Repr

/-- A scratchpad: its bytes, the generation of each row, and the granules whose full/empty bit is full (R137, R139). -/
structure Scratch where
  bytes : Memory
  gens : Tbl (BitVec 8)
  full : List Nat
  /-- Rows with an uncorrectable error (R95, structure 4; log 5). -/
  bad : List Nat
  deriving DecidableEq, Repr

/-- A captured word of a FRAME body with the values of the scalar registers it reads (R261). -/
structure Captured where
  instr : Instr
  ra : Word
  rb : Word
  deriving DecidableEq, Repr

/-- A FRAME with replays outstanding (R260 to R262): where it stands, how often it replays, its strides, its body and the
position reached; and the scalar registers as they were when the core went on past the body, which are what a trap puts back
(R242). They are kept when the body writes no scalar register, and only then do instructions run ahead (log 7). -/
structure FrameExec where
  addr : Word
  count : Nat
  sv : BitVec 5
  sp : BitVec 2
  body : List Captured
  rep : Nat
  pos : Nat
  saved : Option (Vector (Tagged Word) 32)
  deriving DecidableEq, Repr

/-- A vector instruction in the sequencer, handed on behind a FRAME and not yet performed (R16, R242): its address, the instruction with the
values of its scalar sources, and the scalar registers when it was handed on, which a trap of it puts back. -/
structure Handed where
  addr : Word
  body : Captured
  saved : Vector (Tagged Word) 32
  deriving DecidableEq, Repr

/-- Membership of a gang: the leader's core number, this member's index, and the gang's size (R368, R370). -/
structure Gang where
  leader : Nat
  index : Nat
  size : Nat
  deriving DecidableEq, Repr

/-- What runs on a core (R94, R124, R356). -/
inductive RunState where
  /-- No task, or not started. -/
  | idle
  | running
  /-- HALT: clock-gated until a bit of IPEND is set (R124). -/
  | halted
  /-- Escalated with DOUBLE: the second trap's code, pc, FADDR and FINFO (R94). -/
  | escalated (code : BitVec 6) (pc faddr finfo : Word)
  deriving DecidableEq, Repr

/-- The kind of a task (R355 to R361, R376). -/
inductive TaskKind where
  | range | core | point (x0 x1 x2 : Nat)
  deriving DecidableEq, Repr

/-- What a task needs to run (R350, R356, R367): its launch, its kind, ENTRY and the uses of its kernel descriptor, its argument
and anchor addresses, and the interval and grain of its launch. -/
structure Work where
  queue : Nat
  seq : Nat
  kind : TaskKind
  kid : BitVec 32
  entry : Word
  uses : Word
  args : Word
  anchor : Word
  lo : Nat
  hi : Nat
  grain : Nat
  deriving DecidableEq, Repr

/-- A piece of work: what is left of its interval (R355, R357). A CORE task and a point have an empty one. -/
structure Piece where
  work : Work
  cur : Nat
  hi : Nat
  deriving DecidableEq, Repr

/-- The task that a core runs: the number of the piece that it holds, and what it runs (R356, R371). -/
structure Task where
  piece : Nat
  work : Work
  deriving DecidableEq, Repr

/-- The coloured messages of an endpoint: its colour, and what it has sent and received of either colour (R331). -/
structure Endpoint where
  colour : Bool
  sent0 : Nat
  sent1 : Nat
  recv0 : Nat
  recv1 : Nat
  deriving DecidableEq, Repr

/-- A task that has yielded the core (R314, R362): the granule that it waits on, its pc, the registers that the yield saves, and the
completion elements kept for it. -/
structure Yielded where
  task : Task
  granule : Nat
  pc : Word
  status : Status
  s : Vector (Tagged Word) 32
  v : Vector (Tagged VWord) 32
  p : Vector (Tagged PWord) 8
  desc : Vector (Tagged Word) 16
  stream : Vector (Tagged Word) 16
  fflags : Flags
  frst : Frst
  kept : Vector (List Element) 4
  deriving DecidableEq, Repr

/-- What reaches the network interface of a core: a CORE task spawned to it by name (R356, R361), or a message that the model does not
interpret (R101; log 21). -/
inductive Arrival where
  | task (w : Work)
  | message (m : BitVec 512)
  deriving DecidableEq, Repr

/-- A core (R29, R88 and the state of its engines). -/
structure Core where
  id : Nat
  pc : Word
  run : RunState
  s : Vector (Tagged Word) 32
  v : Vector (Tagged VWord) 32
  p : Vector (Tagged PWord) 8
  acc : Vector AccSet 4
  desc : Vector (Tagged Word) 16
  stream : Vector (Tagged Word) 16
  port : Vector Port 4
  status : Status
  cause : Cause
  epc : Word
  faddr : Word
  finfo : Word
  tvec : Word
  tstack : Word
  kscr : Word
  savearea : Word
  ctxbuf : Word
  ipend : Ipend
  frst : Frst
  fflags : Flags
  /-- FINFO [7:0] of a pending PREEMPT, the tick of a pending STOP and the mask of a pending MINIMA (R95). -/
  preemptSource : BitVec 8
  stopTick : Word
  minimaMask : BitVec 8
  /-- Records of deferred failures, oldest first (R98). -/
  uncorr : List Uncorr
  /-- What waits in the network interface in arrival order, and the messages that it has delivered to the core, oldest first (R101, R356). -/
  inbox : List Arrival
  delivered : List (BitVec 512)
  /-- Why the instruction at pc waits (R340). -/
  stall : BitVec 4
  frame : Option FrameExec
  /-- The vector sequencer: what has been handed on behind the FRAME, oldest first, sixteen at most (R16, R242). -/
  sequencer : List Handed
  matrix : List MatrixEntry
  pad : Scratch
  gang : Option Gang
  /-- Another member's trap has dissolved its gang while its own instruction still waits, after which it takes GANG (R372). -/
  leaving : Bool
  /-- The AWAIT at the pc has found no work to yield to, and waits without yielding (R362). -/
  parked : Bool
  task : Option Task
  /-- Tasks that have yielded this core, oldest first (R362). -/
  yielded : List Yielded
  /-- The model's own: of those tasks, the ones whose messages stand in a message buffer (R101; log 21). -/
  spilled : List Work
  /-- The halt cycle while a synchronised stop holds the core (R330), and its coloured messages (R331). -/
  halt : Option Nat
  ends : Endpoint
  /-- The model's own: how many traps this core has taken, by which a gang sees that a member trapped (log 1). -/
  traps : Nat
  deriving DecidableEq, Repr

def Arrival.work? : Arrival → Option Work
  | .task w => some w
  | .message _ => none
def Arrival.message? : Arrival → Option (BitVec 512)
  | .task _ => none
  | .message m => some m

/-- The CORE tasks spawned to a core by name that wait for it, in arrival order (R356). -/
def Core.named (c : Core) : List Work := c.inbox.filterMap Arrival.work?

/-- The messages that wait in the interface of a core, in arrival order (R101). -/
def Core.messages (c : Core) : List (BitVec 512) := c.inbox.filterMap Arrival.message?

-- Memory as the homes and slices hold it.

/-- How far a store to device memory has come (R145): sent by its slice; placed by the home, with the sharers that have not
yet acknowledged and those that have and hold the bytes pending; committed, with the sharers that have not yet heard of it. -/
inductive StorePhase where
  | sent
  | placed (unacked pending : List Nat)
  | committed (pending : List Nat)
  deriving DecidableEq, Repr

/-- A store between its two instants (R58, R145). dev is the device of a remote page's home (R64). -/
structure StoreRec where
  id : Nat
  cluster : Nat
  core : Nat
  owner : Nat
  kid : Origin
  level : Level
  va : Word
  dev : Option (BitVec 12)
  pa : Nat
  grain : Nat
  bytes : List Byte
  phase : StorePhase
  /-- Cycles since it issued, those in which its core stood halted left out (R65, R66). -/
  age : Nat
  /-- The number of the messages that its home sent last for it: a home's messages reach a slice in the order sent (R146). -/
  order : Nat
  deriving DecidableEq, Repr

/-- The copy of a grain in a cache (R16, R142, R143): in the slice of a cluster, or in the L1 or the instruction cache of one of its cores; its bytes, their
generation, and whether the home's directory records it (R144, R157). Copies of remote grains (R64) and of cells (R405) are kept in the
same way. -/
structure SliceCopy where
  cluster : Nat
  /-- The core whose L1 or instruction cache holds it; none for the slice. -/
  core : Option Nat
  /-- The instruction cache holds it (R16). -/
  code : Bool
  owner : Nat
  dev : Option (BitVec 12)
  base : Nat
  size : Nat
  gen : BitVec 8
  tracked : Bool
  cell : Bool
  bytes : List Byte
  deriving DecidableEq, Repr

/-- A reduction that a slice, or the home after a give-up, has accepted and no combine has folded in (R174, R176). -/
structure PartialRec where
  /-- The core to which a deferred error is reported (R98). -/
  core : Nat
  cluster : Option Nat
  dev : Option (BitVec 12)
  base : Nat
  request : RedRequest
  deriving DecidableEq, Repr

/-- An entry of a hold queue (R156): a store or a reduction that its core has handed on, an access for which its core waits, or a row
of a copy-engine port's command. -/
inductive HeldAccess where
  | store (core : Nat) (owner : Nat) (kid : Origin) (level : Level) (va : Word) (bytes : List Byte)
  | red (core : Nat) (owner : Nat) (kid : Origin) (level : Level) (r : RedRequest)
  | wait (core : Nat) (va : Word)
  | engine (core : Nat) (port : BitVec 2)
  deriving DecidableEq, Repr

/-- A write that was refused after it had retired (R177). -/
structure Orphan where
  owner : Nat
  core : Nat
  level : Level
  va : Word
  kid : Origin
  /-- None for a store, the reduction otherwise. -/
  red : Option RedRequest
  bytes : List Byte
  reported : Bool
  deriving DecidableEq, Repr

/-- An entry of a cluster's translation cache (R153): the page's first address, its size in bytes, its leaf and the leaf's level. -/
structure TlbEntry where
  owner : Nat
  gen : BitVec 8
  va : Nat
  size : Nat
  leaf : Word
  level : Nat
  deriving DecidableEq, Repr

/-- A block of an MSC slice (R143, R194, R195): line number, the frame owner at allocation, the parity of the key it was placed
under, set and way; which of its sixteen sectors of 32 bytes are valid, and which hold bytes that HBM lacks. -/
structure MscBlock where
  line : Nat
  owner : Nat
  parity : Bool
  set : Nat
  way : Nat
  valid : BitVec 16
  dirty : BitVec 16
  deriving DecidableEq, Repr

/-- A 64-byte unit of device memory with an uncorrectable error, and the structure that holds it (R95; log 5). -/
structure BadUnit where
  place : BitVec 3
  dev : Option (BitVec 12)
  unit : Nat
  deriving DecidableEq, Repr

/-- All of device memory. -/
structure MemState where
  /-- Committed bytes of the local HBM by physical address (R131). -/
  hbm : Memory
  /-- Committed bytes of other devices by pod-global address (R133). -/
  pod : Memory
  stores : List StoreRec
  nextStore : Nat
  nextOrder : Nat
  /-- The copies of every slice and L1; of one cache the most recently used block first (R142). -/
  copies : List SliceCopy
  partials : List PartialRec
  msc : Tbl (List MscBlock)
  /-- The frame owner of each 4 KiB granule (R193); how many table entries map it as a cell frame, with DEC = 1; and the granules of such
  frames that a mapping on another device names (R408). -/
  frames : Tbl Nat
  cellMaps : Tbl Nat
  podCells : List Nat
  /-- The compositor's count of the pages that map each granule of a tenant (R193). -/
  maps : Tbl Nat
  retired : List (Nat × Nat)
  bad : List BadUnit
  deriving DecidableEq, Repr

-- Clusters and owners.

/-- A barrier of an event unit (R317): its registers, the children counted in the phase and those that await the Release of the
phase before it (R326), the tick at which its timer started (R327), and whether it sent Absent for a save (R328). -/
structure Barrier where
  cfg : Word
  parent : Word
  gen : BitVec 32
  timedOut : Bool
  relw : Bool
  arrived : Nat
  absent : Nat
  children : List BarRef
  awaiting : List BarRef
  timer : Option Nat
  sentAbsent : Bool
  deriving DecidableEq, Repr

/-- An event of an event unit (R321): its count, the cores that wait, oldest first, and the grants made to cores whose EVWAIT
has not yet completed, each with the count after taking. -/
structure EventWord where
  count : Nat
  waiting : List Nat
  granted : List (Nat × Nat)
  deriving DecidableEq, Repr

/-- A mutex (R322): its holder, whether the holder's MLOCK has still to complete, and the cores that wait, oldest first. -/
structure Mutex where
  holder : Option Nat
  granted : Bool
  waiting : List Nat
  deriving DecidableEq, Repr

/-- An event unit (R316, R317). -/
structure EventUnit where
  barriers : Tbl Barrier
  events : Tbl EventWord
  mutexes : Tbl Mutex
  deriving DecidableEq, Repr

/-- A message between event units (R321, R326, R328). -/
inductive UnitMsg where
  | arrive (m : BarMsg)
  | release (m : BarMsg) (timedOut : Bool)
  | absent (m : BarMsg)
  | present (m : BarMsg)
  | signal (m : SignalMsg)
  deriving DecidableEq, Repr

/-- A unit message in flight, with its sender's colour (R331). -/
structure Flight where
  colour : Bool
  owner : Nat
  msg : UnitMsg
  deriving DecidableEq, Repr

/-- A cluster: its owner and generation (R23, R24, R159), the scrub and the owner whose stale entries it clears, its service, its
translation cache, hold queue and orphaned writes; its event unit, the pending pieces and spawned tasks of its part of the
dispatcher, oldest first (R355, R361), and the coloured messages of the two (R331). -/
structure Cluster where
  owner : Nat
  gen : BitVec 8
  scrubbing : Bool
  former : Nat
  /-- The owner of an owner change that came while the scrub ran, and whose generation step waits for the scrub's end (R160). -/
  next : Option Nat
  retired : Bool
  tlb : List TlbEntry
  hold : List HeldAccess
  orphans : List Orphan
  unit : EventUnit
  pending : List Piece
  ends : Endpoint
  /-- The tick at which its sampler sampled last, and the cores that it sampled then (R338). -/
  sampled : Nat × List Nat
  deriving DecidableEq, Repr

/-- What the device holds for one owner index. -/
structure Owner where
  /-- A partition holds this index (R23). -/
  live : Bool
  /-- The physical address of the page-table root, once the compositor has installed it (R149). -/
  root : Option Nat
  /-- The notification core that the compositor has named, if any (R98). -/
  notify : Option Nat
  /-- OSEED, and the seed before the last RESEED or SEEDSET, whose keys an open window still uses (R188, R199). -/
  oseed : Word
  oldSeed : Word
  seedVisible : Bool
  /-- The current key parity, of R199. -/
  parity : Bool
  /-- Open windows: the next set that the sweep visits, by stack (R199). -/
  window : Tbl Nat
  /-- Way-draw counters by stack, arbitration counters by 1,024 x class + instance (R191). -/
  wayCounters : Tbl (BitVec 32)
  arbCounters : Tbl (BitVec 32)
  /-- Weights (R204), minima as the host stated them and as they are in force (R209, R210). -/
  weights : Vector Nat 8
  minima : Vector Nat 8
  minimaNow : Vector Nat 8
  /-- The counter set by number (R342) and the event list (R343). -/
  counters : Tbl Nat
  events : Vector (BitVec 8) 32
  /-- The event-list positions that the slots count at present, with their codes (R343). -/
  counting : List (Nat × BitVec 8)
  /-- Launches that lost an orphaned write, by queue and sequence number (R177). -/
  lost : List (Nat × Nat)
  /-- The sample ring: its physical base, and n of its capacity 2^n (R341); the proof buffer's physical base (R345). -/
  ring : Option (Nat × Nat)
  proofBuffer : Option Nat
  /-- The digests of the object files loaded (R426). -/
  loaded : List (BitVec 256)
  deriving DecidableEq, Repr

-- The task dispatcher and the galleys.

/-- The states of a launch queue (R348). -/
inductive QueueState where
  | unbound | opened | closing | closed
  deriving DecidableEq, Repr

/-- The frontier of a live launch (R378): ROW0, PREFIX and OVER of the rows from ROW0 that have a complete point, and the points in
flight. -/
structure Frontier where
  row0 : Nat
  rows : Tbl (Nat × BitVec 64)
  inFlight : List (Nat × Nat × Nat)
  deriving DecidableEq, Repr

/-- Where a launch is placed (R355): on a die, or on one cluster. -/
inductive Placement where
  | die (n : Nat)
  | cluster (n : Nat)
  deriving DecidableEq, Repr

/-- A pending launch (R348, R351, R363): copies of its record and of its kernel descriptor, and its placement; whether it has started,
and then the clusters that have received work of it, and the clusters and dies that have reported; and the frontier that it starts
from or has. -/
structure Launch where
  seq : Nat
  addr : Word
  record : Vector Word 8
  kernel : Vector Word 4
  place : Placement
  started : Bool
  clusters : List Nat
  reported : List Nat
  dies : List Nat
  frontier : Frontier
  deriving DecidableEq, Repr

/-- A launch queue (R348, R364, R391): its state, owner, priority, completion word, next sequence number, abort mode, the cut with its
area and, once the records are written, their number; the record appended last and its address; where the launch that started last was
placed (R382); and the pending launches in order. -/
structure Queue where
  state : QueueState
  owner : Nat
  prio : Nat
  word : Word
  nextSeq : Nat
  abort : Bool
  cut : Option Word
  cutCount : Nat
  cutDone : Bool
  last : Option (Word × Vector Word 8)
  lastPlace : Option Placement
  pending : List Launch
  deriving DecidableEq, Repr

/-- What a task or spawn packet does where it arrives (R355, R361). -/
inductive PacketBody where
  | piece (p : Piece) (cluster : Nat)
  | core (w : Work) (cluster : Nat) (named : Option Nat)
  | memred (level : Level) (r : RedRequest)
  deriving DecidableEq, Repr

/-- A task or spawn packet in flight: its sender's colour, owner and cluster, its launch, and what it does (R331, R361, R363). -/
structure Packet where
  colour : Bool
  owner : Nat
  cluster : Nat
  queue : Nat
  seq : Nat
  body : PacketBody
  deriving DecidableEq, Repr

-- The draw unit's arbitrated structures.

/-- A request that waits at an instance: its owner, and the round in which it first contended, once it has (R203, R208). -/
structure ArbRequest where
  owner : Nat
  first : Option Nat
  deriving DecidableEq, Repr

/-- An arbitrated instance: the number of its next round and its waiting requests in arrival order (R203). -/
structure ArbInstance where
  round : Nat
  waiting : List ArbRequest
  deriving DecidableEq, Repr

-- The stop tree.

/-- A synchronised stop in progress (R329 to R335): the owner that stops, the owner that comes in, the tick and whether it has come, the
old colour; the routers that have halted, by 48 x die + router; the router inputs, by 5 x router + input, to which a flush token is on
its way and those at which it has arrived; the save buffers; the coloured messages that routers captured; whether the cut has closed;
and the dies whose save is complete. -/
structure StopTree where
  owner : Nat
  incoming : Option Nat
  tick : Nat
  due : Bool
  colour : Bool
  halted : List Nat
  tokens : List Nat
  flushed : List Nat
  messages : List (Nat × Flight)
  packets : List (Nat × Packet)
  captured : Nat
  cut : Bool
  saved : List Nat
  deriving DecidableEq, Repr

/-- What a save keeps of a cluster (R333, R366). -/
structure ClusterImage where
  number : Nat
  unit : EventUnit
  hold : List HeldAccess
  orphans : List Orphan
  pending : List Piece
  deriving DecidableEq, Repr

/-- The saved context of a partition (R191, R333, R366, R388): its tick, its cores with their registers as read, its clusters, the save buffers,
the frontiers of its live frontier launches by queue and sequence number, its queues, the pieces that its cores hold and a number above
theirs, and its way and arbitration counters. -/
structure Context where
  tick : Nat
  cores : List Core
  clusters : List ClusterImage
  messages : List Flight
  packets : List Packet
  frontiers : List ((Nat × Nat) × Frontier)
  queues : Tbl Queue
  pieces : Tbl Piece
  nextPiece : Nat
  wayCounters : Tbl (BitVec 32)
  arbCounters : Tbl (BitVec 32)
  deriving DecidableEq, Repr

/-- A pending proof trigger: the owner to whose proof buffer its record goes, its tick, whether the record holds every block of the device,
and the proof registers, once the blocks have latched them (R345). -/
structure Trigger where
  owner : Nat
  tick : Nat
  whole : Bool
  latched : Option (List (BitVec 256))
  deriving DecidableEq, Repr

-- The host port.

/-- The result that the body of a response carries (R427, R428). -/
inductive ReplyBody where
  | empty
  | sequence (n : Nat)
  | cause (code : BitVec 6) (faddr finfo : Word)
  | report (bytes : List Byte)
  deriving DecidableEq, Repr

/-- STATUS of a response (R419). -/
inductive ReplyStatus where
  | ok | badreq | nopart | nofit | notready | busy | auth | rollback
  deriving DecidableEq, Repr

/-- A response of the compositor (R418, R420). -/
structure Reply where
  code : BitVec 16
  header : ReqHeader
  status : ReplyStatus
  body : ReplyBody
  deriving DecidableEq, Repr

/-- A notice that the compositor sends unasked (R421). -/
inductive Notice where
  | escalation (coreid status cause epc faddr finfo : Word) (code : BitVec 6) (pc faddr2 finfo2 : Word)
  | retirement (u : DevUnit) (minima : List (Nat × Vector Nat 8))
  | switchAborted (outgoing : Nat) (incoming : Option Nat)
  | switchDeferred (outgoing : Nat) (incoming : Option Nat)
  | stopMoved (owner tick : Nat)
  | ready (u : DevUnit)
  | retired (u : DevUnit)
  | throttle
  | shutdown
  | holdover
  deriving DecidableEq, Repr

/-- A host request other than its header (R419). -/
inductive HostReq where
  | create (b : CreateBody)
  | destroy
  | map (b : MapBody)
  | unmap (b : UnmapBody)
  | load (b : LoadBody)
  | bind (b : BindBody)
  | launch (b : LaunchBody)
  | sched (b : SchedBody)
  | core (b : CoreBody)
  | power (b : PowerBody)
  | attest (b : AttestBody)
  | firmware (b : FirmwareBody)
  | ptpcfg (b : PtpcfgBody)
  | other (code : BitVec 16)
  deriving DecidableEq, Repr

/-- CODE (R419). -/
def HostReq.code : HostReq → BitVec 16
  | .create _ => 0x01 | .destroy => 0x02 | .map _ => 0x03 | .unmap _ => 0x04 | .load _ => 0x05 | .bind _ => 0x06 | .launch _ => 0x07
  | .sched _ => 0x08 | .core _ => 0x09 | .power _ => 0x0A | .attest _ => 0x0B | .firmware _ => 0x0C | .ptpcfg _ => 0x0D | .other c => c

/-- An UNMAP that R365 holds, with the queues for which it is held. -/
structure HeldUnmap where
  header : ReqHeader
  body : UnmapBody
  queues : List Nat
  deriving DecidableEq, Repr

/-- A host session (R420): the SEQ that is performed next, the stored responses, the requests held until their turn, and the LAUNCH in whose
turn the session waits for a page that migrates (log 18). -/
structure Session where
  next : BitVec 32
  replies : List Reply
  held : List (ReqHeader × HostReq)
  later : Option (ReqHeader × HostReq)
  deriving DecidableEq, Repr

/-- The compositor and the host port (R415 to R428). -/
structure HostPort where
  sessions : Tbl Session
  /-- Responses and notices sent, oldest first. -/
  sent : List Reply
  notices : List Notice
  /-- UNMAP requests that R365 holds. -/
  unmaps : List HeldUnmap
  hostTable : List Nat
  podTable : List (BitVec 12 × Nat)
  portErrors : Tbl Nat
  /-- The switches of the schedule still to come, those of them that have been deferred (R335), and the save deadline in microseconds
  (R334). -/
  switches : List SwitchPlan
  deferred : List SwitchPlan
  deadlineUs : Nat
  power : PowerState
  powerLimit : Nat
  powered : Bool
  throttled : Bool
  /-- Functions that have not reported since power-on, and units out of service other than channels and clusters (R19, R422). -/
  unreported : List DevUnit
  outOfService : List DevUnit
  /-- The running firmware and its digest, the fused security version, and an accepted image with its version (R425). -/
  firmware : BitVec 256
  fused : Nat
  accepted : Option (BitVec 256 × Nat)
  domain : BitVec 8
  roles : List Bool
  ptpLocked : Bool
  /-- The end of the HBM from which the compositor takes the next frame for a page table (log 8). -/
  tableTop : Nat
  deriving DecidableEq, Repr

/-- The device. -/
structure Dev where
  /-- The current core, and the others by number; a core that the table does not list is as after reset. -/
  core : Core
  others : Tbl Core
  clusters : Vector Cluster 32
  owners : Vector Owner 64
  mem : MemState
  /-- Messages between event units in flight (R321, R326). -/
  messages : List Flight
  /-- Launch queues 0 to 1,023 (R348), the pieces that cores hold and the number of the next one, task and spawn packets in flight and the
  number of the next one (R355 to R361). -/
  queues : Tbl Queue
  pieces : Tbl Piece
  nextPiece : Nat
  packets : Tbl Packet
  nextPacket : Nat
  /-- Arbitrated instances by 1,024 x class + instance (R201, R203). -/
  arbiters : Tbl ArbInstance
  /-- The synchronised stops in progress, and the saved contexts, by owner (R329 to R336). -/
  stops : Tbl StopTree
  contexts : Tbl Context
  trigger : Option Trigger
  /-- The device offset of PTP time, and the tick of the servo's last step (R344). -/
  toff : Nat
  servo : Option Nat
  /-- The multiple of 65,536 cycles at which the counter slots rotated last (R343). -/
  rotated : Nat
  host : HostPort
  deviceId : BitVec 12
  /-- The model's own: how many values of the free draws have been used (log 6). -/
  draws : Nat
  deriving DecidableEq, Repr

/-- An operation on a cell that another device's core performs (R408). -/
inductive CellOp where
  | propose (value control : Word)
  | retire (epoch : BitVec 24)
  | openNext (epoch : BitVec 24)
  | init (epoch : BitVec 24)
  deriving DecidableEq, Repr

/-- What another device does at a home: a store, a reduction, or an operation on a cell (R64, R133, R408). -/
inductive RemoteOp where
  | store (pa : Nat) (bytes : List Byte)
  | red (r : RedRequest)
  | cell (pa : Nat) (op : CellOp)
  deriving DecidableEq, Repr

/-- What the input list may hold (log 1): a step that another agent of the device takes; a change of the current core; time; a request that
arrives at an arbitrated instance; an uncorrectable error that a unit of memory or a scratchpad row takes. From other devices: what they do
at a home of this device, through a leaf of theirs, or at one of their own, a unit message that they refuse, and the saved context of a
partition that is transferred here. From other compositors: that a mapping of theirs
names a cell frame of this device, or does so no longer. From the compositor: the host table, a notification core, a proof trigger, and a stop at a
PTP instant. At a
core's network interface: a message that arrives, and the delivery of the oldest. -/
inductive Input where
  | event (i : Instr)
  | turn (core : Nat)
  | tick (n : Nat)
  | request (cls inst owner : Nat)
  | corrupt (b : BadUnit)
  | corruptPad (core row : Nat)
  | remote (dev : Option (BitVec 12)) (leaf : Word) (r : RemoteOp)
  | unitRefusal (m : UnitMsg)
  | podCell (granule : Nat) (named : Bool)
  | provision (endpoints : List Nat)
  | nameNotify (owner core : Nat)
  | armProof (owner tick : Nat)
  | stopAt (owner instant : Nat)
  | context (owner : Nat) (x : Context)
  | message (core : Nat) (m : BitVec 512)
  | deliver (core : Nat)
  deriving DecidableEq, Repr

/-- The machine: the device, the global cycle counter (R15, R344) and the inputs still to come (log 1). -/
structure State where
  d : Dev
  gcycle : Nat
  inputs : List Input
  deriving DecidableEq, Repr

-- Reset.

def Tagged.zero {w : Nat} : Tagged (BitVec w) := ⟨0, 0⟩

def Status.reset : Status := { cons := true, ppl := .user, pie := false, ie := false, pl := .supervisor }
def Ipend.reset : Ipend := { stop := false, preempt := false, orphan := false, minima := false }
def Frst.reset : Frst := { act := false, rep := 0, pos := 0 }
def Flags.none : Flags := { nv := false, dz := false, of := false, uf := false, nx := false }
def Bank.zero : Bank := ⟨Vector.replicate 512 0, 0⟩
def AccSet.reset : AccSet :=
  { working := Bank.zero, visible := Bank.zero, rowNaN := 0, colNaN := 0, poison := none }
def Port.reset : Port := { commands := [], done := [] }
def Scratch.reset : Scratch := { bytes := [], gens := [], full := [], bad := [] }

def Endpoint.reset : Endpoint := { colour := false, sent0 := 0, sent1 := 0, recv0 := 0, recv1 := 0 }

/-- A core after reset (R89, R103, R211, R228, R263; log 2, log 3). -/
def Core.reset (id : Nat) : Core :=
  { id := id, pc := 0, run := .idle
    s := Vector.replicate 32 Tagged.zero, v := Vector.replicate 32 Tagged.zero, p := Vector.replicate 8 Tagged.zero
    acc := Vector.replicate 4 AccSet.reset, desc := Vector.replicate 16 Tagged.zero
    stream := Vector.replicate 16 Tagged.zero, port := Vector.replicate 4 Port.reset
    status := Status.reset, cause := { defer := false, async := false, code := 0 }
    epc := 0, faddr := 0, finfo := 0, tvec := 0, tstack := 0, kscr := 0, savearea := 0, ctxbuf := 0
    ipend := Ipend.reset, frst := Frst.reset, fflags := Flags.none
    preemptSource := 0, stopTick := 0, minimaMask := 0, uncorr := [], inbox := [], delivered := [], stall := 0
    frame := none, sequencer := [], matrix := [], pad := Scratch.reset, gang := none, leaving := false, parked := false, task := none
    yielded := [], spilled := [], halt := none, ends := Endpoint.reset, traps := 0 }

def MemState.reset : MemState :=
  { hbm := [], pod := [], stores := [], nextStore := 0, nextOrder := 0, copies := [], partials := [], msc := [], frames := []
    cellMaps := [], podCells := [], maps := [], retired := [], bad := [] }

/-- The reset values of an event unit's objects (R317, R321, R322). -/
def Barrier.reset : Barrier :=
  { cfg := 0, parent := 0, gen := 0, timedOut := false, relw := false, arrived := 0, absent := 0, children := [], awaiting := [], timer := none
    sentAbsent := false }
def EventWord.reset : EventWord := { count := 0, waiting := [], granted := [] }
def Mutex.reset : Mutex := { holder := none, granted := false, waiting := [] }

def Cluster.reset : Cluster :=
  { owner := 0, gen := 0, scrubbing := false, former := 0, next := none, retired := false, tlb := [], hold := [], orphans := []
    unit := { barriers := [], events := [], mutexes := [] }, pending := [], ends := Endpoint.reset, sampled := (0, []) }

/-- An owner index that no partition holds (R188, R191, R204, R209, R342, R343). -/
def Owner.reset : Owner :=
  { live := false, root := none, notify := none, oseed := 0, oldSeed := 0, seedVisible := false, parity := false
    window := [], wayCounters := [], arbCounters := [], weights := Vector.replicate 8 1
    minima := Vector.replicate 8 0, minimaNow := Vector.replicate 8 0, counters := []
    events := Vector.replicate 32 0, counting := [], lost := []
    ring := none, proofBuffer := none, loaded := [] }

/-- The owners: index 0 is the device's own (R23). -/
def Owner.system : Owner := { Owner.reset with live := true }

/-- A launch queue that no owner is bound to (R348). -/
def Queue.reset : Queue :=
  { state := .unbound, owner := 0, prio := 0, word := 0, nextSeq := 1, abort := false, cut := none, cutCount := 0, cutDone := false
    last := none, lastPlace := none, pending := [] }
def ArbInstance.reset : ArbInstance := { round := 0, waiting := [] }

/-- The host port after bring-up, with every function in service (R334, R422, R423; log 3, log 5). -/
def HostPort.reset : HostPort :=
  { sessions := [], sent := [], notices := [], unmaps := [], hostTable := [], podTable := [], portErrors := [], switches := [], deferred := []
    deadlineUs := 200, power := .active, powerLimit := 0, powered := true, throttled := false, unreported := [], outOfService := []
    firmware := 0, fused := 0, accepted := none, domain := 0, roles := [], ptpLocked := true, tableTop := Config.hbmEnd }

def Dev.reset : Dev :=
  { core := Core.reset 0, others := [], clusters := Vector.replicate 32 Cluster.reset
    owners := (Vector.replicate 64 Owner.reset).set 0 Owner.system, mem := MemState.reset, messages := []
    queues := [], pieces := [], nextPiece := 0, packets := [], nextPacket := 0, arbiters := [], stops := [], contexts := []
    trigger := none, toff := 0, servo := none, rotated := 0, host := HostPort.reset, deviceId := 0, draws := 0 }

/-- The machine right after reset: every register at the value that the spec gives, or that the log names (log 2, 3, 4, 5). -/
def State.reset : State := { d := Dev.reset, gcycle := 0, inputs := [] }

end Sys2Proof.Machine
end

