-- ==== Sys2Proof/Machine/Ops.lean ====
section
/-! DEFINITION. The named operations over registers, the status and the pc; taking a trap and returning from one
(R91 to R94, R99, R102); and how the effect of an instruction becomes the outcome of a step. -/
namespace Sys2Proof.Machine

-- Which core, cluster and owner.

/-- The cluster of a core: bits [11:7] of its identifier, die and cluster (R13). -/
def clusterIx (core : Nat) : Fin 32 := Fin.ofNat 32 (core / 128)

/-- The number of the current core's cluster. -/
def Dev.cluster (d : Dev) : Fin 32 := clusterIx d.core.id

/-- The generation of the current core's cluster: OWNER [15:8] (R88, R159). -/
def Dev.gen (d : Dev) : BitVec 8 := d.clusters[d.cluster].gen

/-- The owner index of the current core's cluster (R23, R88). -/
def Dev.owner (d : Dev) : Nat := d.clusters[d.cluster].owner

/-- A core by number. -/
def Dev.coreAt (d : Dev) (c : Nat) : Core :=
  if c = d.core.id then d.core else (d.others.find c).getD (Core.reset c)

/-- The device with one core changed. -/
def Dev.setCore (d : Dev) (c : Core) : Dev :=
  if c.id = d.core.id then { d with core := c } else { d with others := d.others.set c.id c }

/-- The device with another core as the current one. -/
def Dev.switchTo (d : Dev) (c : Nat) : Dev :=
  if c = d.core.id then d
  else { d with core := d.coreAt c, others := (d.others.erase c).set d.core.id d.core }

/-- The device with one cluster changed. -/
def Dev.setCluster (d : Dev) (k : Fin 32) (c : Cluster) : Dev := { d with clusters := d.clusters.set k c }

/-- An owner by index (R23: 0 to 63). -/
def Dev.ownerAt (d : Dev) (o : Nat) : Owner := d.owners[Fin.ofNat 64 o]

/-- The device with one owner changed. -/
def Dev.setOwner (d : Dev) (o : Nat) (x : Owner) : Dev := { d with owners := d.owners.set (Fin.ofNat 64 o) x }

-- Tagged registers (R102): a stale register reads as zero, a write installs the current tag.

/-- The value of a tagged register under a generation. -/
def Tagged.read {w : Nat} (t : Tagged (BitVec w)) (g : BitVec 8) : BitVec w := if t.gen = g then t.val else 0

/-- S[r]: s0 reads as zero (R29, R51). -/
def Core.readS (c : Core) (g : BitVec 8) (r : SReg) : Word := if r = 0 then 0 else c.s[r.toFin].read g

/-- S[r] = x: a write of s0 is discarded (R29). -/
def Core.writeS (c : Core) (g : BitVec 8) (r : SReg) (x : Word) : Core :=
  if r = 0 then c else { c with s := c.s.set r.toFin ⟨x, g⟩ }

def Dev.rd (d : Dev) (r : SReg) : Word := d.core.readS d.gen r
def Dev.wr (d : Dev) (r : SReg) (x : Word) : Dev := { d with core := d.core.writeS d.gen r x }

/-- The pair that an even register starts: the low word in the even register (R31). -/
def Dev.rdPair (d : Dev) (r : SReg) : BitVec 128 := d.rd (r + 1) ++ d.rd r
/-- A write of a pair; the half that would go to s0 is discarded (R31). -/
def Dev.wrPair (d : Dev) (r : SReg) (x : BitVec 128) : Dev :=
  (d.wr r (x.extractLsb' 0 64)).wr (r + 1) (x.extractLsb' 64 64)

def Dev.rdV (d : Dev) (r : VReg) : VWord := d.core.v[r.toFin].read d.gen
def Dev.wrV (d : Dev) (r : VReg) (x : VWord) : Dev :=
  { d with core := { d.core with v := d.core.v.set r.toFin ⟨x, d.gen⟩ } }

/-- P[q]: p0 reads as all ones (R29); a stale predicate as all lanes false (R102). -/
def Dev.rdP (d : Dev) (q : PReg) : PWord := if q = 0 then BitVec.allOnes 256 else d.core.p[q.toFin].read d.gen
/-- P[q] = x: a write of p0 is discarded (R29). -/
def Dev.wrP (d : Dev) (q : PReg) (x : PWord) : Dev :=
  if q = 0 then d else { d with core := { d.core with p := d.core.p.set q.toFin ⟨x, d.gen⟩ } }

/-- D[n], a plane descriptor (R263); a stale one has every field zero (R102). -/
def Dev.rdD (d : Dev) (n : BitVec 4) : Word := d.core.desc[n.toFin].read d.gen
def Dev.wrD (d : Dev) (n : BitVec 4) (x : Word) : Dev :=
  { d with core := { d.core with desc := d.core.desc.set n.toFin ⟨x, d.gen⟩ } }

/-- DS[n], a draw stream register (R211). -/
def Dev.rdDs (d : Dev) (n : BitVec 4) : Word := d.core.stream[n.toFin].read d.gen
def Dev.wrDs (d : Dev) (n : BitVec 4) (x : Word) : Dev :=
  { d with core := { d.core with stream := d.core.stream.set n.toFin ⟨x, d.gen⟩ } }

-- The program counter.

/-- NextPC = PC + 4 (R50). -/
def Dev.advance (d : Dev) : Dev := { d with core := { d.core with pc := d.core.pc + 4 } }
/-- NextPC = t (R50). -/
def Dev.jump (d : Dev) (t : Word) : Dev := { d with core := { d.core with pc := t } }

-- Traps.

/-- A trap as TakeTrap's arguments name it (R91). -/
structure Trap where
  code : BitVec 6
  epc : Word
  faddr : Word
  finfo : Word
  async : Bool
  defer : Bool
  deriving DecidableEq, Repr

/-- Why an instruction did not complete: it traps; or it waits, with the reason code of R340; or it waits and has left something with
another agent, a walk that has been made or an entry of the hold queue: the device then; or it traps after a walk that found no leaf
(R154), on the device after that walk. -/
inductive Stop where
  | trap (t : Trap)
  | walkedTrap (d : Dev) (t : Trap)
  | wait (reason : BitVec 4)
  | left (d : Dev) (reason : BitVec 4)
  deriving DecidableEq, Repr

/-- The effect of an instruction on the device: the device after it, or why it did not complete. -/
abbrev Act := Except Stop Dev

/-- The exchange of s30 with TSTACK (R91, R92). -/
def Core.swapStack (c : Core) (g : BitVec 8) : Core :=
  let t := c.tstack
  ({ c with tstack := c.readS g 30 }).writeS g 30 t

/-- The scalar registers as they were before the instructions that have run ahead of a vector instruction (R242). -/
def Core.savedRegs (c : Core) : Vector (Tagged Word) 32 :=
  match c.frame with
  | none => (c.sequencer.head?.map (·.saved)).getD c.s
  | some f => f.saved.getD c.s

/-- The instructions that ran ahead lose their register writes, and the vector instructions handed on are not performed (R242). -/
def Core.putBack (c : Core) : Core := { c with s := c.savedRegs, sequencer := [] }

/-- A trap taken while a FRAME has replays outstanding, or a vector instruction waits in the sequencer: the FRAME's state goes to FRST (R99,
R242, R262). -/
def Core.leaveFrame (c : Core) : Core :=
  match c.frame with
  | none => c.putBack
  | some f =>
    { c.putBack with
      frst := { act := true, rep := BitVec.ofNat 8 f.rep, pos := BitVec.ofNat 4 f.pos }
      frame := none }

/-- Where a trap resumes: at the FRAME while one is active, else at the oldest vector instruction that is handed on and not performed (R96, R99,
R242). -/
def Core.resumeAt (c : Core) (epc : Word) : Word :=
  match c.frame with
  | none => (c.sequencer.head?.map (·.addr)).getD epc
  | some f => f.addr

/-- TakeTrap (R91), and the escalation of a synchronous trap that finds CONS = 0 (R94), which keeps STATUS and with it the FRAME that is
active until the compositor resumes the core (log 21). -/
def Core.takeTrap (c : Core) (g : BitVec 8) (t : Trap) : Core :=
  if c.status.cons = false then
    { c.putBack with
      pc := c.resumeAt c.pc
      run := .escalated t.code (c.resumeAt c.pc) t.faddr t.finfo
      parked := false
      traps := c.traps + 1 }
  else
    let c1 : Core :=
      { c.leaveFrame with
        cause := { defer := t.defer, async := t.async, code := t.code }
        epc := c.resumeAt t.epc
        faddr := t.faddr
        finfo := t.finfo
        status := { c.status with ppl := c.status.pl, pie := c.status.ie, ie := false, cons := false }
        parked := false
        traps := c.traps + 1 }
    let c2 := if c.status.pl = .user then c1.swapStack g else c1
    { c2 with status := { c2.status with pl := .supervisor }, pc := c.tvec, run := .running }

def levelCode : Level → BitVec 2
  | .user => 0
  | .supervisor => 1
/-- STATUS as it reads (R89). -/
def Core.statusWord (c : Core) : Word :=
  zext (boolBit c.frame.isSome ++ boolBit c.gang.isSome ++ 0#1 ++ boolBit c.status.cons ++ levelCode c.status.ppl
    ++ boolBit c.status.pie ++ boolBit c.status.ie ++ levelCode c.status.pl)
def Cause.word (c : Cause) : Word := zext (boolBit c.defer ++ boolBit c.async ++ c.code)
/-- COREID of a core of a device (R88). -/
def coreidOf (dev : BitVec 12) (core : Nat) : Word := zext (dev ++ BitVec.ofNat 12 core)
/-- The escalation record that a core sends the compositor (R94, R421). -/
def Core.escalation (c : Core) (dev : BitVec 12) (t : Trap) : Notice :=
  .escalation (coreidOf dev c.id) c.statusWord c.cause.word c.epc c.faddr c.finfo t.code (c.resumeAt c.pc) t.faddr t.finfo

/-- The current core takes a trap; one that escalates is reported (R91, R94). -/
def Dev.takeTrap (d : Dev) (t : Trap) : Dev :=
  { d with
    core := d.core.takeTrap d.gen t
    host := if d.core.status.cons then d.host else { d.host with notices := d.host.notices ++ [d.core.escalation d.deviceId t] } }

/-- A synchronous, precise trap of the instruction at the pc (R95, R96). -/
def Dev.trap {α : Type} (d : Dev) (code : BitVec 6) (faddr finfo : Word) : Except Stop α :=
  .error (.trap { code := code, epc := d.core.pc, faddr := faddr, finfo := finfo, async := false, defer := false })

/-- PRIV (R87): the instruction word and the level that it requires. -/
def Dev.priv {α : Type} (d : Dev) (w : Word32) (level : BitVec 2) : Except Stop α :=
  d.trap 0x02 d.core.pc (zext (level ++ w))

/-- An instruction that requires supervisor level (R87). -/
def Dev.needSupervisor (d : Dev) (w : Word32) (k : Act) : Act :=
  if d.core.status.pl = .user then d.priv w 1#2 else k

/-- GANG (R95, R372). -/
def Dev.gangTrap {α : Type} (d : Dev) (reason : BitVec 4) : Except Stop α := d.trap 0x10 0 (zext reason)

/-- An instruction that a gang does not permit (R372). -/
def Dev.notInGang (d : Dev) (k : Act) : Act := if d.core.gang.isSome then d.gangTrap 1 else k

/-- TASK (R367). -/
def Dev.taskTrap {α : Type} (d : Dev) (faddr : Word) (reason : BitVec 4) : Except Stop α := d.trap 0x0F faddr (zext reason)

/-- ILLOP (R40): the word and the reason. -/
def illopAt {α : Type} (addr : Word) (w : Word32) (reason : BitVec 4) : Except Stop α :=
  .error (.trap { code := 0x01, epc := addr, faddr := addr, finfo := zext (reason ++ w), async := false, defer := false })

/-- Why an instruction did not complete, where the device has become another one before it stopped. -/
def Stop.after (e : Dev) : Stop → Stop
  | .trap t => .walkedTrap e t
  | .walkedTrap x t => .walkedTrap x t
  | .wait r => .left e r
  | .left x r => .left x r

/-- What an instruction that did not complete leaves (R91, R99): the trap taken, or the pc where it was and the reason of the
wait (R340). -/
def Dev.stopped (d : Dev) : Stop → Dev
  | .trap t => d.takeTrap t
  | .walkedTrap e t => ({ e with core := { d.core with uncorr := e.core.uncorr } }).takeTrap t
  | .wait r => { d with core := { d.core with stall := r } }
  | .left e r => { e with core := { d.core with stall := r, uncorr := e.core.uncorr } }

/-- The machine with another device. -/
def State.withDev (s : State) (d : Dev) : State := { s with d := d }

/-- The outcome of an instruction whose effect on the device is a. -/
def finish (s : State) (a : Act) : Result State :=
  match a with
  | .ok d => .next (s.withDev d)
  | .error e => .next (s.withDev (s.d.stopped e))

/-- The outcome of an instruction that writes one scalar register and goes on. -/
def setS (s : State) (rd : SReg) (x : Word) : Result State := .next (s.withDev (s.d.wr rd x).advance)

-- Return from a trap (R92, R99).

/-- ERET at supervisor level, but for the FRAME that FRST.ACT asks to resume. -/
def Core.eret (c : Core) (g : BitVec 8) : Core :=
  let c1 := if c.status.ppl = .user then c.swapStack g else c
  { c1 with
    status := { c1.status with pl := c.status.ppl, ie := c.status.pie, cons := true }
    pc := c.epc }

-- Memory by several bytes: the one place where the byte order is decided (R4).

/-- The number that bytes hold, the lowest address first. -/
def leNat : List Byte → Nat
  | [] => 0
  | b :: t => b.toNat + 256 * leNat t

/-- n bytes of a number, the lowest address first. -/
def leBytes : Nat → Nat → List Byte
  | 0, _ => []
  | n + 1, x => BitVec.ofNat 8 x :: leBytes n (x / 256)

/-- n bytes of a memory from an address. -/
def Memory.read (m : Memory) : Nat → Nat → List Byte
  | _, 0 => []
  | a, n + 1 => m.get a :: Memory.read m (a + 1) n

/-- Bytes written into a memory from an address. -/
def Memory.write : Memory → Nat → List Byte → Memory
  | m, _, [] => m
  | m, a, b :: t => Memory.write (m.set a b) (a + 1) t

/-- The integer types that read as two's complement (R46). -/
def tySigned : Ty → Bool
  | .i8 | .i16 | .i32 | .i64 => true
  | .n8 | .n16 | .n32 | .n64 | .f32 | .f16 | .bf16 | .e4m3 | .e5m2 | .e2m1 => false

/-- Sorted sets of numbers. -/
def setInsert (x : Nat) : List Nat → List Nat
  | [] => [x]
  | y :: t => if x < y then x :: y :: t else if x = y then y :: t else y :: setInsert x t

/-- A core of the grid of a cluster (R13). -/
def coreExists (core : Nat) : Bool := decide (core < 4096) && decide (core % 128 < Config.coresPerCluster)

end Sys2Proof.Machine
end

