-- ==== Sys2Proof/Machine/Flags.lean ====
section
/-! DEFINITION. The sticky floating-point flags (R228, R229). -/
namespace Sys2Proof.Machine

/-- The OR of two sets of flags (R229). -/
def Flags.or (a b : Flags) : Flags :=
  { nv := a.nv || b.nv, dz := a.dz || b.dz, of := a.of || b.of, uf := a.uf || b.uf, nx := a.nx || b.nx }

def Flags.invalid : Flags := { Flags.none with nv := true }
def Flags.divByZero : Flags := { Flags.none with dz := true }
def Flags.inexact : Flags := { Flags.none with nx := true }
def Flags.overflow : Flags := { Flags.none with of := true, nx := true }
def Flags.underflow : Flags := { Flags.none with uf := true, nx := true }
/-- NV when a condition holds. -/
def Flags.invalidIf (c : Bool) : Flags := { Flags.none with nv := c }

/-- FFLAGS as a register reads (R228). -/
def Flags.word (f : Flags) : Word := zext (boolBit f.nv ++ boolBit f.dz ++ boolBit f.of ++ boolBit f.uf ++ boolBit f.nx)
/-- FFLAGS as a write leaves it: reserved bits are discarded (R126, R228). -/
def Flags.ofWord (x : Word) : Flags := { nv := bit x 4, dz := bit x 3, of := bit x 2, uf := bit x 1, nx := bit x 0 }

/-- An instruction ORs its flags into FFLAGS (R229). -/
def Dev.raise (d : Dev) (f : Flags) : Dev := { d with core := { d.core with fflags := d.core.fflags.or f } }

end Sys2Proof.Machine
end

