-- ==== Sys2Proof/Machine/Fp.lean ====
section
/-! DEFINITION. The number formats, the function Round and the floating-point operations on element codes
(R117 to R122, R220 to R227). Values are exact rationals and round once. -/
namespace Sys2Proof.Machine

/-- A floating format of R220: width, exponent bits, fraction bits, and the code of the largest finite value. -/
structure Fmt where
  w : Nat
  e : Nat
  f : Nat
  maxCode : Nat
  /-- The code of +infinity, if the format has one. -/
  inf : Option Nat
  /-- The code of the canonical NaN, if the format has one. -/
  nan : Option Nat
  deriving DecidableEq, Repr

def Fmt.f32 : Fmt := { w := 32, e := 8, f := 23, maxCode := 0x7F7FFFFF, inf := some 0x7F800000, nan := some 0x7FC00000 }
def Fmt.f16 : Fmt := { w := 16, e := 5, f := 10, maxCode := 0x7BFF, inf := some 0x7C00, nan := some 0x7E00 }
def Fmt.bf16 : Fmt := { w := 16, e := 8, f := 7, maxCode := 0x7F7F, inf := some 0x7F80, nan := some 0x7FC0 }
def Fmt.e4m3 : Fmt := { w := 8, e := 4, f := 3, maxCode := 0x7E, inf := none, nan := some 0x7F }
def Fmt.e5m2 : Fmt := { w := 8, e := 5, f := 2, maxCode := 0x7B, inf := some 0x7C, nan := some 0x7E }
def Fmt.e2m1 : Fmt := { w := 4, e := 2, f := 1, maxCode := 0x7, inf := none, nan := none }

/-- The bias of the exponent field (R220). -/
def Fmt.bias (t : Fmt) : Nat := 2 ^ (t.e - 1) - 1
/-- The weight of the sign bit. -/
def Fmt.signBit (t : Fmt) : Nat := 2 ^ (t.w - 1)

/-- The format of a scalar FP instruction (R118). -/
def fmtOf : FFmt → Fmt
  | .f32 => .f32 | .f16 => .f16 | .bf16 => .bf16

/-- The format of a floating element type (R46). -/
def tyFmt : Ty → Fmt
  | .f32 => .f32 | .f16 => .f16 | .bf16 => .bf16 | .e4m3 => .e4m3 | .e5m2 => .e5m2 | .e2m1 => .e2m1
  | .i8 | .i16 | .i32 | .i64 | .n8 | .n16 | .n32 | .n64 => .f32

/-- An exact real: sign, numerator, denominator (positive). A zero keeps its sign. -/
structure Exact where
  neg : Bool
  num : Nat
  den : Nat
  deriving DecidableEq, Repr

/-- The value of an element (R221). -/
inductive FVal where
  | nan (signalling : Bool)
  | inf (neg : Bool)
  | fin (x : Exact)
  deriving DecidableEq, Repr

/-- m x 2^(a - b) as an exact real. -/
def Exact.scaled (neg : Bool) (m a b : Nat) : Exact := { neg := neg, num := m * 2 ^ (a - b), den := 2 ^ (b - a) }

/-- The value of an element code (R221). -/
def Fmt.decode (t : Fmt) (c : Nat) : FVal :=
  let neg := decide (c / t.signBit % 2 = 1)
  let E := c / 2 ^ t.f % 2 ^ t.e
  let F := c % 2 ^ t.f
  if c % t.signBit ≤ t.maxCode then
    if E = 0 then .fin (.scaled neg F 1 (t.bias + t.f)) else .fin (.scaled neg (2 ^ t.f + F) E (t.bias + t.f))
  else if t.inf = some (c % t.signBit) then .inf neg
  else .nan (decide (t.f ≥ 7) && decide (F / 2 ^ (t.f - 1) = 0))

/-- A rounding mode (R48); SR carries the number of its random bits and their value (R227). -/
inductive Mode where
  | rne | rtz | rdn | rup
  | sr (k r : Nat)
  deriving DecidableEq, Repr

def modeOf : Rm → Mode
  | .rne => .rne | .rtz => .rtz | .rdn => .rdn | .rup => .rup

/-- Whether the magnitude lo + rem/D rounds up to lo + 1 in magnitude (R224, R227). -/
def roundsUp (m : Mode) (neg : Bool) (lo rem D : Nat) : Bool :=
  if rem = 0 then false else
  match m with
  | .rne => decide (2 * rem > D) || (decide (2 * rem = D) && decide (lo % 2 = 1))
  | .rtz => false
  | .rdn => neg
  | .rup => !neg
  | .sr k r => if neg then !decide (r < 2 ^ k * (D - rem) / D) else decide (r < 2 ^ k * rem / D)

/-- The power of two at or below a positive exact real, as floor(log2) + bias for a bias that keeps it natural. -/
def Exact.log2 (x : Exact) (bias : Nat) : Nat :=
  let e := x.num.log2 + bias - x.den.log2
  if x.num * 2 ^ (bias - e) < x.den * 2 ^ (e - bias) then e - 1 else e

/-- A code with its sign. -/
def Fmt.signed (t : Fmt) (neg : Bool) (c : Nat) : Nat := if neg then t.signBit + c else c

/-- What an overflow delivers (R224). -/
def Fmt.overflow (t : Fmt) (m : Mode) (neg : Bool) : Nat :=
  match t.inf with
  | none => t.signed neg t.maxCode
  | some i =>
    match m with
    | .rne | .sr _ _ => t.signed neg i
    | .rtz => t.signed neg t.maxCode
    | .rdn => t.signed neg (if neg then i else t.maxCode)
    | .rup => t.signed neg (if neg then t.maxCode else i)

/-- Round(x, t, m) for a floating type (R224): the code and the flags. Codes of one sign rise with the magnitude, so the code of
the neighbour below is its significand plus the exponent's step, and one more is the code of the neighbour above. -/
def Fmt.round (t : Fmt) (m : Mode) (x : Exact) : Nat × Flags :=
  if x.num = 0 then (t.signed x.neg 0, Flags.none) else
  -- the exponent of the binade, biased by 512 and no lower than that of the smallest normal
  let e := max (x.log2 512) (513 - t.bias)
  -- x as a multiple of the step 2^(e - 512 - f)
  let N := x.num * 2 ^ (512 + t.f - e)
  let D := x.den * 2 ^ (e - (512 + t.f))
  let lo := N / D
  let rem := N % D
  let mag := if roundsUp m x.neg lo rem D then lo + 1 else lo
  let c := mag + (e + t.bias - 513) * 2 ^ t.f
  if c > t.maxCode then (t.overflow m x.neg, Flags.overflow)
  else
    (t.signed x.neg c,
      if rem = 0 then Flags.none else if c < 2 ^ t.f then Flags.underflow else Flags.inexact)

/-- The nearest integer of a mode, as magnitude (R224). -/
def Exact.roundInt (x : Exact) (m : Mode) : Nat × Bool :=
  let lo := x.num / x.den
  let rem := x.num % x.den
  (if roundsUp m x.neg lo rem x.den then lo + 1 else lo, decide (rem ≠ 0))

/-- The integer of a sign and a magnitude. -/
def signedInt (neg : Bool) (n : Nat) : Int := if neg then -(n : Int) else n

/-- Conversion to an integer type of b bits (R121, R223): the value and the flags. -/
def toIntegerType (signed : Bool) (b : Nat) (m : Mode) (v : FVal) : Int × Flags :=
  let lo : Int := if signed then -(2 ^ (b - 1) : Int) else 0
  let hi : Int := if signed then (2 ^ (b - 1) : Int) - 1 else (2 ^ b : Int) - 1
  match v with
  | .nan _ => (0, Flags.invalid)
  | .inf neg => (if neg then lo else hi, Flags.invalid)
  | .fin x =>
    let r := x.roundInt m
    let i := signedInt x.neg r.1
    if i < lo then (lo, Flags.invalid) else if i > hi then (hi, Flags.invalid)
    else (i, if r.2 then Flags.inexact else Flags.none)

/-- The exact real of an integer. -/
def Exact.ofInt (i : Int) : Exact := { neg := decide (i < 0), num := i.natAbs, den := 1 }

-- Exact arithmetic.
def Exact.negate (x : Exact) : Exact := { x with neg := !x.neg }
/-- The sum with the sign rule of R120 for an exact zero. -/
def Exact.add (m : Mode) (x y : Exact) : Exact :=
  let i := signedInt x.neg x.num * y.den + signedInt y.neg y.num * x.den
  if i = 0 then
    { neg := if x.num = 0 ∧ y.num = 0 ∧ x.neg = y.neg then x.neg else decide (m = .rdn), num := 0, den := 1 }
  else { neg := decide (i < 0), num := i.natAbs, den := x.den * y.den }
def Exact.mul (x y : Exact) : Exact := { neg := x.neg != y.neg, num := x.num * y.num, den := x.den * y.den }
def Exact.div (x y : Exact) : Exact := { neg := x.neg != y.neg, num := x.num * y.den, den := x.den * y.num }
/-- Whether x < y. -/
def Exact.lt (x y : Exact) : Bool :=
  decide (signedInt x.neg x.num * y.den < signedInt y.neg y.num * x.den)
def Exact.eq (x y : Exact) : Bool :=
  decide (signedInt x.neg x.num * y.den = signedInt y.neg y.num * x.den)
/-- x times 2^a / 2^b. -/
def Exact.scale (x : Exact) (a b : Nat) : Exact := { x with num := x.num * 2 ^ a, den := x.den * 2 ^ b }

/-- The largest r with r^2 at most n, by trying the bits from the given one down. -/
def isqrtAux (n : Nat) : Nat → Nat → Nat
  | 0, r => r
  | k + 1, r => isqrtAux n k (if (r + 2 ^ k) * (r + 2 ^ k) ≤ n then r + 2 ^ k else r)
def isqrt (n : Nat) : Nat := isqrtAux n (n.log2 / 2 + 1) 0

/-- A real that every mode rounds as it rounds the square root of x: the root to 2^-300 with a sticky digit below. -/
def Exact.sqrt (x : Exact) : Exact :=
  let n := x.num * 2 ^ 600 / x.den
  let r := isqrt n
  let sticky := if r * r = n ∧ x.num * 2 ^ 600 % x.den = 0 then 0 else 1
  { neg := false, num := 2 * r + sticky, den := 2 ^ 301 }

-- Operations on codes. Each answers a code of the format and the flags it raises (R119, R120).

/-- The canonical NaN of a format. -/
def Fmt.qnan (t : Fmt) : Nat := t.nan.getD 0
def Fmt.infCode (t : Fmt) (neg : Bool) : Nat := t.signed neg (t.inf.getD t.maxCode)

def FVal.isSNaN : FVal → Bool
  | .nan s => s
  | .inf _ | .fin _ => false
def FVal.isNaN : FVal → Bool
  | .nan _ => true
  | .inf _ | .fin _ => false
def FVal.negate : FVal → FVal
  | .nan s => .nan s
  | .inf n => .inf (!n)
  | .fin x => .fin x.negate

/-- x + y on values. -/
def Fmt.addV (t : Fmt) (m : Mode) (x y : FVal) : Nat × Flags :=
  match x, y with
  | .nan a, y => (t.qnan, Flags.invalidIf (a || y.isSNaN))
  | .inf _, .nan b => (t.qnan, Flags.invalidIf b)
  | .fin _, .nan b => (t.qnan, Flags.invalidIf b)
  | .inf a, .inf b => if a = b then (t.infCode a, Flags.none) else (t.qnan, Flags.invalid)
  | .inf a, .fin _ => (t.infCode a, Flags.none)
  | .fin _, .inf b => (t.infCode b, Flags.none)
  | .fin a, .fin b => t.round m (a.add m b)

def Fmt.mulV (t : Fmt) (m : Mode) (x y : FVal) : Nat × Flags :=
  match x, y with
  | .nan a, y => (t.qnan, Flags.invalidIf (a || y.isSNaN))
  | .inf _, .nan b => (t.qnan, Flags.invalidIf b)
  | .fin _, .nan b => (t.qnan, Flags.invalidIf b)
  | .inf a, .inf b => (t.infCode (a != b), Flags.none)
  | .inf a, .fin b => if b.num = 0 then (t.qnan, Flags.invalid) else (t.infCode (a != b.neg), Flags.none)
  | .fin a, .inf b => if a.num = 0 then (t.qnan, Flags.invalid) else (t.infCode (a.neg != b), Flags.none)
  | .fin a, .fin b => t.round m (a.mul b)

def Fmt.divV (t : Fmt) (m : Mode) (x y : FVal) : Nat × Flags :=
  match x, y with
  | .nan a, y => (t.qnan, Flags.invalidIf (a || y.isSNaN))
  | .inf _, .nan b => (t.qnan, Flags.invalidIf b)
  | .fin _, .nan b => (t.qnan, Flags.invalidIf b)
  | .inf _, .inf _ => (t.qnan, Flags.invalid)
  | .inf a, .fin b => (t.infCode (a != b.neg), Flags.none)
  | .fin a, .inf b => (t.signed (a.neg != b) 0, Flags.none)
  | .fin a, .fin b =>
    if b.num = 0 then
      if a.num = 0 then (t.qnan, Flags.invalid) else (t.infCode (a.neg != b.neg), Flags.divByZero)
    else t.round m (a.div b)

def Fmt.sqrtV (t : Fmt) (m : Mode) (x : FVal) : Nat × Flags :=
  match x with
  | .nan a => (t.qnan, Flags.invalidIf a)
  | .inf a => if a then (t.qnan, Flags.invalid) else (t.infCode false, Flags.none)
  | .fin a =>
    if a.num = 0 then (t.signed a.neg 0, Flags.none)
    else if a.neg then (t.qnan, Flags.invalid) else t.round m a.sqrt

/-- x * y + z with one rounding (R122). -/
def Fmt.fmaV (t : Fmt) (m : Mode) (x y z : FVal) : Nat × Flags :=
  let snan := x.isSNaN || y.isSNaN || z.isSNaN
  match x, y with
  | .nan _, _ => (t.qnan, Flags.invalidIf snan)
  | .inf _, .nan _ => (t.qnan, Flags.invalidIf snan)
  | .fin _, .nan _ => (t.qnan, Flags.invalidIf snan)
  | .inf a, .inf b => infPlus (a != b) z
  | .inf a, .fin b => if b.num = 0 then (t.qnan, Flags.invalid) else infPlus (a != b.neg) z
  | .fin a, .inf b => if a.num = 0 then (t.qnan, Flags.invalid) else infPlus (a.neg != b) z
  | .fin a, .fin b =>
    match z with
    | .nan c => (t.qnan, Flags.invalidIf c)
    | .inf c => (t.infCode c, Flags.none)
    | .fin c => t.round m ((a.mul b).add m c)
where
  /-- An infinite product plus z. -/
  infPlus (neg : Bool) (z : FVal) : Nat × Flags :=
    match z with
    | .nan c => (t.qnan, Flags.invalidIf c)
    | .inf c => if c = neg then (t.infCode neg, Flags.none) else (t.qnan, Flags.invalid)
    | .fin _ => (t.infCode neg, Flags.none)

def Fmt.fadd (t : Fmt) (m : Mode) (x y : Nat) : Nat × Flags := t.addV m (t.decode x) (t.decode y)
def Fmt.fsub (t : Fmt) (m : Mode) (x y : Nat) : Nat × Flags := t.addV m (t.decode x) (t.decode y).negate
def Fmt.fmul (t : Fmt) (m : Mode) (x y : Nat) : Nat × Flags := t.mulV m (t.decode x) (t.decode y)
def Fmt.fdiv (t : Fmt) (m : Mode) (x y : Nat) : Nat × Flags := t.divV m (t.decode x) (t.decode y)
def Fmt.fsqrt (t : Fmt) (m : Mode) (x : Nat) : Nat × Flags := t.sqrtV m (t.decode x)
def Fmt.fmadd (t : Fmt) (m : Mode) (x y z : Nat) : Nat × Flags := t.fmaV m (t.decode x) (t.decode y) (t.decode z)
def Fmt.fmsub (t : Fmt) (m : Mode) (x y z : Nat) : Nat × Flags := t.fmaV m (t.decode x) (t.decode y) (t.decode z).negate
def Fmt.fnmadd (t : Fmt) (m : Mode) (x y z : Nat) : Nat × Flags :=
  t.fmaV m (t.decode x).negate (t.decode y) (t.decode z).negate
def Fmt.fnmsub (t : Fmt) (m : Mode) (x y z : Nat) : Nat × Flags :=
  t.fmaV m (t.decode x).negate (t.decode y) (t.decode z)

/-- Whether the code x orders below the code y as FMIN orders them, -0 below +0 (R120). -/
def FVal.below (x y : FVal) : Bool :=
  match x, y with
  | .nan _, _ => false
  | .inf a, .inf b => a && !b
  | .inf a, .fin _ => a
  | .inf a, .nan _ => a
  | .fin _, .nan _ => false
  | .fin _, .inf b => !b
  | .fin a, .fin b => a.lt b || (decide (a.num = 0 ∧ b.num = 0) && a.neg && !b.neg)

def Fmt.fmin (t : Fmt) (x y : Nat) : Nat × Flags :=
  let a := t.decode x; let b := t.decode y
  (if a.isNaN then (if b.isNaN then t.qnan else y) else if b.isNaN then x else if b.below a then y else x,
    Flags.invalidIf (a.isSNaN || b.isSNaN))
def Fmt.fmax (t : Fmt) (x y : Nat) : Nat × Flags :=
  let a := t.decode x; let b := t.decode y
  (if a.isNaN then (if b.isNaN then t.qnan else y) else if b.isNaN then x else if a.below b then y else x,
    Flags.invalidIf (a.isSNaN || b.isSNaN))

def Fmt.fcopysg (t : Fmt) (x y : Nat) : Nat := x % t.signBit + y / t.signBit % 2 * t.signBit
def Fmt.fneg (t : Fmt) (x : Nat) : Nat := x % t.signBit + (1 - x / t.signBit % 2) * t.signBit
def Fmt.fabs (t : Fmt) (x : Nat) : Nat := x % t.signBit

/-- Numeric equality and order of values that are not NaNs. -/
def FVal.eqv (x y : FVal) : Bool :=
  match x, y with
  | .nan _, _ => false
  | .inf a, .inf b => a == b
  | .inf _, .fin _ => false
  | .inf _, .nan _ => false
  | .fin _, .nan _ => false
  | .fin _, .inf _ => false
  | .fin a, .fin b => a.eq b
def FVal.ltv (x y : FVal) : Bool :=
  match x, y with
  | .nan _, _ => false
  | .inf a, .inf b => a && !b
  | .inf a, .fin _ => a
  | .inf _, .nan _ => false
  | .fin _, .nan _ => false
  | .fin _, .inf b => !b
  | .fin a, .fin b => a.lt b

def Fmt.feq (t : Fmt) (x y : Nat) : Bool × Flags :=
  let a := t.decode x; let b := t.decode y
  (a.eqv b, Flags.invalidIf (a.isSNaN || b.isSNaN))
def Fmt.flt (t : Fmt) (x y : Nat) : Bool × Flags :=
  let a := t.decode x; let b := t.decode y
  (a.ltv b, Flags.invalidIf (a.isNaN || b.isNaN))
def Fmt.fle (t : Fmt) (x y : Nat) : Bool × Flags :=
  let a := t.decode x; let b := t.decode y
  (a.ltv b || a.eqv b, Flags.invalidIf (a.isNaN || b.isNaN))

/-- The class word of R120. -/
def Fmt.fkind (t : Fmt) (x : Nat) : Nat :=
  let cls : Nat :=
    match t.decode x with
    | .nan s => if s then 5 else 4
    | .inf _ => 3
    | .fin a => if a.num = 0 then 0 else if x % t.signBit < 2 ^ t.f then 1 else 2
  cls + 8 * (x / t.signBit % 2)

/-- Conversion between floating formats (R121, R226, R255): a conversion to the same format copies all but a signalling NaN. -/
def Fmt.convert (t src : Fmt) (m : Mode) (x : Nat) : Nat × Flags :=
  if t = src ∧ (src.decode x).isSNaN = false then (x, Flags.none) else
  match src.decode x with
  | .nan s =>
    match t.nan with
    | none => (0, Flags.invalid)
    | some q => (q, Flags.invalidIf s)
  | .inf neg =>
    match t.inf with
    | some i => (t.signed neg i, Flags.none)
    | none => (match t.nan with | some q => q | none => t.signed neg t.maxCode, Flags.invalid)
  | .fin a => t.round m a

end Sys2Proof.Machine
end

