-- ==== Sys2Proof/Machine/Alu.lean ====
section
/-! DEFINITION. The integer instructions of the core engine (R104 to R111): results as functions of the operands, and the
meanings that write them. -/
namespace Sys2Proof.Machine

-- The operations of R106 as functions of a and b; ALR bodies use them too (R180).

/-- The number of zero bits above the highest 1 bit among the low n bits; n when they are all zero. -/
def clzAux (x : Word) : Nat → Nat
  | 0 => 0
  | n + 1 => if x.getLsbD n then 0 else clzAux x n + 1
def aluClz (a : Word) : Word := BitVec.ofNat 64 (clzAux a 64)

/-- The number of zero bits below the lowest 1 bit, looking at bits i to 63. -/
def ctzAux (x : Word) (i : Nat) : Nat → Nat
  | 0 => 0
  | n + 1 => if x.getLsbD i then 0 else ctzAux x (i + 1) n + 1
def aluCtz (a : Word) : Word := BitVec.ofNat 64 (ctzAux a 0 64)

/-- The number of 1 bits among the low n bits. -/
def popcAux {w : Nat} (x : BitVec w) : Nat → Nat
  | 0 => 0
  | n + 1 => popcAux x n + (if x.getLsbD n then 1 else 0)
def aluPopc (a : Word) : Word := BitVec.ofNat 64 (popcAux a 64)

def aluBswap (a : Word) : Word :=
  a.extractLsb' 0 8 ++ a.extractLsb' 8 8 ++ a.extractLsb' 16 8 ++ a.extractLsb' 24 8 ++ a.extractLsb' 32 8
    ++ a.extractLsb' 40 8 ++ a.extractLsb' 48 8 ++ a.extractLsb' 56 8

/-- The low six bits of a shift count (R106). -/
def shamt (b : Word) : Nat := b.toNat % 64
/-- The low five bits of a shift count of a .w form (R106). -/
def shamtW (b : Word) : Nat := b.toNat % 32
/-- The low half of a register. -/
def lo32 (a : Word) : Word32 := a.extractLsb' 0 32

def aluSll (a : Word) (n : Nat) : Word := a <<< n
def aluSrl (a : Word) (n : Nat) : Word := a >>> n
def aluSra (a : Word) (n : Nat) : Word := a.sshiftRight n
def aluRor (a : Word) (n : Nat) : Word := a.rotateRight n
def aluSllw (a : Word) (n : Nat) : Word := sext (lo32 a <<< n)
def aluSrlw (a : Word) (n : Nat) : Word := sext (lo32 a >>> n)
def aluSraw (a : Word) (n : Nat) : Word := sext ((lo32 a).sshiftRight n)

def aluSlt (a b : Word) : Word := boolWord (a.slt b)
def aluSltn (a b : Word) : Word := boolWord (a.ult b)
def aluMin (a b : Word) : Word := if a.slt b then a else b
def aluMax (a b : Word) : Word := if a.slt b then b else a
def aluMinn (a b : Word) : Word := if a.ult b then a else b
def aluMaxn (a b : Word) : Word := if a.ult b then b else a
def aluMulh (a b : Word) : Word := BitVec.ofInt 64 (a.toInt * b.toInt / 2 ^ 64)
def aluMulhn (a b : Word) : Word := BitVec.ofNat 64 (a.toNat * b.toNat / 2 ^ 64)

-- R107: the quotient rounds toward zero, the remainder takes the sign of the dividend.
def aluDiv (a b : Word) : Word := if b = 0 then BitVec.allOnes 64 else BitVec.ofInt 64 (a.toInt.tdiv b.toInt)
def aluDivn (a b : Word) : Word := if b = 0 then BitVec.allOnes 64 else BitVec.ofNat 64 (a.toNat / b.toNat)
def aluRem (a b : Word) : Word := if b = 0 then a else BitVec.ofInt 64 (a.toInt.tmod b.toInt)
def aluRemn (a b : Word) : Word := if b = 0 then a else BitVec.ofNat 64 (a.toNat % b.toNat)

def aluAddw (a b : Word) : Word := sext (lo32 (a + b))
def aluSubw (a b : Word) : Word := sext (lo32 (a - b))
def aluMulw (a b : Word) : Word := sext (lo32 (a * b))

/-- An integer saturated to the range of a signed n-bit type. -/
def clampSigned (n : Nat) (x : Int) : Int := max (-(2 ^ (n - 1) : Int)) (min ((2 ^ (n - 1) : Int) - 1) x)
/-- An integer saturated to the range of an unsigned n-bit type. -/
def clampUnsigned (n : Nat) (x : Int) : Int := max 0 (min ((2 ^ n : Int) - 1) x)
def aluAdds (a b : Word) : Word := BitVec.ofInt 64 (clampSigned 64 (a.toInt + b.toInt))
def aluSubs (a b : Word) : Word := BitVec.ofInt 64 (clampSigned 64 (a.toInt - b.toInt))

-- R110, R111.
def movHwz (k : BitVec 2) (imm : BitVec 16) : Word := zext imm <<< (16 * k.toNat)
def movHwi (old : Word) (k : BitVec 2) (imm : BitVec 16) : Word :=
  (old &&& ~~~(0xFFFF#64 <<< (16 * k.toNat))) ||| (zext imm <<< (16 * k.toNat))
def movHws (k : BitVec 2) (imm : BitVec 16) : Word := sext imm <<< (16 * k.toNat)
def pcRel (pc : Word) (imm : BitVec 16) : Word := pc + sext imm
def pcRelHigh (pc : Word) (imm : BitVec 16) : Word := ((pc >>> 16) + sext imm) <<< 16

-- Meanings: registers (R106).
def execAdd (rd ra rb : SReg) (s : State) : Result State := setS s rd (s.d.rd ra + s.d.rd rb)
def execSub (rd ra rb : SReg) (s : State) : Result State := setS s rd (s.d.rd ra - s.d.rd rb)
def execAnd (rd ra rb : SReg) (s : State) : Result State := setS s rd (s.d.rd ra &&& s.d.rd rb)
def execOr (rd ra rb : SReg) (s : State) : Result State := setS s rd (s.d.rd ra ||| s.d.rd rb)
def execXor (rd ra rb : SReg) (s : State) : Result State := setS s rd (s.d.rd ra ^^^ s.d.rd rb)
def execAndn (rd ra rb : SReg) (s : State) : Result State := setS s rd (s.d.rd ra &&& ~~~ s.d.rd rb)
def execOrn (rd ra rb : SReg) (s : State) : Result State := setS s rd (s.d.rd ra ||| ~~~ s.d.rd rb)
def execXnor (rd ra rb : SReg) (s : State) : Result State := setS s rd (~~~ (s.d.rd ra ^^^ s.d.rd rb))
def execSll (rd ra rb : SReg) (s : State) : Result State := setS s rd (aluSll (s.d.rd ra) (shamt (s.d.rd rb)))
def execSrl (rd ra rb : SReg) (s : State) : Result State := setS s rd (aluSrl (s.d.rd ra) (shamt (s.d.rd rb)))
def execSra (rd ra rb : SReg) (s : State) : Result State := setS s rd (aluSra (s.d.rd ra) (shamt (s.d.rd rb)))
def execRor (rd ra rb : SReg) (s : State) : Result State := setS s rd (aluRor (s.d.rd ra) (shamt (s.d.rd rb)))
def execSlt (rd ra rb : SReg) (s : State) : Result State := setS s rd (aluSlt (s.d.rd ra) (s.d.rd rb))
def execSltn (rd ra rb : SReg) (s : State) : Result State := setS s rd (aluSltn (s.d.rd ra) (s.d.rd rb))
def execMin (rd ra rb : SReg) (s : State) : Result State := setS s rd (aluMin (s.d.rd ra) (s.d.rd rb))
def execMax (rd ra rb : SReg) (s : State) : Result State := setS s rd (aluMax (s.d.rd ra) (s.d.rd rb))
def execMinn (rd ra rb : SReg) (s : State) : Result State := setS s rd (aluMinn (s.d.rd ra) (s.d.rd rb))
def execMaxn (rd ra rb : SReg) (s : State) : Result State := setS s rd (aluMaxn (s.d.rd ra) (s.d.rd rb))
def execMul (rd ra rb : SReg) (s : State) : Result State := setS s rd (s.d.rd ra * s.d.rd rb)
def execMulh (rd ra rb : SReg) (s : State) : Result State := setS s rd (aluMulh (s.d.rd ra) (s.d.rd rb))
def execMulhn (rd ra rb : SReg) (s : State) : Result State := setS s rd (aluMulhn (s.d.rd ra) (s.d.rd rb))
def execDiv (rd ra rb : SReg) (s : State) : Result State := setS s rd (aluDiv (s.d.rd ra) (s.d.rd rb))
def execDivn (rd ra rb : SReg) (s : State) : Result State := setS s rd (aluDivn (s.d.rd ra) (s.d.rd rb))
def execRem (rd ra rb : SReg) (s : State) : Result State := setS s rd (aluRem (s.d.rd ra) (s.d.rd rb))
def execRemn (rd ra rb : SReg) (s : State) : Result State := setS s rd (aluRemn (s.d.rd ra) (s.d.rd rb))
def execClz (rd ra : SReg) (s : State) : Result State := setS s rd (aluClz (s.d.rd ra))
def execCtz (rd ra : SReg) (s : State) : Result State := setS s rd (aluCtz (s.d.rd ra))
def execPopc (rd ra : SReg) (s : State) : Result State := setS s rd (aluPopc (s.d.rd ra))
def execBswap (rd ra : SReg) (s : State) : Result State := setS s rd (aluBswap (s.d.rd ra))
def execAddw (rd ra rb : SReg) (s : State) : Result State := setS s rd (aluAddw (s.d.rd ra) (s.d.rd rb))
def execSubw (rd ra rb : SReg) (s : State) : Result State := setS s rd (aluSubw (s.d.rd ra) (s.d.rd rb))
def execSllw (rd ra rb : SReg) (s : State) : Result State := setS s rd (aluSllw (s.d.rd ra) (shamtW (s.d.rd rb)))
def execSrlw (rd ra rb : SReg) (s : State) : Result State := setS s rd (aluSrlw (s.d.rd ra) (shamtW (s.d.rd rb)))
def execSraw (rd ra rb : SReg) (s : State) : Result State := setS s rd (aluSraw (s.d.rd ra) (shamtW (s.d.rd rb)))
def execMulw (rd ra rb : SReg) (s : State) : Result State := setS s rd (aluMulw (s.d.rd ra) (s.d.rd rb))
def execAdds (rd ra rb : SReg) (s : State) : Result State := setS s rd (aluAdds (s.d.rd ra) (s.d.rd rb))
def execSubs (rd ra rb : SReg) (s : State) : Result State := setS s rd (aluSubs (s.d.rd ra) (s.d.rd rb))

-- Meanings: immediates (R108, R109).
def execAddi (rd ra : SReg) (imm : BitVec 16) (s : State) : Result State := setS s rd (s.d.rd ra + sext imm)
def execAndi (rd ra : SReg) (imm : BitVec 16) (s : State) : Result State := setS s rd (s.d.rd ra &&& zext imm)
def execOri (rd ra : SReg) (imm : BitVec 16) (s : State) : Result State := setS s rd (s.d.rd ra ||| zext imm)
def execXori (rd ra : SReg) (imm : BitVec 16) (s : State) : Result State := setS s rd (s.d.rd ra ^^^ zext imm)
def execSlti (rd ra : SReg) (imm : BitVec 16) (s : State) : Result State := setS s rd (aluSlt (s.d.rd ra) (sext imm))
def execSltin (rd ra : SReg) (imm : BitVec 16) (s : State) : Result State := setS s rd (aluSltn (s.d.rd ra) (zext imm))
def execSlli (rd ra : SReg) (n : BitVec 6) (s : State) : Result State := setS s rd (aluSll (s.d.rd ra) n.toNat)
def execSrli (rd ra : SReg) (n : BitVec 6) (s : State) : Result State := setS s rd (aluSrl (s.d.rd ra) n.toNat)
def execSrai (rd ra : SReg) (n : BitVec 6) (s : State) : Result State := setS s rd (aluSra (s.d.rd ra) n.toNat)
def execRori (rd ra : SReg) (n : BitVec 6) (s : State) : Result State := setS s rd (aluRor (s.d.rd ra) n.toNat)
def execSlliw (rd ra : SReg) (n : BitVec 5) (s : State) : Result State := setS s rd (aluSllw (s.d.rd ra) n.toNat)
def execSrliw (rd ra : SReg) (n : BitVec 5) (s : State) : Result State := setS s rd (aluSrlw (s.d.rd ra) n.toNat)
def execSraiw (rd ra : SReg) (n : BitVec 5) (s : State) : Result State := setS s rd (aluSraw (s.d.rd ra) n.toNat)

-- Meanings: constants and addresses (R110, R111).
def execHwz (rd : SReg) (k : BitVec 2) (imm : BitVec 16) (s : State) : Result State := setS s rd (movHwz k imm)
def execHwi (rd : SReg) (k : BitVec 2) (imm : BitVec 16) (s : State) : Result State := setS s rd (movHwi (s.d.rd rd) k imm)
def execHws (rd : SReg) (k : BitVec 2) (imm : BitVec 16) (s : State) : Result State := setS s rd (movHws k imm)
def execAdpc (rd : SReg) (imm : BitVec 16) (s : State) : Result State := setS s rd (pcRel s.d.core.pc imm)
def execAdpch (rd : SReg) (imm : BitVec 16) (s : State) : Result State := setS s rd (pcRelHigh s.d.core.pc imm)

end Sys2Proof.Machine
end

