-- ==== Sys2Proof/Machine/Vec.lean ====
section
/-! DEFINITION. Vector and predicate registers as elements (R238 to R240). -/
namespace Sys2Proof.Machine

/-- Lanes(e) for elements of w bits (R50, R238). -/
def lanes (w : Nat) : Nat := 8 * Config.vwidth / w

/-- Element i of w bits of a vector register (R238). -/
def elem (w : Nat) (v : VWord) (i : Nat) : Nat := v.toNat / 2 ^ (w * i) % 2 ^ w

/-- Every element of w bits, in order. -/
def elems (w : Nat) (v : VWord) : List Nat := (List.range (lanes w)).map (elem w v)

/-- The number whose elements of w bits are the members of a list, element 0 first. -/
def pack (w : Nat) : List Nat → Nat
  | [] => 0
  | x :: t => x % 2 ^ w + 2 ^ w * pack w t

/-- The vector register that a list of elements fills; elements past the list are 0. -/
def ofElems (w : Nat) (xs : List Nat) : VWord := BitVec.ofNat 2048 (pack w xs)

/-- Active(g, i, e) of R50 for a predicate value: the bit of the element's lowest byte lane. -/
def laneOn (p : PWord) (w i : Nat) : Bool := p.getLsbD (w * i / 8)

/-- A merging write (R239): the elements governed on take their new values, the others keep theirs. -/
def merge (w : Nat) (p : PWord) (old : VWord) (f : Nat → Nat) : VWord :=
  ofElems w ((List.range (lanes w)).map fun i => if laneOn p w i then f i else elem w old i)

def Dev.writeElems (d : Dev) (w : Nat) (pg : PReg) (vd : VReg) (f : Nat → Nat) : Dev :=
  d.wrV vd (merge w (d.rdP pg) (d.rdV vd) f)

/-- The OR of the flags of a list of results (R229). -/
def allFlags (rs : List (Nat × Flags)) : Flags := rs.foldl (fun a r => a.or r.2) Flags.none

/-- A merging write of results with flags: an element governed off keeps its value and raises nothing (R229, R239). -/
def Dev.writeResults (d : Dev) (w : Nat) (pg : PReg) (vd : VReg) (f : Nat → Nat × Flags) : Dev :=
  let p := d.rdP pg
  let old := d.rdV vd
  let rs := (List.range (lanes w)).map fun i => if laneOn p w i then f i else (elem w old i, Flags.none)
  (d.wrV vd (ofElems w (rs.map (·.1)))).raise (allFlags rs)

/-- A predicate from elements of w bits: every bit of an element takes its Bool (R251). -/
def ofLanes (w : Nat) (f : Nat → Bool) : PWord :=
  BitVec.ofNat 256 (pack 1 ((List.range 256).map fun b => if f (8 * b / w) then 1 else 0))

/-- The elements of an integer type as numbers: read as signed or unsigned (R246). -/
def intOf (signed : Bool) (w x : Nat) : Int := if signed && decide (2 ^ (w - 1) ≤ x) then (x : Int) - 2 ^ w else x

/-- An integer reduced mod 2^w. -/
def modW (w : Nat) (i : Int) : Nat := (i % 2 ^ w).toNat

/-- An integer saturated to a type of w bits (R246, R255). -/
def saturate (signed : Bool) (w : Nat) (i : Int) : Nat :=
  let lo : Int := if signed then -(2 ^ (w - 1)) else 0
  let hi : Int := if signed then 2 ^ (w - 1) - 1 else 2 ^ w - 1
  modW w (max lo (min hi i))

/-- Element sizes in bits (R45). -/
def esizeBits : ESize → Nat
  | .b => 8 | .h => 16 | .w => 32 | .d => 64

def ityBits : ITy → Nat
  | .i8 | .n8 => 8 | .i16 | .n16 => 16 | .i32 | .n32 => 32 | .i64 | .n64 => 64
def itySigned : ITy → Bool
  | .i8 | .i16 | .i32 | .i64 => true
  | .n8 | .n16 | .n32 | .n64 => false

/-- The outcome of a vector instruction that only changes registers. -/
def vecNext (s : State) (d : Dev) : Result State := .next (s.withDev d.advance)

end Sys2Proof.Machine
end

