-- ==== Sys2Proof/Machine/Predicate.lean ====
section
/-! DEFINITION. VPRED (R251). -/
namespace Sys2Proof.Machine

/-- A comparison of two element codes of a type, with its flags. -/
abbrev CmpOp := Ty → Nat → Nat → Bool × Flags

/-- Comparison of integers as the type reads them. -/
def intCmp (t : Ty) (a b : Nat) (c : Int → Int → Bool) : Bool × Flags :=
  (c (intOf (tySigned t) t.bits a) (intOf (tySigned t) t.bits b), Flags.none)

def cmpEq : CmpOp := fun t a b => if t.isInt then (decide (a = b), Flags.none) else (tyFmt t).feq a b
def cmpNe : CmpOp := fun t a b => (!(cmpEq t a b).1, (cmpEq t a b).2)
def cmpLt : CmpOp := fun t a b => if t.isInt then intCmp t a b fun x y => decide (x < y) else (tyFmt t).flt a b
def cmpLe : CmpOp := fun t a b => if t.isInt then intCmp t a b fun x y => decide (x ≤ y) else (tyFmt t).fle a b

/-- A comparison into a predicate: elements governed off are written as 0 and raise nothing. -/
def Dev.vcmp (d : Dev) (t : Ty) (op : CmpOp) (pg pd : PReg) (va vb : VReg) : Dev :=
  let w := t.bits
  let p := d.rdP pg
  let a := d.rdV va
  let b := d.rdV vb
  let rs := (List.range (lanes w)).map fun i => if laneOn p w i then op t (elem w a i) (elem w b i) else (false, Flags.none)
  (d.wrP pd (ofLanes w fun i => (rs.map (·.1)).getD i false)).raise (rs.foldl (fun f r => f.or r.2) Flags.none)

/-- VBOUND with the two scalars as the type reads them. -/
def Dev.vbound (d : Dev) (t : ITy) (pd : PReg) (x y : Word) : Dev :=
  let v (z : Word) : Int := if itySigned t then z.toInt else z.toNat
  d.wrP pd (ofLanes (ityBits t) fun i => decide (v x + i < v y))

/-- A bitwise operation of predicates. -/
def Dev.plogic (d : Dev) (op : PWord → PWord → PWord) (pd pa pb : PReg) : Dev := d.wrP pd (op (d.rdP pa) (d.rdP pb))

/-- PCNT and PFIRST of a predicate value. -/
def pcntOf (t : Ty) (p : PWord) : Nat := ((List.range (lanes t.bits)).filter fun i => laneOn p t.bits i).length
def pfirstOf (t : Ty) (p : PWord) : Nat := ((List.range (lanes t.bits)).find? fun i => laneOn p t.bits i).getD (lanes t.bits)
def Dev.pcnt (d : Dev) (t : Ty) (rd : SReg) (pa : PReg) : Dev := d.wr rd (BitVec.ofNat 64 (pcntOf t (d.rdP pa)))
def Dev.pfirst (d : Dev) (t : Ty) (rd : SReg) (pa : PReg) : Dev := d.wr rd (BitVec.ofNat 64 (pfirstOf t (d.rdP pa)))

def predAnd (a b : PWord) : PWord := a &&& b
def predOr (a b : PWord) : PWord := a ||| b
def predXor (a b : PWord) : PWord := a ^^^ b
def predAndn (a b : PWord) : PWord := a &&& ~~~ b

def execVceq (t : Ty) (pg pd : PReg) (va vb : VReg) (s : State) : Result State := vecNext s (s.d.vcmp t cmpEq pg pd va vb)
def execVcne (t : Ty) (pg pd : PReg) (va vb : VReg) (s : State) : Result State := vecNext s (s.d.vcmp t cmpNe pg pd va vb)
def execVclt (t : Ty) (pg pd : PReg) (va vb : VReg) (s : State) : Result State := vecNext s (s.d.vcmp t cmpLt pg pd va vb)
def execVcle (t : Ty) (pg pd : PReg) (va vb : VReg) (s : State) : Result State := vecNext s (s.d.vcmp t cmpLe pg pd va vb)
def execVbound (t : ITy) (pd : PReg) (ra rb : SReg) (s : State) : Result State :=
  vecNext s (s.d.vbound t pd (s.d.rd ra) (s.d.rd rb))
def execPand (pd pa pb : PReg) (s : State) : Result State := vecNext s (s.d.plogic predAnd pd pa pb)
def execPor (pd pa pb : PReg) (s : State) : Result State := vecNext s (s.d.plogic predOr pd pa pb)
def execPxor (pd pa pb : PReg) (s : State) : Result State := vecNext s (s.d.plogic predXor pd pa pb)
def execPandn (pd pa pb : PReg) (s : State) : Result State := vecNext s (s.d.plogic predAndn pd pa pb)
def execPcnt (t : Ty) (rd : SReg) (pa : PReg) (s : State) : Result State := vecNext s (s.d.pcnt t rd pa)
def execPfirst (t : Ty) (rd : SReg) (pa : PReg) (s : State) : Result State := vecNext s (s.d.pfirst t rd pa)

end Sys2Proof.Machine
end

