-- ==== Sys2Proof/Machine/EventUnit.lean ====
section
/-! DEFINITION. The cluster event unit (R316 to R322, R326 to R328) as functions of its state: its registers, and what arrivals,
signals and messages do to it. A function answers the unit after it and the messages that the unit sends. -/
namespace Sys2Proof.Machine

-- Fields of CFG and PARENT (R317).
def Barrier.en (b : Barrier) : Bool := bit b.cfg 63
def cfgScope (cfg : Word) : Nat := bits cfg 58 56
def Barrier.timeout (b : Barrier) : Nat := bits b.cfg 55 40
def Barrier.expect (b : Barrier) : Nat := bits b.cfg 11 0
def Barrier.pv (b : Barrier) : Bool := bit b.parent 63
/-- The parent that a PARENT value names. -/
def parentRef (p : Word) : BarRef :=
  { unit := { dev := p.extractLsb' 48 12, cluster := p.extractLsb' 8 5 }, bar := p.extractLsb' 0 8 }

/-- STATE (R317). The counts ARRIVED and ABSENT are unbounded, and STATE shows them mod 4,096: the spec states no more than their 12 bits
(DESIGN CHOICE, log 16). -/
def Barrier.state (b : Barrier) : Word :=
  b.gen ++ boolBit b.timedOut ++ 0#2 ++ boolBit b.relw ++ BitVec.ofNat 12 b.arrived ++ 0#4 ++ BitVec.ofNat 12 b.absent

def EventUnit.barrier (u : EventUnit) (n : Nat) : Barrier := u.barriers.get Barrier.reset n
def EventUnit.setBarrier (u : EventUnit) (n : Nat) (b : Barrier) : EventUnit := { u with barriers := u.barriers.set n b }
def EventUnit.event (u : EventUnit) (n : Nat) : EventWord := u.events.get EventWord.reset n
def EventUnit.setEvent (u : EventUnit) (n : Nat) (e : EventWord) : EventUnit := { u with events := u.events.set n e }
def EventUnit.mutex (u : EventUnit) (n : Nat) : Mutex := u.mutexes.get Mutex.reset n
def EventUnit.setMutex (u : EventUnit) (n : Nat) (m : Mutex) : EventUnit := { u with mutexes := u.mutexes.set n m }

/-- A scope code contains another unit, seen from a unit (R20, R318). -/
def scopeContains (scope : Nat) (self other : UnitRef) : Bool :=
  if other.dev ≠ self.dev then decide (scope = 4)
  else if other.cluster.extractLsb' 3 2 ≠ self.cluster.extractLsb' 3 2 then decide (scope = 3 ∨ scope = 4)
  else if other.cluster ≠ self.cluster then decide (2 ≤ scope ∧ scope ≤ 4)
  else decide (1 ≤ scope ∧ scope ≤ 4)

/-- A store to CFG, or to PARENT, is accepted (R318); one to CFG that disables the barrier is not held to the parent's scope (log 16). -/
def configOk (self : UnitRef) (n : Nat) (old : Barrier) (ofCfg : Bool) (cfg parent : Word) : Bool :=
  decide (old.arrived = 0) && decide (old.absent = 0) && !old.relw
    && decide (bits cfg 62 59 = 0) && decide (bits cfg 39 12 = 0)
    && decide (bits parent 62 60 = 0) && decide (bits parent 47 13 = 0)
    && (!bit cfg 63 || (decide (bits cfg 11 0 ≠ 0) && decide (1 ≤ cfgScope cfg ∧ cfgScope cfg ≤ 4)))
    && (!bit parent 63 || (ofCfg && !bit cfg 63) ||
      (scopeContains (cfgScope cfg) self (parentRef parent).unit
        && decide (parentRef parent ≠ { unit := self, bar := BitVec.ofNat 8 n })))

/-- A load of the unit (R316, R317): none where the map names nothing. -/
def EventUnit.read (u : EventUnit) (o : Nat) : Option Word :=
  if o < 0x2000 then
    let b := u.barrier (o / 32)
    if o % 32 = 0 then some b.cfg else if o % 32 = 8 then some b.parent else if o % 32 = 16 then some b.state
    else if o % 32 = 24 then some 0 else none
  else if o < 0x2800 then
    if o % 8 = 0 then some (BitVec.ofNat 64 (u.event ((o - 0x2000) / 8)).count) else none
  else if o < 0x2A00 then
    if o % 8 = 0 then
      match (u.mutex ((o - 0x2800) / 8)).holder with
      | none => some 0
      | some c => some (1#1 ++ 0#56 ++ BitVec.ofNat 7 c)
    else none
  else none

/-- Grants to the cores that wait, in the order in which they began to wait, while the count lasts (R321). -/
def EventWord.grant (e : EventWord) : EventWord := go e.count e.granted e.waiting
where
  /-- Walks the waiting list. -/
  go (count : Nat) (granted : List (Nat × Nat)) : List Nat → EventWord
    | [] => { count := count, granted := granted, waiting := [] }
    | c :: t =>
      if count = 0 then { count := 0, granted := granted, waiting := c :: t }
      else go (count - 1) (granted ++ [(c, count - 1)]) t

/-- One more signal of an event, saturating (R321). -/
def EventUnit.signal (u : EventUnit) (n : Nat) : EventUnit :=
  let e := u.event n
  u.setEvent n ({ e with count := min (2 ^ 32 - 1) (e.count + 1) }).grant

/-- A store to the unit (R316, R318): none where it is refused. -/
def EventUnit.write (u : EventUnit) (self : UnitRef) (o : Nat) (x : Word) : Option EventUnit :=
  if o < 0x2000 then
    let n := o / 32
    let b := u.barrier n
    if o % 32 = 0 then
      (if configOk self n b true x b.parent then some (u.setBarrier n { b with cfg := x }) else none)
    else if o % 32 = 8 then
      (if configOk self n b false b.cfg x then some (u.setBarrier n { b with parent := x }) else none)
    else none
  else if o < 0x2800 then
    if o % 8 = 0 ∧ bits x 63 32 = 0 then
      let n := (o - 0x2000) / 8
      some (u.setEvent n ({ u.event n with count := x.toNat }).grant)
    else none
  else none

/-- The completion of a phase that is due (R320, R326). -/
def EventUnit.complete (u : EventUnit) (self : UnitRef) (owner n : Nat) : EventUnit × List UnitMsg :=
  let b := u.barrier n
  let me : BarRef := { unit := self, bar := BitVec.ofNat 8 n }
  if b.pv then
    (u.setBarrier n { b with arrived := 0, relw := true, timer := none, awaiting := b.children, children := [] },
      [.arrive { owner := owner, src := me, dst := parentRef b.parent }])
  else
    (u.setBarrier n { b with arrived := 0, timedOut := false, gen := b.gen + 1, timer := none, children := [] },
      b.children.map fun c => .release { owner := owner, src := me, dst := c } false)

/-- Complete? of R320: at the unit, indivisibly with the arrival. -/
def EventUnit.completeIfDue (u : EventUnit) (self : UnitRef) (owner n : Nat) : EventUnit × List UnitMsg :=
  let b := u.barrier n
  if b.arrived = b.expect ∧ b.relw = false then u.complete self owner n else (u, [])

/-- The timer of a root starts at the first arrival of a phase, while ABSENT is 0 (R327). -/
def Barrier.startTimer (b : Barrier) (now : Nat) : Option Nat :=
  if b.pv then none else if b.timer.isSome then b.timer else if b.absent = 0 then some now else none

/-- One arrival at a barrier that is in use: of a core, or of a child (R320, R326). -/
def EventUnit.arriveAt (u : EventUnit) (self : UnitRef) (owner now n : Nat) (child : Option BarRef) : EventUnit × List UnitMsg :=
  let b := u.barrier n
  (u.setBarrier n
    { b with arrived := b.arrived + 1, timer := b.startTimer now, children := b.children ++ child.toList }).completeIfDue self owner n

/-- A Release that reaches a child (R326). One that finds RELW = 0, which another device or a barrier set up again can bring about, changes
nothing: the spec does not say what it does there (DESIGN CHOICE, log 16). -/
def EventUnit.releaseAt (u : EventUnit) (self : UnitRef) (owner n : Nat) (timedOut : Bool) : EventUnit × List UnitMsg :=
  let b := u.barrier n
  if !b.relw then (u, [])
  else
    let me : BarRef := { unit := self, bar := BitVec.ofNat 8 n }
    let u1 := u.setBarrier n { b with relw := false, timedOut := timedOut, gen := b.gen + 1, awaiting := [] }
    let on := b.awaiting.map fun c => UnitMsg.release { owner := owner, src := me, dst := c } timedOut
    let next := if b.arrived ≥ b.expect then u1.complete self owner n else (u1, [])
    (next.1, on ++ next.2)

/-- An Absent that reaches a parent (R328). -/
def EventUnit.absentAt (u : EventUnit) (self : UnitRef) (owner n : Nat) : EventUnit × List UnitMsg :=
  let b := u.barrier n
  (u.setBarrier n { b with absent := b.absent + 1, timer := none },
    if b.pv ∧ b.absent = 0 then
      [.absent { owner := owner, src := { unit := self, bar := BitVec.ofNat 8 n }, dst := parentRef b.parent }] else [])

/-- A Present that reaches a parent (R328): at a root the timer restarts from zero when ABSENT returns to 0 (R327). One that finds
ABSENT = 0, which another device or a barrier set up again can bring about, is dropped: the spec does not say what it does there (DESIGN CHOICE,
log 16). -/
def EventUnit.presentAt (u : EventUnit) (self : UnitRef) (owner now n : Nat) : EventUnit × List UnitMsg :=
  let b := u.barrier n
  if b.absent = 0 then (u, [])
  else
    (u.setBarrier n
      { b with absent := b.absent - 1
               timer := if b.absent = 1 ∧ b.pv = false ∧ b.arrived ≠ 0 then some now else b.timer },
      if b.pv ∧ b.absent = 1 then
        [.present { owner := owner, src := { unit := self, bar := BitVec.ofNat 8 n }, dst := parentRef b.parent }] else [])

/-- A refused Arrive or Release completes the sender's waiting cores with TO = 1, and nothing is sent further (R326). With RELW = 1 they
wait for the phase that has completed here, and for the next one where ARRIVED has reached EXPECT in it; arrivals short of EXPECT go on counting
toward it. With RELW = 0 they wait for the current phase, whose arrivals end with it (log 16). -/
def EventUnit.refusedAt (u : EventUnit) (n : Nat) : EventUnit :=
  let b := u.barrier n
  let ended : Barrier := { b with timedOut := true, relw := false, awaiting := [], arrived := 0, timer := none, children := [] }
  u.setBarrier n
    (if !b.relw then { ended with gen := b.gen + 1 }
     else if b.expect ≤ b.arrived then { ended with gen := b.gen + 2 }
     else { b with timedOut := true, relw := false, gen := b.gen + 1, awaiting := [] })

/-- The timeout of a root (R327): the phase completes with TO = 1, whatever ARRIVED holds. -/
def EventUnit.timeoutAt (u : EventUnit) (self : UnitRef) (owner n : Nat) : EventUnit × List UnitMsg :=
  let b := u.barrier n
  let me : BarRef := { unit := self, bar := BitVec.ofNat 8 n }
  (u.setBarrier n { b with arrived := 0, timedOut := true, gen := b.gen + 1, timer := none, children := [] },
    b.children.map fun c => .release { owner := owner, src := me, dst := c } true)

/-- Phase x has completed when the phase number is g (R320). -/
def passed (g x : BitVec 32) : Bool := decide (1 ≤ (g - x).toNat ∧ (g - x).toNat ≤ 2 ^ 31 - 1)

/-- A core's waits are abandoned (R324). -/
def EventUnit.forget (u : EventUnit) (core : Nat) : EventUnit :=
  { u with
    events := u.events.map fun e => (e.1, { e.2 with waiting := e.2.waiting.filter fun c => decide (c ≠ core) })
    mutexes := u.mutexes.map fun m => (m.1, { m.2 with waiting := m.2.waiting.filter fun c => decide (c ≠ core) }) }

/-- A core holds a grant that it has not yet used (R324). -/
def EventUnit.hasGrant (u : EventUnit) (core : Nat) : Bool :=
  (u.events.any fun e => e.2.granted.any fun g => decide (g.1 = core))
    || (u.mutexes.any fun m => m.2.granted && decide (m.2.holder = some core))

/-- A mutex freed: the core that has waited longest takes it (R322). -/
def Mutex.free (x : Mutex) : Mutex :=
  match x.waiting with
  | [] => { holder := none, granted := false, waiting := [] }
  | c :: t => { holder := some c, granted := true, waiting := t }

/-- An event that a core no longer waits for: the counts granted to it go to those that wait. -/
def EventWord.without (e : EventWord) (core : Nat) : EventWord :=
  let mine (g : Nat × Nat) : Bool := decide (g.1 = core)
  EventWord.grant { count := min (2 ^ 32 - 1) (e.count + (e.granted.filter mine).length)
                    waiting := e.waiting.filter fun c => decide (c ≠ core)
                    granted := e.granted.filter fun g => !mine g }

/-- A mutex that a core no longer waits for: granted to it, it is freed. -/
def Mutex.without (x : Mutex) (core : Nat) : Mutex :=
  let y := { x with waiting := x.waiting.filter fun c => decide (c ≠ core) }
  if x.granted ∧ x.holder = some core then y.free else y

/-- A core waits at the unit, or holds a grant of it. -/
def EventUnit.isAt (u : EventUnit) (core : Nat) : Bool :=
  u.hasGrant core || (u.events.any fun e => e.2.waiting.contains core) || (u.mutexes.any fun m => m.2.waiting.contains core)

/-- What a core waits for, or has been granted, is given up, but for the event and the mutex that it still waits for: so that no count and no
mutex is lost on a core that waits no longer (R324; log 16). -/
def EventUnit.giveUp (u : EventUnit) (ev mx : Option Nat) (core : Nat) : EventUnit :=
  if !u.isAt core then u
  else
    { u with
      events := u.events.map fun e => if ev = some e.1 then e else (e.1, e.2.without core)
      mutexes := u.mutexes.map fun m => if mx = some m.1 then m else (m.1, m.2.without core) }

/-- The unit of a cluster (R317). -/
def Dev.unitRef (d : Dev) (k : Fin 32) : UnitRef := { dev := d.deviceId, cluster := BitVec.ofNat 5 k.val }

def Dev.setUnit (d : Dev) (k : Fin 32) (u : EventUnit) : Dev := d.setCluster k { d.clusters[k] with unit := u }

/-- Cores of the current cluster give up their waits and grants at the unit, but for an event and a mutex (R324). -/
def Dev.giveUpWaits (d : Dev) (cs : List Nat) (ev mx : Option Nat) : Dev :=
  d.setUnit d.cluster (cs.foldl (fun u c => u.giveUp ev mx (c % 128)) d.clusters[d.cluster].unit)

/-- Coloured messages sent and received by an endpoint (R331). -/
def Endpoint.send (e : Endpoint) (n : Nat) : Endpoint :=
  if e.colour then { e with sent1 := e.sent1 + n } else { e with sent0 := e.sent0 + n }
def Endpoint.receive (e : Endpoint) (colour : Bool) (n : Nat) : Endpoint :=
  if colour then { e with recv1 := e.recv1 + n } else { e with recv0 := e.recv0 + n }

/-- The unit to which a message goes. -/
def UnitMsg.target : UnitMsg → UnitRef
  | .arrive m => m.dst.unit
  | .release m _ => m.dst.unit
  | .absent m => m.dst.unit
  | .present m => m.dst.unit
  | .signal m => m.dst

/-- The barriers between which a message goes; a signal has no sender. -/
def UnitMsg.link : UnitMsg → Option (BarRef × BarRef)
  | .arrive m | .release m _ | .absent m | .present m => some (m.src, m.dst)
  | .signal _ => none

/-- The cluster of this device to which a message goes. One to another device is not counted here (R331, log 15). -/
def Dev.localTarget (d : Dev) (m : UnitMsg) : Option (Fin 32) :=
  if m.target.dev = d.deviceId then some (Fin.ofNat 32 m.target.cluster.toNat) else none

/-- The router that stands for a cluster, by 48 x die + router: which router holds a message, and how a die's 48 routers are numbered, is
the model's choice (log 15). -/
def routerOf (k : Fin 32) : Nat := 48 * (k.val / 8) + 6 * (k.val % 8)

/-- A message of an owner cannot pass the router of its target: the stop has halted it (R332). -/
def Dev.routerHolds (d : Dev) (o : Nat) (k : Fin 32) : Bool := (d.stops.find o).any fun t => t.halted.contains (routerOf k)

/-- Every core of a cluster has halted. -/
def Dev.allHalted (d : Dev) (k : Fin 32) : Bool :=
  (List.range Config.coresPerCluster).all fun i => (d.coreAt (128 * k.val + i)).halt.isSome

/-- A synchronised stop holds a cluster: the timers of its unit stand still (R327). -/
def Dev.unitHalted (d : Dev) (k : Fin 32) : Bool := (d.stops.find d.clusters[k].owner).isSome && d.allHalted k

/-- Timers stopped (R327). -/
def EventUnit.stopTimers (u : EventUnit) : EventUnit := { u with barriers := u.barriers.map fun b => (b.1, { b.2 with timer := none }) }

/-- The unit of a cluster after a step, and its messages in flight. -/
def Dev.afterUnit (d : Dev) (k : Fin 32) (r : EventUnit × List UnitMsg) : Dev :=
  let c := d.clusters[k]
  let e := d.setCluster k { c with unit := r.1, ends := c.ends.send (r.2.filter fun m => (d.localTarget m).isSome).length }
  { e with messages := e.messages ++ r.2.map fun m => { colour := c.ends.colour, owner := c.owner, msg := m } }

end Sys2Proof.Machine
end

