-- ==== Sys2Proof/Machine/Draws.lean ====
section
/-! DEFINITION. FOUNT, the keys of the streams, and the placement of MSC blocks (R132, R189 to R195, R199, R207). -/
namespace Sys2Proof.Machine

/-- fount(key, n) (R189). -/
def fount (key : Word) (n : Word32) : Word32 :=
  let x0 := n ^^^ key.extractLsb' 0 32
  let x1 := x0 * 0x2C1B3C6D
  let x2 := x1 ^^^ (x1 >>> 16)
  let x3 := x2 * 0x297A2D39
  let x4 := x3 ^^^ (x3 >>> 15)
  x4 ^^^ key.extractLsb' 32 32

/-- K(t), the key of stream t under a seed (R190). -/
def streamKey (seed : Word) (t : Nat) : Word :=
  fount seed (BitVec.ofNat 32 (2 * t + 1)) ++ fount seed (BitVec.ofNat 32 (2 * t))

/-- The placement and way-draw keys (R190). -/
def placementKey (seed : Word) : Word := streamKey seed 1
def wayKey (seed : Word) : Word := streamKey seed 2

/-- The home stack of a physical address (R132). -/
def homeStack (pa : Nat) : Nat := ((pa / 4096) % 8) ^^^ ((pa / 32768) % 8)
/-- The channel within the stack (R132). -/
def homeChannel (pa : Nat) : Nat := (pa / 32768) % 32
/-- The offset within the stack (R132). -/
def stackOffset (pa : Nat) : Nat := (pa / 32768) * 4096 + pa % 4096

/-- The line number of a block (R194). -/
def lineOf (pa : Nat) : Nat := (pa / 512) % 2 ^ 32
/-- The set of a block under a placement key (R194). -/
def setOf (key : Word) (line : Nat) : Nat :=
  (((BitVec.ofNat 32 line ^^^ key.extractLsb' 0 32) * (key.extractLsb' 32 32 ||| 1)) >>> 20).toNat

/-- The frame owner of an address (R193). -/
def Dev.frameOwner (d : Dev) (pa : Nat) : Nat := d.mem.frames.get 0 (pa / 4096)

/-- Adds to a counter of an owner's set, which saturates at 48 bits (R342). -/
def Owner.count (o : Owner) (n k : Nat) : Owner :=
  { o with counters := o.counters.set n (min (2 ^ 48 - 1) (o.counters.get 0 n + k)) }
def Dev.count (d : Dev) (o n k : Nat) : Dev := d.setOwner o ((d.ownerAt o).count n k)

/-- Positions of an event list that hold a code and are counted at present (R343). -/
def Owner.positions (o : Owner) (code : BitVec 8) : List Nat :=
  (o.counting.filter fun s => decide (s.2 = code)).map (·.1)

/-- An event of R343 for an owner. -/
def Dev.event (d : Dev) (o : Nat) (code : BitVec 8) (k : Nat := 1) : Dev :=
  d.setOwner o (((d.ownerAt o).positions code).foldl (fun x s => x.count (0x100 + s) k) (d.ownerAt o))

/-- One draw of the way of a new block for an owner at a stack; the counter advances (R191, R195). -/
def Owner.drawWay (o : Owner) (stack : Nat) : Nat × Owner :=
  let n := o.wayCounters.get 0 stack
  ((fount (wayKey o.oseed) n >>> 28).toNat, { o with wayCounters := o.wayCounters.set stack (n + 1) })

/-- Placing a block with its sectors under the current key evicts what lies there (R195, R199). -/
def Dev.placeBlock (d : Dev) (stack o line : Nat) (valid dirty : BitVec 16) : Dev :=
  let x := d.ownerAt o
  let set := setOf (placementKey x.oseed) line
  let w := x.drawWay stack
  let b : MscBlock := { line := line, owner := o, parity := x.parity, set := set, way := w.1, valid := valid, dirty := dirty }
  let rest := (d.mem.msc.get [] stack).filter fun c => !(decide (c.set = set) && decide (c.way = w.1))
  { (d.setOwner o w.2) with mem := { d.mem with msc := d.mem.msc.set stack (b :: rest) } }

/-- The block that lies where the next block of a line is placed (R195). -/
def Dev.victimOf (d : Dev) (stack o line : Nat) : Option MscBlock :=
  let x := d.ownerAt o
  (d.mem.msc.get [] stack).find? fun c => decide (c.set = setOf (placementKey x.oseed) line) && decide (c.way = (x.drawWay stack).1)

/-- The sectors of a block that n bytes at an address lie in (R143). -/
def sectorsOf (pa n : Nat) : BitVec 16 := BitVec.ofNat 16 ((2 ^ ceilDiv' (pa % 32 + n) 32 - 1) * 2 ^ (pa % 512 / 32))

/-- The bursts of 64 bytes that some sectors of a block take (R202). -/
def burstsOf (m : BitVec 16) : Nat := ((List.range 8).filter fun i => m.getLsbD (2 * i) || m.getLsbD (2 * i + 1)).length

/-- The block of an owner that holds a line, whichever key placed it. -/
def Dev.findBlock (d : Dev) (stack o line : Nat) : Option MscBlock :=
  (d.mem.msc.get [] stack).find? fun c => decide (c.line = line) && decide (c.owner = o)

/-- Taking a block out of its slice. -/
def Dev.dropBlock (d : Dev) (stack : Nat) (b : MscBlock) : Dev :=
  { d with mem := { d.mem with msc := d.mem.msc.set stack ((d.mem.msc.get [] stack).filter fun c => decide (c ≠ b)) } }

/-- Other sectors of a block. -/
def Dev.replaceBlock (d : Dev) (stack : Nat) (b x : MscBlock) : Dev :=
  { d with mem := { d.mem with msc := d.mem.msc.set stack ((d.mem.msc.get [] stack).map fun c => if c = b then x else c) } }

/-- The available capacity A_c of a class in units of 1/1,024, from the instances in service (R209). -/
def capacity (n n0 : Nat) : Nat := 1024 * n / n0

/-- The bound of EXQ (R207). -/
def exqLoop (k : Nat) : Nat → Nat → Nat → Nat → Nat
  | 0, _, r, _ => r
  | n + 1, i, r, x =>
    exqLoop k n (i + 1) (if k / 2 ^ i % 2 = 1 then ceilDiv' (r * x) (2 ^ 32) else r) (ceilDiv' (x * x) (2 ^ 32))
def exqBound (w W k : Nat) : Nat :=
  let q := if w * 2 ^ 17 ≤ W ^ 3 then 2 ^ 32 else ceilDiv' (2 ^ 32 * (W * 2 ^ 17 - (w * 2 ^ 17 - W ^ 3))) (W * 2 ^ 17)
  let r := exqLoop k 64 0 (2 ^ 32) q
  if r ≥ 2 ^ 32 then 0xFFFFFFFF else r

end Sys2Proof.Machine
end

