-- ==== Sys2Proof/Machine/Arbiter.lean ====
section
/-! DEFINITION. Arbitrated instances: their rounds, the requests that the device's own agents make at them, and the accesses of MSC slices
and channels that such requests are for (R194, R195, R199, R201 to R208). -/
namespace Sys2Proof.Machine

/-- The weight of an owner at a class; owner 0 has weight 1 (R204). -/
def Dev.weight (d : Dev) (o c : Nat) : Nat := if o = 0 then 1 else (d.ownerAt o).weights[Fin.ofNat 8 c]

/-- Instances of a class at manufacture (R201). -/
def classInstances (c : Nat) : Nat := [960, 12, 8, 256, 64, 12, 8, 32].getD c 0

-- Arbitration (R203 to R208).

/-- One draw of an owner's arbitration stream at an instance; the counter advances (R190, R191). -/
def Owner.drawArb (o : Owner) (c inst : Nat) : Word32 × Owner :=
  let n := o.arbCounters.get 0 (1024 * c + inst)
  (fount (streamKey o.oseed (0x10 + c)) n, { o with arbCounters := o.arbCounters.set (1024 * c + inst) (n + 1) })

/-- The largest of n tickets (R203). -/
def Owner.ticket (o : Owner) (c inst : Nat) : Nat → Nat → Nat × Owner
  | 0, best => (best, o)
  | n + 1, best =>
    let r := o.drawArb c inst
    r.2.ticket c inst n (max best (r.1.toNat / 2 ^ 16))

/-- The contenders of a round: each owner that has a waiting request, in ascending order. -/
def ArbInstance.contenders (a : ArbInstance) : List Nat := a.waiting.foldl (fun l r => setInsert r.owner l) []

/-- The draws of a lottery round: the winner and its ticket, a tie going to the lower index (R203). -/
def Dev.lottery (d : Dev) (c inst : Nat) : List Nat → Option (Nat × Nat) → Dev × Option (Nat × Nat)
  | [], best => (d, best)
  | o :: t, best =>
    let r := (d.ownerAt o).ticket c inst (d.weight o c) 0
    (d.setOwner o r.2).lottery c inst t
      (match best with
        | none => some (o, r.1)
        | some b => if b.2 < r.1 then some (o, r.1) else some b)

/-- The oldest request of each contender contends from this round on (R203, R208). -/
def markFirst (round : Nat) : List Nat → List ArbRequest → List ArbRequest
  | _, [] => []
  | seen, r :: t =>
    (if seen.contains r.owner then r else { r with first := some (r.first.getD round) }) :: markFirst round (r.owner :: seen) t

/-- The bucket of a wait (R208). -/
def waitBucket (w : Nat) : Nat := if w = 0 then 0 else min 15 (w.log2 + 1)

/-- The oldest request of an owner removed: the request, and the others. -/
def takeRequest (o : Nat) : List ArbRequest → Option ArbRequest × List ArbRequest
  | [] => (none, [])
  | r :: t => if r.owner = o then (some r, t) else ((takeRequest o t).1, r :: (takeRequest o t).2)

/-- A request granted: it leaves, and its wait is counted (R208). -/
def Dev.grantRequest (d : Dev) (c inst o : Nat) (a : ArbInstance) : Dev :=
  let r := takeRequest o a.waiting
  let wait := match r.1 with
    | some x => a.round - x.first.getD a.round
    | none => 0
  { d.count o (0x200 + 16 * c + waitBucket wait) 1 with
    arbiters := d.arbiters.set (1024 * c + inst) { round := a.round + 1, waiting := r.2 } }

/-- The winner of a round: owner 0 in a reserved round, without a draw, else the lottery's (R203, R206). -/
def Dev.roundWinner (d : Dev) (c inst : Nat) (a : ArbInstance) : Dev × Option Nat :=
  if a.round % 16 = 0 ∧ a.contenders.contains 0 = true then (d, some 0)
  else
    let r := d.lottery c inst a.contenders none
    ((a.contenders.filter fun o => decide (some o ≠ r.2.map (·.1))).foldl (fun e o => e.event o 0x06) r.1, r.2.map (·.1))

/-- ARBITRATION_ROUND: a round of an instance at which a request waits; accepts says whether the instance can accept the winner. -/
def Dev.arbitrate (d : Dev) (c inst : Nat) (accepts : Bool) : Dev :=
  if c < 8 ∧ inst < classInstances c then
    let a0 := d.arbiters.get ArbInstance.reset (1024 * c + inst)
    let a := { a0 with waiting := markFirst a0.round [] a0.waiting }
    let r := d.roundWinner c inst a
    match r.2 with
    | none => d
    | some o =>
      if accepts then r.1.grantRequest c inst o a
      else { r.1.event o 0x07 with arbiters := r.1.arbiters.set (1024 * c + inst) { a with round := a.round + 1 } }
  else d

/-- A request of an owner that is there arrives at an instance (R203, R205). -/
def Dev.requestAt (d : Dev) (c inst o : Nat) : Dev :=
  if c < 8 ∧ inst < classInstances c ∧ o < 64 ∧ (d.ownerAt o).live = true then
    let a := d.arbiters.get ArbInstance.reset (1024 * c + inst)
    { d with arbiters := d.arbiters.set (1024 * c + inst) { a with waiting := a.waiting ++ [{ owner := o, first := none }] } }
  else d

/-- Requests of an owner that wait at an instance. -/
def Dev.waitingAt (d : Dev) (c inst o : Nat) : Nat :=
  ((d.arbiters.get ArbInstance.reset (1024 * c + inst)).waiting.filter fun r => decide (r.owner = o)).length

/-- Rounds of an instance until no more than a number of an owner's requests wait; n bounds them. -/
def Dev.roundsUntil (c inst o goal : Nat) : Nat → Dev → Dev
  | 0, d => d
  | n + 1, d => if d.waitingAt c inst o ≤ goal then d else Dev.roundsUntil c inst o goal n (d.arbitrate c inst true)

/-- What an agent of an owner moves through an instance: its request arrives, and the rounds follow in which it and what is before it are
granted (R202, R203). The wait is collapsed, as every wait for the device's own progress is (log 7); each round grants one request, so
there are as many rounds as requests at most. -/
def Dev.ask (d : Dev) (c inst o : Nat) : Dev :=
  let e := d.requestAt c inst o
  Dev.roundsUntil c inst o (d.waitingAt c inst o) ((e.arbiters.get ArbInstance.reset (1024 * c + inst)).waiting.length) e

/-- Several requests in a row: the bursts or beats of one transfer (R202). -/
def Dev.askTimes (d : Dev) (c inst o : Nat) : Nat → Dev
  | 0 => d
  | n + 1 => (d.ask c inst o).askTimes c inst o n

/-- Sectors of a block of a line moved between an MSC slice and its channel, one request for each burst (R202). -/
def Dev.moveSectors (d : Dev) (stack line : Nat) (m : BitVec 16) (by' : Nat) : Dev :=
  d.askTimes 3 (32 * stack + homeChannel (512 * line)) by' (burstsOf m)

/-- A block placed; the bytes of the victim that HBM lacks are written back first (R195). The requests of the write-back are those of the
owner whose access evicts (DESIGN CHOICE, log 19). -/
def Dev.allocate (d : Dev) (stack o line : Nat) (valid dirty : BitVec 16) (by' : Nat) : Dev :=
  let e := match d.victimOf stack o line with
    | none => d
    | some b => d.moveSectors stack b.line b.dirty by'
  e.placeBlock stack o line valid dirty

/-- A lookup of n bytes of one grain at their home MSC slice for a requesting owner, which allocates on a miss (R194, R195), moves an old
block (R199) and fills the sectors that the block lacks (R143); those of the bytes that it writes, an address and a length, are left to be
written back. It is one request at the MSC port, and one at the channel for each burst (R201, R202). -/
def Dev.mscAccess (d : Dev) (pa n : Nat) (by' : Nat := d.owner) (written : Option (Nat × Nat) := none) : Dev :=
  let stack := homeStack pa
  let o := d.frameOwner pa
  let line := lineOf pa
  let m := sectorsOf pa n
  let w : BitVec 16 := match written with
    | none => 0
    | some x => sectorsOf x.1 x.2
  let e := d.ask 2 stack by'
  match e.findBlock stack o line with
  | some b =>
    let missing := m &&& ~~~ b.valid
    let f := if missing = 0 then e else (e.moveSectors stack line missing by').event o 0x03
    let x := { b with valid := b.valid ||| m, dirty := b.dirty ||| w }
    if b.parity ≠ (f.ownerAt o).parity then (f.dropBlock stack b).allocate stack o line x.valid x.dirty by'
    else if x = b then f
    else f.replaceBlock stack b x
  | none => ((e.moveSectors stack line m by').event o 0x03).allocate stack o line m w by'

-- Units in service (R19, R422, R423).

/-- A unit of this part (R11, R201, R422). -/
def unitExists : DevUnit → Bool
  | .port n => decide (n < 12)
  | .link n => decide (n < 6)
  | .channel s c => decide (s < 8) && decide (c < 32)
  | .cluster n => decide (n < 32)
  | .galley n | .control n => decide (n < 4)

/-- A unit is out of service (R19). -/
def Dev.isOut (d : Dev) (u : DevUnit) : Bool :=
  match u with
  | .channel s c => d.mem.retired.contains (s, c)
  | .cluster n => d.clusters[Fin.ofNat 32 n].retired
  | .port _ | .link _ | .galley _ | .control _ => d.host.outOfService.contains u

/-- A port that has reported and is in service (R19, R422). -/
def Dev.portUsable (d : Dev) (n : Nat) : Bool :=
  unitExists (.port n) && !d.isOut (.port n) && !d.host.unreported.contains (.port n)

/-- A port that is up: in SLEEP, one port of each die; which one it is is the model's choice, the lowest usable one (R423; log 18). -/
def Dev.portUp (d : Dev) (n : Nat) : Bool :=
  d.host.powered && d.portUsable n
    && (decide (d.host.power ≠ .sleep)
        || decide ((List.range 3).find? (fun i => d.portUsable (n / 3 * 3 + i)) = some (n % 3)))

/-- The clusters are clocked (R423), and the power is on (R424). -/
def Dev.clocked (d : Dev) : Bool := d.host.powered && (decide (d.host.power = .active) || decide (d.host.power = .capped))

-- Ports (R415, R416).

/-- The port at which a packet to an endpoint leaves: of the ports that are in service the one that a free value names, since the spec does not
say which leads where (R415, R422; log 19). -/
def Dev.portTo (d : Dev) (endpoint : Nat) : Option Nat :=
  let up := (List.range (classInstances 5)).filter d.portUp
  up[Config.portOf endpoint % up.length]?

/-- A packet to another device leaves at a port to the endpoint that the pod table gives: one beat, and for bytes that it carries one for each 64
(R202, R416; log 19). -/
def Dev.egress (d : Dev) (dev : BitVec 12) (by' : Nat) (bytes : Nat := 0) : Dev :=
  match d.host.podTable.find? fun x => decide (x.1 = dev) with
  | none => d
  | some p =>
    match d.portTo p.2 with
    | none => d
    | some n => d.askTimes 5 n by' (max 1 (ceilDiv' bytes 64))

-- Links between dies (R10, R22).

/-- The instance of class 1 for the direction of the link from a die to another: two for each pair of dies, numbered as the pairs are (log 18). -/
def linkPort (a b : Nat) : Nat :=
  let x := min a b
  let y := max a b
  2 * ((if x = 0 then 0 else if x = 1 then 2 else 3) + y - 1) + if a < b then 0 else 1

/-- A packet of at most 512 bytes from one die to another is granted by the link between the two (R10, R201, R202). -/
def Dev.crossDies (d : Dev) (a b by' : Nat) : Dev := if a = b then d else d.ask 1 (linkPort a b) by'

/-- An access to n bytes of one grain, for a cluster of a die where one makes it, asks where its home is, and what it writes of it: at the MSC
slice here, or at the port to the device that has it. To a home on another die and back it is one packet each way (DESIGN CHOICE,
log 19). -/
def Dev.lookup (d : Dev) (dev : Option (BitVec 12)) (pa n : Nat) (by' : Nat := d.owner) (written : Option (Nat × Nat) := none)
    (die : Option Nat := some (d.cluster.val / 8)) : Dev :=
  match dev with
  | none =>
    let home := homeStack pa / 2
    let a := die.getD home
    ((d.crossDies a home by').mscAccess pa n by' written).crossDies home a by'
  | some x => d.egress x by' ((written.map (·.2)).getD 0)

end Sys2Proof.Machine
end

