-- ==== Sys2Proof/Machine/Commit.lean ====
section
/-! DEFINITION. What a home holds: committed bytes, uncorrectable errors, and reductions with their combining (R95, R98, R133, R145,
R173, R174, R176). -/
namespace Sys2Proof.Machine

def Dev.setMem (d : Dev) (m : MemState) : Dev := { d with mem := m }

/-- The pod-global address of a byte of another device (R133). -/
def podAddr (dev : BitVec 12) (pa : Nat) : Nat := dev.toNat * 2 ^ 48 + pa

/-- Committed bytes at a home: of the local HBM, or of another device (R133). -/
def Dev.homeRead (d : Dev) (dev : Option (BitVec 12)) (pa n : Nat) : List Byte :=
  match dev with
  | none => d.mem.hbm.read pa n
  | some x => d.mem.pod.read (podAddr x pa) n

/-- Two ranges of bytes overlap. -/
def overlap (a n b m : Nat) : Bool := decide (a < b + m) && decide (b < a + n)

/-- Bytes bs at address a, seen through a range of n bytes from b that holds old. -/
def patch (old : List Byte) (b a : Nat) (bs : List Byte) : List Byte :=
  old.mapIdx fun i x => if a ≤ b + i ∧ b + i < a + bs.length then bs.getD (b + i - a) x else x

/-- A copy after the home has committed bytes: the copies that the home tracks, and for another device's memory the storing cluster's own
(R58, R64, R145). A cell copy takes no update (R406). -/
def SliceCopy.commit (c : SliceCopy) (dev : Option (BitVec 12)) (from' : Option Nat) (pa : Nat) (bs : List Byte) : SliceCopy :=
  if decide (c.dev = dev) && !c.cell && (c.tracked || (dev.isSome && decide (some c.cluster = from'))) && overlap c.base c.size pa bs.length then
    { c with bytes := patch c.bytes c.base pa bs }
  else c

/-- The home commits bytes: they are in memory and in every copy that it tracks (R145). -/
def Dev.homeWrite (d : Dev) (dev : Option (BitVec 12)) (from' : Option Nat) (pa : Nat) (bs : List Byte) : Dev :=
  d.setMem
    { d.mem with
      hbm := if dev.isNone then d.mem.hbm.write pa bs else d.mem.hbm
      pod := match dev with
        | none => d.mem.pod
        | some x => d.mem.pod.write (podAddr x pa) bs
      copies := d.mem.copies.map fun c => c.commit dev from' pa bs }

-- Uncorrectable errors (R95, R98, R164; log 5).

/-- The structure that reports an uncorrectable error on an access to a range, if one does (R95). -/
def Dev.badAt (d : Dev) (dev : Option (BitVec 12)) (pa n : Nat) : Option (BitVec 3) :=
  (d.mem.bad.find? fun b => decide (b.dev = dev) && overlap (64 * b.unit) 64 pa n).map (·.place)

/-- A failure recorded, or marked as lost on the newest record when every one is in use. -/
def addUncorr (x : Uncorr) (l : List Uncorr) : List Uncorr :=
  if l.length < Config.uncorrRecords then l ++ [x] else l.dropLast ++ (l.getLast?.map fun y => { y with lost := true }).toList

/-- UNCORR_RECORD: place is a structure of R95. -/
def Dev.recordUncorr (d : Dev) (core : Nat) (faddr : Word) (place : BitVec 3) : Dev :=
  if coreExists core && decide (place.toNat ≤ 5) then
    let c := d.coreAt core
    d.setCore { c with uncorr := addUncorr { faddr := faddr, place := place, lost := false } c.uncorr }
  else d

-- Reductions (R173, R174, R176).

/-- The new value of an integer reduction (R173). -/
def redInt (op : RedOp) (signed : Bool) (n : Nat) (old x : Nat) : Nat :=
  let w := 8 * n
  match op with
  | .add => (old + x) % 2 ^ w
  | .and => old &&& x
  | .or => old ||| x
  | .xor => old ^^^ x
  | .min => if signed then (if twos' w x < twos' w old then x else old) else min old x
  | .max => if signed then (if twos' w old < twos' w x then x else old) else max old x
where
  /-- A number read as a two's complement integer. -/
  twos' (w x : Nat) : Int := if x ≥ 2 ^ (w - 1) then (x : Int) - 2 ^ w else x

/-- A read-modify-write of one reduction, FP32 additions rounded by RNE (R173, R175). -/
def redStep (op : RedOp) (ty : Ty) (old x : Nat) : Nat :=
  if ty = .f32 then
    match op with
    | .add => (Fmt.f32.fadd .rne old x).1
    | .min => (Fmt.f32.fmin old x).1
    | .max => (Fmt.f32.fmax old x).1
    | .and | .or | .xor => old
  else redInt op (tySigned ty) (ty.bits / 8) old x

/-- The exact sum of FP32 values rounded once (R176). -/
def exactSum (xs : List Nat) : Nat :=
  let vs := xs.map Fmt.f32.decode
  if vs.any FVal.isNaN then Fmt.f32.qnan
  else
    let pos := vs.any fun v => decide (v = .inf false)
    let neg := vs.any fun v => decide (v = .inf true)
    if pos && neg then Fmt.f32.qnan
    else if pos then Fmt.f32.infCode false
    else if neg then Fmt.f32.infCode true
    else
      match vs with
      | [] => 0
      | v :: t =>
        (Fmt.f32.round .rne (t.foldl (fun acc w => acc.add .rne (match w with | .fin x => x | .inf _ | .nan _ => acc))
          (match v with | .fin x => x | .inf _ | .nan _ => { neg := false, num := 0, den := 1 }))).1

/-- A contribution is an FP32 addition without .arr. -/
def redIsExact (r : RedRequest) : Bool := decide (r.ty = .f32) && decide (r.op = .add) && !r.arr
def redIsArrival (r : RedRequest) : Bool := decide (r.ty = .f32) && decide (r.op = .add) && r.arr

/-- The word that the contributions to it leave, from the stored word (R174, R176). Contributions of different operations to one
word are folded in the order of acceptance, then the exact sum, then the arrival-order
partials that the home keeps, then those of each slice (log 10). DESIGN CHOICE (log 10): R175 does not say how contributions in arrival order
associate at a remote home; those of this device's clusters are grouped by cluster, and another device's are added singly. -/
def foldWord (old : Nat) (ps : List PartialRec) : Nat :=
  let others := ps.filter fun p => !redIsExact p.request && !redIsArrival p.request
  let a := others.foldl (fun x p => redStep p.request.op p.request.ty x (p.request.value.toNat % 2 ^ p.request.ty.bits)) old
  let exacts := (ps.filter fun p => redIsExact p.request).map fun p => p.request.value.toNat % 2 ^ 32
  let b := if exacts.isEmpty then a else exactSum (a :: exacts)
  let arrivals := ps.filter fun p => redIsArrival p.request
  let slices := (arrivals.map fun p => p.cluster).eraseDups.filter fun k => k.isSome
  let kept := arrivals.filter fun p => p.cluster.isNone
  slices.foldl (fun x k =>
    let mine := (arrivals.filter fun p => decide (p.cluster = k)).map fun p => p.request.value.toNat % 2 ^ 32
    match mine with
    | [] => x
    | v :: t => (Fmt.f32.fadd .rne x (t.foldl (fun y z => (Fmt.f32.fadd .rne y z).1) v)).1)
    (kept.foldl (fun x p => (Fmt.f32.fadd .rne x (p.request.value.toNat % 2 ^ 32)).1) b)

/-- The partials that belong to the grain of an address. -/
def PartialRec.inGrain (p : PartialRec) (dev : Option (BitVec 12)) (base n : Nat) : Bool :=
  decide (p.dev = dev) && overlap base n p.request.pa (p.request.ty.bits / 8)

/-- A combine: every partial of the words in a range is folded into memory, and the result is committed (R174). -/
def Dev.combine (d : Dev) (dev : Option (BitVec 12)) (pa n : Nat) : Dev :=
  let mine := d.mem.partials.filter fun p => p.inGrain dev pa n
  if mine.isEmpty then d
  else
    let words := (mine.map fun p => (p.request.pa, p.request.ty.bits / 8)).eraseDups
    words.foldl (fun e w =>
      let ps := mine.filter fun p => decide ((p.request.pa, p.request.ty.bits / 8) = w)
      match e.badAt dev w.1 w.2 with
      | some place => ps.foldl (fun f p => f.recordUncorr p.core p.request.va place) e
      | none => e.homeWrite dev none w.1 (leBytes w.2 (foldWord (leNat (e.homeRead dev w.1 w.2)) ps)))
      (d.setMem { d.mem with partials := d.mem.partials.filter fun p => !p.inGrain dev pa n })

end Sys2Proof.Machine
end

