-- ==== Sys2Proof/Machine/Translate.lean ====
section
/-! DEFINITION. Translation of virtual addresses (R134, R149 to R153) and its checks (R152). -/
namespace Sys2Proof.Machine

/-- What an access is, for the checks of R152. -/
inductive AccessKind where
  | load | store | fetch
  deriving DecidableEq, Repr

/-- Bits [4] store and [5] fetch of FINFO (R95). -/
def AccessKind.finfo : AccessKind → Word
  | .load => 0
  | .store => 0x10
  | .fetch => 0x20

-- The fields of a page table entry (R150).
def pteV (e : Word) : Bool := bit e 0
def pteLeaf (e : Word) : Bool := bit e 1
def pteW (e : Word) : Bool := bit e 2
def pteX (e : Word) : Bool := bit e 3
def pteUsr (e : Word) : Bool := bit e 4
def pteCow (e : Word) : Bool := bit e 5
def pteMig (e : Word) : Bool := bit e 6
def pteDec (e : Word) : Bool := bit e 7
def pteGrain (e : Word) : Nat := bits e 9 8
def pteSl (e : Word) : Bool := bit e 10
def pteRmt (e : Word) : Bool := bit e 11
def pteAddr (e : Word) : Nat := bits e 47 12 * 4096
def pteDev (e : Word) : BitVec 12 := e.extractLsb' 48 12
def pteSize (e : Word) : Nat := bits e 63 60
/-- The bytes of the page that a leaf maps (R150). -/
def pageBytes (e : Word) : Nat := 4096 * 2 ^ pteSize e
/-- The bytes of a grain (R143, R150). -/
def grainBytes (e : Word) : Nat := if pteGrain e = 0 then 32 else if pteGrain e = 1 then 128 else 512

/-- Whether n bytes at an address hold a granule of a retired channel (R131, R132). n is a power of two, at least 4096, and the
address a multiple of it. -/
def Dev.touchesRetired (d : Dev) (pa n : Nat) : Bool :=
  d.mem.retired.any fun sc =>
    let low := sc.2 * 8 + (sc.1 ^^^ (sc.2 % 8))
    let span := n / 4096
    if span ≥ 256 then true else decide (low / span = (pa / 4096) % 256 / span)

/-- A range lies wholly in HBM (R131). -/
def inHbm (pa n : Nat) : Bool := decide (pa + n ≤ Config.hbmEnd)

/-- Levels of the walk: the index into a table (R149). -/
def walkIndex (va : Word) (level : Nat) : Nat :=
  match level with
  | 1 => bits va 56 45
  | 2 => bits va 44 34
  | 3 => bits va 33 23
  | _ => bits va 22 12

/-- An entry that is a valid leaf at its level (R131, R151). -/
def Dev.leafOk (d : Dev) (e : Word) (level : Nat) : Bool :=
  let k := pteSize e
  (if level = 3 then decide (11 ≤ k ∧ k ≤ 15) else decide (level = 4 ∧ k ≤ 11))
    && decide (pteAddr e % pageBytes e = 0) && decide (pteGrain e ≠ 3) && (!pteDec e || decide (pteGrain e = 0))
    && (if pteRmt e then decide (pteDev e ≠ d.deviceId)
        else decide (pteDev e = 0) && inHbm (pteAddr e) (pageBytes e) && !d.touchesRetired (pteAddr e) (pageBytes e))

/-- An entry that is a valid non-leaf at its level (R149 to R151). -/
def Dev.nonLeafOk (d : Dev) (e : Word) (level : Nat) : Bool :=
  decide (level < 4) && decide (bits e 11 2 = 0) && decide (pteSize e = 0) && decide (pteDev e = 0)
    && decide (pteAddr e % 16384 = 0) && inHbm (pteAddr e) 16384 && !d.touchesRetired (pteAddr e) 16384

/-- The result of a walk: a leaf with its level, or the level that failed. -/
inductive Walk where
  | leaf (e : Word) (level : Nat)
  | fails (level : Nat)
  deriving DecidableEq, Repr

/-- An entry of a table as a walk reads it at its home: the read starts a combine of its grain, which in a table is taken as 32 bytes (R154,
R174; log 11). -/
def Dev.entryAt (d : Dev) (a : Nat) : Word := BitVec.ofNat 64 (leNat ((d.combine none (a / 32 * 32) 32).homeRead none a 8))

/-- A walk from a table; each level is read at its home (R154). -/
def Dev.walkFrom (d : Dev) (va : Word) : Nat → Nat → Nat → Walk
  | 0, _, level => .fails level
  | n + 1, table, level =>
    let e := d.entryAt (table + 8 * walkIndex va level)
    if !pteV e then .fails level
    else if pteLeaf e then (if d.leafOk e level then .leaf e level else .fails level)
    else if d.nonLeafOk e level then d.walkFrom va n (pteAddr e) (level + 1)
    else .fails level

/-- The walk of an owner's table (R149). Before the compositor has installed a root, nothing is mapped (log 2). -/
def Dev.walk (d : Dev) (owner : Nat) (va : Word) : Walk :=
  match (d.ownerAt owner).root with
  | none => .fails 1
  | some root => d.walkFrom va 4 root 1

/-- The entry of a cluster's translation cache for an address, if there is one (R153, R159). -/
def Dev.tlbEntry (d : Dev) (k : Fin 32) (owner : Nat) (va : Word) : Option TlbEntry :=
  (d.clusters[k].tlb).find? fun t =>
    decide (t.owner = owner) && decide (t.gen = d.clusters[k].gen) && decide (t.va ≤ va.toNat) && decide (va.toNat < t.va + t.size)

/-- The cached leaf for an address in a cluster. -/
def Dev.tlbLookup (d : Dev) (k : Fin 32) (owner : Nat) (va : Word) : Option Word := (d.tlbEntry k owner va).map (·.leaf)

/-- The leaf that an access uses: a cached one, or the walk's (R153). A page of the local device that holds a granule of a channel
retired since is no valid leaf (R131, R164). -/
def Dev.leafFor (d : Dev) (k : Fin 32) (owner : Nat) (va : Word) : Walk :=
  match d.tlbEntry k owner va with
  | some t =>
    if !pteRmt t.leaf && d.touchesRetired (pteAddr t.leaf) (pageBytes t.leaf) then .fails t.level else .leaf t.leaf t.level
  | none => d.walk owner va

/-- An address is canonical (R134). -/
def canonical (va : Word) : Bool := decide (bits va 63 56 = 0) || decide (bits va 63 56 = 255)

/-- What the checks of R152 answer. -/
inductive Xlat where
  /-- The leaf, and the physical address on the device that it names. -/
  | ok (leaf : Word) (pa : Nat)
  /-- The page is migrating (R156). -/
  | held
  /-- The translation cache misses, and a walk finds a leaf (R154). -/
  | miss
  /-- The cause code and FINFO. -/
  | fault (code : BitVec 6) (finfo : Word)
  deriving DecidableEq, Repr

/-- The physical address of a virtual address under a leaf (R150). -/
def leafPa (e : Word) (va : Word) : Nat := pteAddr e + va.toNat % pageBytes e

/-- The checks on a leaf: R152 from step 3. -/
def leafCheck (e : Word) (level : Level) (kind : AccessKind) (va : Word) : Xlat :=
  if pteMig e then .held
  else if decide (level = .user) && !pteUsr e then .fault 0x05 (kind.finfo ||| 2)
  else if decide (kind = .fetch) && !pteX e then .fault 0x05 (kind.finfo ||| 3)
  else if decide (kind = .store) && !pteW e then .fault 0x05 (kind.finfo ||| (if pteCow e then 1 else 0))
  else if decide (kind = .store) && pteSl e then .fault 0x06 (0x10 ||| zext (BitVec.ofNat 12 (pteSize e * 256)))
  else .ok e (leafPa e va)

/-- The checks of R152 in their order under the leaf that is in force; agents other than a core's own accesses make no walk step of
theirs visible. -/
def Dev.translateNow (d : Dev) (k : Fin 32) (owner : Nat) (level : Level) (kind : AccessKind) (va : Word) : Xlat :=
  if !canonical va then .fault 0x04 (kind.finfo ||| 0x40)
  else
    match d.leafFor k owner va with
    | .fails n => .fault 0x04 (kind.finfo ||| BitVec.ofNat 64 n)
    | .leaf e _ => leafCheck e level kind va

/-- The checks of R152 for an access of a core: where the translation cache holds no leaf and the table has one, a walk comes first
(R153, R154). -/
def Dev.translate (d : Dev) (k : Fin 32) (owner : Nat) (level : Level) (kind : AccessKind) (va : Word) : Xlat :=
  match d.translateNow k owner level kind va with
  | .fault c fi => if c = 0x04 ∨ (d.tlbLookup k owner va).isSome = true then .fault c fi else .miss
  | .ok e pa => if (d.tlbLookup k owner va).isSome then .ok e pa else .miss
  | .held => if (d.tlbLookup k owner va).isSome then .held else .miss
  | .miss => .miss

/-- The home of a leaf's page: the local device, or another one (R133, R150). -/
def leafDev (e : Word) : Option (BitVec 12) := if pteRmt e then some (pteDev e) else none

-- The cluster-local window (R135).

/-- The base of the range that is never translated (R135). -/
def clwBase : Nat := 0x00FFFF0000000000
/-- An address of that range. -/
def inLocalRange (va : Word) : Bool := decide (bits va 63 40 = 0xFFFF)
/-- An address of the window itself. -/
def inWindow (va : Word) : Bool := decide (bits va 63 28 = 0xFFFF000)
def winCore (va : Word) : Nat := bits va 27 21
def winOf (va : Word) : Nat := bits va 20 18
def winByte (va : Word) : Nat := bits va 17 0

end Sys2Proof.Machine
end

