-- ==== Sys2Proof/Machine/Home.lean ====
section
/-! DEFINITION. Homes, slices and L1s: the coherence order of stores, the copies that caches keep, walks, loads and accepted reductions
(R55, R58, R142 to R148, R153, R154, R174). A wait for the memory system's own progress is collapsed: the step that waits performs the
steps that it waits for (log 7). -/
namespace Sys2Proof.Machine

-- Stores (R145, R146).

/-- The base of the grain that holds an address. -/
def grainBase (pa n : Nat) : Nat := pa / n * n

/-- Two stores are to one grain. -/
def StoreRec.sameGrain (a b : StoreRec) : Bool :=
  decide (a.dev = b.dev) && decide (grainBase a.pa a.grain = grainBase b.pa a.grain)

/-- A message for a store is still on its way to a slice: an update, or a commit. -/
def StoreRec.messageTo (r : StoreRec) (k : Nat) : Bool :=
  match r.phase with
  | .sent => false
  | .placed unacked _ => unacked.contains k
  | .committed pending => pending.contains k

def StoreRec.isSent (r : StoreRec) : Bool :=
  match r.phase with
  | .sent => true
  | .placed _ _ => false
  | .committed _ => false

/-- A store that the home has placed and not committed. -/
def StoreRec.isUncommitted (r : StoreRec) : Bool :=
  match r.phase with
  | .sent => false
  | .placed _ _ => true
  | .committed _ => false

/-- The sharer slices of a store's grain, other than its own (R144). -/
def Dev.sharers (d : Dev) (r : StoreRec) : List Nat :=
  if r.dev.isSome then []
  else
    ((d.mem.copies.filter fun c =>
      c.tracked && c.dev.isNone && decide (c.cluster ≠ r.cluster) && overlap c.base c.size (grainBase r.pa r.grain) r.grain).map (·.cluster)).eraseDups

/-- The slice of a cluster holds an unacknowledged store of its own to every byte of another (R146). -/
def Dev.ownCovers (d : Dev) (k : Nat) (r : StoreRec) : Bool :=
  (List.range r.bytes.length).all fun i =>
    d.mem.stores.any fun x =>
      decide (x.cluster = k) && decide (x.dev = r.dev) && (x.isSent || x.isUncommitted)
        && decide (x.pa ≤ r.pa + i) && decide (r.pa + i < x.pa + x.bytes.length)

/-- The phase of a store once a slice has received the home's next message for it: its update, pending there but for bytes that the
slice's own store covers, and acknowledged; or its commit (R145, R146). -/
def StoreRec.heard (r : StoreRec) (covered : Bool) (k : Nat) : StorePhase :=
  match r.phase with
  | .sent => .sent
  | .placed unacked pending =>
    if unacked.contains k then .placed (unacked.filter fun j => decide (j ≠ k)) (if covered then pending else pending ++ [k])
    else .placed unacked pending
  | .committed pending => .committed (pending.filter fun j => decide (j ≠ k))

/-- The last commit message of a store has been received. -/
def StoreRec.isDone (r : StoreRec) : Bool := decide (r.phase = .committed [])

/-- A slice has received every message that the home of an address sent it before some place in the order of its messages (R146). -/
def Dev.hearAll (d : Dev) (k pa before : Nat) : Dev :=
  if !d.mem.stores.any fun r => r.messageTo k then d
  else
    d.setMem { d.mem with
      stores := (d.mem.stores.map fun r =>
        if decide (homeStack r.pa = homeStack pa) && decide (r.order < before) then { r with phase := r.heard (d.ownCovers k r) k } else r).filter
          fun r => !r.isDone }

/-- The slices that the messages of a store which commits now go to, each with what its home sent it before (R146). -/
def Dev.beforeCommit (d : Dev) (r : StoreRec) : Dev :=
  match r.phase with
  | .sent => (d.sharers r).foldl (fun e k => e.hearAll k r.pa e.mem.nextOrder) d
  | .placed unacked pending => (unacked ++ pending).foldl (fun e k => e.hearAll k r.pa e.mem.nextOrder) d
  | .committed pending => pending.foldl (fun e k => e.hearAll k r.pa r.order) d

/-- The bytes of a store committed; in a unit with an uncorrectable error they are lost, and its core hears of it (R98, R164). -/
def Dev.homeCommit (d : Dev) (r : StoreRec) : Dev :=
  match d.badAt r.dev r.pa r.bytes.length with
  | some place => d.recordUncorr r.core r.va place
  | none => d.homeWrite r.dev (some r.cluster) r.pa r.bytes

/-- A store finds its grain at the home (R143, R174, R195): the partials are combined, and the grain is looked up in the MSC, to be written
there. -/
def Dev.storeLookup (d : Dev) (r : StoreRec) : Dev :=
  (d.combine r.dev (grainBase r.pa r.grain) r.grain).lookup r.dev (grainBase r.pa r.grain) r.grain r.owner (some (r.pa, r.bytes.length)) (some (r.cluster / 8))

/-- The commit of one store at its home: combine, memory and tracked copies, and the record is done (R145, R174). A store that the home has
placed has had its lookup in the MSC, and makes none at its commit. -/
def Dev.commitStore (d : Dev) (r : StoreRec) : Dev :=
  let e := d.beforeCommit r
  let d0 := e.setMem { e.mem with stores := e.mem.stores.filter fun x => decide (x.id ≠ r.id) }
  match r.phase with
  | .committed _ => d0
  | .placed _ _ => (d0.combine r.dev (grainBase r.pa r.grain) r.grain).homeCommit r
  | .sent => (d0.storeLookup r).homeCommit r

/-- Stores that the home has placed come before those still on their way (R146). -/
def StoreRec.isPlaced (r : StoreRec) : Bool :=
  match r.phase with
  | .sent => false
  | .placed _ _ => true
  | .committed _ => true

/-- Every store that satisfies a condition is committed, and before it every store to its grain that precedes it in coherence
order: the placed one, and its own cluster's earlier ones (R55, R145, R146). -/
def Dev.commitWhere (d : Dev) (p : StoreRec → Bool) : Dev :=
  let wanted := d.mem.stores.filter p
  let before (r : StoreRec) : Bool := wanted.any fun w =>
    r.sameGrain w && (r.isPlaced || (decide (r.cluster = w.cluster) && decide (r.id ≤ w.id)))
  let todo := d.mem.stores.filter before
  ((todo.filter fun r => r.isPlaced) ++ (todo.filter fun r => !r.isPlaced)).foldl Dev.commitStore d

/-- Every store to a range of a home has committed. -/
def Dev.settleRange (d : Dev) (dev : Option (BitVec 12)) (pa n : Nat) : Dev :=
  d.commitWhere fun r => decide (r.dev = dev) && overlap pa n r.pa r.bytes.length

/-- A grain at its home as an access finds it: earlier stores to it are committed, and partials are combined (R144, R148, R174). -/
def Dev.gathered (d : Dev) (dev : Option (BitVec 12)) (pa grain : Nat) : Dev :=
  let b := grainBase pa grain
  (d.settleRange dev b grain).combine dev b grain

/-- An access at the home to a grain: it is gathered, and its block is looked up in the MSC, with the bytes that the access writes (R195). -/
def Dev.atHome (d : Dev) (dev : Option (BitVec 12)) (pa grain : Nat) (by' : Nat := d.owner) (written : Option (Nat × Nat) := none)
    (die : Option Nat := some (d.cluster.val / 8)) : Dev :=
  (d.gathered dev pa grain).lookup dev (grainBase pa grain) grain by' written die

/-- The slices whose copies the home records of a range. -/
def Dev.recordedAt (d : Dev) (pa n : Nat) : List Nat :=
  ((d.mem.copies.filter fun c => c.tracked && c.dev.isNone && overlap c.base c.size pa n).map (·.cluster)).eraseDups

/-- Bytes that the home writes by itself, for an atomic, a region or another device: the sharers of the grain hear them behind its earlier
messages (R145, R146). -/
def Dev.homeUpdate (d : Dev) (dev : Option (BitVec 12)) (from' : Option Nat) (pa : Nat) (bs : List Byte) : Dev :=
  (if dev.isSome then d else (d.recordedAt pa bs.length).foldl (fun e k => e.hearAll k pa e.mem.nextOrder) d).homeWrite dev from' pa bs

/-- The copies that a cluster's caches hold of a grain of another device are given up: its home has been read, and no later load of the
cluster may return an older value (R55, R64). -/
def Dev.forgetRemote (d : Dev) (k : Fin 32) (dev : Option (BitVec 12)) (pa grain : Nat) : Dev :=
  if dev.isNone then d
  else
    d.setMem { d.mem with copies := d.mem.copies.filter fun c =>
      !(decide (c.cluster = k.val) && decide (c.dev = dev) && !c.cell && overlap c.base c.size (grainBase pa grain) grain) }

/-- The waiting of a release at a scope (R60, R64): the cluster's stores have been acknowledged. Whether a release at .die or .dev waits
for earlier stores to another device too the spec leaves open, since R60 names every earlier access and R64 only .pod: here it does not
(DESIGN CHOICE, log 11). -/
def Dev.awaitAcks (d : Dev) (k : Fin 32) (scope : MemScope) : Dev :=
  match scope with
  | .core | .cl => d
  | .die | .dev => d.commitWhere fun r => decide (r.cluster = k.val) && r.dev.isNone
  | .pod => d.commitWhere fun r => decide (r.cluster = k.val)

-- Caches (R142, R143, R147).

/-- Two copies lie in one cache. -/
def SliceCopy.sameCache (a b : SliceCopy) : Bool :=
  decide (a.cluster = b.cluster) && decide (a.core = b.core) && decide (a.code = b.code)
/-- The block of 512 bytes that a copy is part of (R143). -/
def SliceCopy.block (c : SliceCopy) : Option (BitVec 12) × Nat := (c.dev, c.base / 512)
/-- The set in which it lies, and the ways of its cache (R142). An instruction cache, whose organisation the spec does not give, has that of
an L1 (DESIGN CHOICE, log 11). -/
def SliceCopy.set (c : SliceCopy) : Nat := c.base / 512 % if c.core.isNone then Config.sliceSets else Config.l1Sets
def SliceCopy.ways (c : SliceCopy) : Nat := if c.core.isNone then Config.sliceWays else Config.l1Ways

/-- A cluster's pending words in a range are forgotten with its copy. -/
def StorePhase.forget (cluster : Nat) : StorePhase → StorePhase
  | .sent => .sent
  | .placed u p => .placed u (p.filter fun k => decide (k ≠ cluster))
  | .committed p => .committed (p.filter fun k => decide (k ≠ cluster))

/-- A copy leaves its cache. With a slice's copy that the home records the cluster's L1s give theirs up: no update would reach them
(R145, R147; log 11). -/
def Dev.dropGrain (d : Dev) (c : SliceCopy) : Dev :=
  let follows (x : SliceCopy) : Bool :=
    c.core.isNone && c.tracked && decide (x.cluster = c.cluster) && x.tracked && decide (x.dev = c.dev) && overlap x.base x.size c.base c.size
  d.setMem { d.mem with
    copies := d.mem.copies.filter fun x => !(decide (x = c) || follows x)
    stores := if c.core.isNone then
        d.mem.stores.map fun r =>
          if decide (r.dev = c.dev) && overlap c.base c.size r.pa r.bytes.length then { r with phase := r.phase.forget c.cluster } else r
      else d.mem.stores }

/-- A block gives way in the set of a copy that comes, where every way holds another: the least recently used (R142). -/
def Dev.makeRoom (d : Dev) (c : SliceCopy) : Dev :=
  let rivals := d.mem.copies.filter fun x => x.sameCache c && decide (x.set = c.set) && decide (x.block ≠ c.block)
  let blocks := (rivals.map fun x => x.block).eraseDups
  if blocks.length < c.ways then d
  else
    match blocks.getLast? with
    | none => d
    | some b => (rivals.filter fun x => decide (x.block = b)).foldl Dev.dropGrain d

/-- A copy enters its cache. -/
def Dev.keepCopy (d : Dev) (c : SliceCopy) : Dev :=
  let e := d.makeRoom c
  e.setMem { e.mem with
    copies := c :: e.mem.copies.filter fun x => !(x.sameCache c && decide (x.dev = c.dev) && overlap x.base x.size c.base c.size) }

/-- The block of a copy is the most recently used of its cache. -/
def Dev.touch (d : Dev) (c : SliceCopy) : Dev :=
  let mine (x : SliceCopy) : Bool := x.sameCache c && decide (x.block = c.block)
  d.setMem { d.mem with copies := d.mem.copies.filter mine ++ d.mem.copies.filter fun x => !mine x }

/-- A copy supplies a range: it covers it under the current generation, and is no cell copy (R159, R399). -/
def Dev.supplies (d : Dev) (c : SliceCopy) (k : Fin 32) (dev : Option (BitVec 12)) (pa n : Nat) : Bool :=
  decide (c.cluster = k.val) && decide (c.dev = dev) && decide (c.gen = d.clusters[k].gen)
    && decide (c.base ≤ pa) && decide (pa + n ≤ c.base + c.size) && !c.cell

/-- The copy of a slice that supplies a range. -/
def Dev.copyFor (d : Dev) (k : Fin 32) (dev : Option (BitVec 12)) (pa n : Nat) : Option SliceCopy :=
  d.mem.copies.find? fun c => c.core.isNone && d.supplies c k dev pa n

/-- The copy of a core's L1 that supplies a range. -/
def Dev.l1For (d : Dev) (k : Fin 32) (core : Option Nat) (dev : Option (BitVec 12)) (pa n : Nat) : Option SliceCopy :=
  d.mem.copies.find? fun c => core.isSome && !c.code && decide (c.core = core) && d.supplies c k dev pa n

/-- The copy of a core's instruction cache that supplies a word. -/
def Dev.codeFor (d : Dev) (k : Fin 32) (core : Nat) (dev : Option (BitVec 12)) (pa : Nat) : Option SliceCopy :=
  d.mem.copies.find? fun c => c.code && decide (c.core = some core) && d.supplies c k dev pa 4

/-- The bytes of a range that a copy holds. -/
def SliceCopy.slice (c : SliceCopy) (pa n : Nat) : List Byte := (c.bytes.drop (pa - c.base)).take n

/-- A grain enters the slice of a cluster, and the L1 of a core if it is for one: sealed grains, cells and remote copies are not recorded by
the home (R143, R144, R157, R406). -/
def Dev.keepGrain (d : Dev) (k : Fin 32) (core : Option Nat) (dev : Option (BitVec 12)) (b grain : Nat) (tracked cell : Bool) : Dev :=
  let c : SliceCopy :=
    { cluster := k.val, core := none, code := false, owner := d.clusters[k].owner, dev := dev, base := b, size := grain, gen := d.clusters[k].gen
      tracked := tracked && dev.isNone, cell := cell, bytes := d.homeRead dev b grain }
  let e := d.keepCopy c
  if core.isSome then e.keepCopy { c with core := core } else e

/-- A miss of a slice at the home: the home combines and returns the whole grain behind its earlier messages, which the slice keeps, and the L1
of the core for which it is (R143, R144, R146, R174). A grain with an uncorrectable error is not kept (log 5). -/
def Dev.fillGrain (d : Dev) (k : Fin 32) (core : Option Nat) (dev : Option (BitVec 12)) (pa grain : Nat) (tracked cell : Bool) : Dev :=
  let b := grainBase pa grain
  let d1 := (d.combine dev b grain).lookup dev b grain d.clusters[k].owner none (some (k.val / 8))
  let d2 := if dev.isNone then d1.hearAll k.val b d1.mem.nextOrder else d1
  if (d2.badAt dev b grain).isSome then d2 else d2.keepGrain k core dev b grain tracked cell

/-- A read through a core's L1, if it has one, and the slice of its cluster (R142 to R144, R343). -/
def Dev.cacheRead (d : Dev) (k : Fin 32) (core : Option Nat) (dev : Option (BitVec 12)) (pa grain n : Nat) (tracked : Bool) : List Byte × Dev :=
  match d.l1For k core dev pa n with
  | some c => (c.slice pa n, d.touch c)
  | none =>
    let d0 := if core.isSome then d.event d.clusters[k].owner 0x01 else d
    match d0.copyFor k dev pa n with
    | some c => (c.slice pa n, if core.isSome then (d0.touch c).keepCopy { c with core := core } else d0.touch c)
    | none =>
      let d1 := (d0.event d0.clusters[k].owner 0x02).fillGrain k core dev pa grain tracked false
      (d1.homeRead dev pa n, d1)

-- Walks (R153, R154).

/-- The entries that a walk reads at their homes: each is one step of a walker of the cluster's die, in the system class (R154, R193, R201);
what the compositor and the dispatcher read of a table takes no walker.
Which of the die's sixteen walkers serves a walk is the model's choice, the first (DESIGN CHOICE, log 19). -/
def Dev.walkReads (d : Dev) (die : Option Nat) (va : Word) : Nat → Nat → Nat → Dev
  | 0, _, _ => d
  | n + 1, table, level =>
    let a := table + 8 * walkIndex va level
    let d0 := d.combine none (a / 32 * 32) 32
    let d1 := (match die with
      | none => d0
      | some x => d0.ask 4 (16 * x) 0).lookup none (a / 32 * 32) 32 0 none die
    let e := d1.entryAt a
    if pteV e && !pteLeaf e && d.nonLeafOk e level then d1.walkReads die va n (pteAddr e) (level + 1) else d1

/-- The walk of an address that a translation cache does not serve: its steps at a walker of the cluster's die (R154, R183). -/
def Dev.walkSteps (d : Dev) (k : Fin 32) (va : Word) : Dev :=
  match (d.ownerAt d.clusters[k].owner).root with
  | none => d
  | some root => if canonical va then d.walkReads (some (k.val / 8)) va 4 root 1 else d

/-- The compositor or the dispatcher reads the tables of an owner down to an address (R193). -/
def Dev.tablesRead (d : Dev) (o : Nat) (va : Word) : Dev :=
  match (d.ownerAt o).root with
  | none => d
  | some root => d.walkReads none va 4 root 1

/-- PAGE_WALK (R153, R154): a miss of a cluster's translation cache is served, and a valid leaf is cached. -/
def Dev.pageWalk (d : Dev) (cluster : Nat) (va : Word) : Dev :=
  let k := Fin.ofNat 32 cluster
  let o := d.clusters[k].owner
  if !canonical va || inLocalRange va || (d.tlbLookup k o va).isSome then d
  else
    match (d.ownerAt o).root with
    | none => d
    | some root =>
      let d1 := (d.event o 0x04).walkReads (some (k.val / 8)) va 4 root 1
      match d1.walk o va with
      | .fails _ => d1
      | .leaf e level =>
        d1.setCluster k { d1.clusters[k] with
          tlb := { owner := o, gen := d1.clusters[k].gen, va := va.toNat / pageBytes e * pageBytes e, size := pageBytes e, leaf := e
                   level := level }
            :: d1.clusters[k].tlb }

-- Loads.

/-- The structure that reports an uncorrectable error on a load of a range by the current core, if one does: what a copy supplies meets
none. -/
def Dev.badHere (d : Dev) (dev : Option (BitVec 12)) (pa n : Nat) (remote : Bool) (core : Option Nat := some d.core.id) : Option (BitVec 3) :=
  if !remote && ((d.l1For d.cluster core dev pa n).isSome || (d.copyFor d.cluster dev pa n).isSome) then none
  else d.badAt dev pa n

/-- Bytes of a store's other cluster that have not become current at a slice: pending words (R58, R145). -/
def StoreRec.pendingAt (r : StoreRec) (k : Fin 32) : Bool :=
  decide (r.cluster ≠ k.val) &&
    match r.phase with
    | .sent => false
    | .placed _ pending => pending.contains k.val
    | .committed pending => pending.contains k.val

/-- The cluster's own stores that no home has committed are visible in its slice in their order (R58, R145). -/
def Dev.overlay (d : Dev) (k : Fin 32) (dev : Option (BitVec 12)) (pa : Nat) (bs : List Byte) : List Byte :=
  (d.mem.stores.filter fun r =>
    decide (r.cluster = k.val) && decide (r.dev = dev) && (match r.phase with | .sent => true | .placed _ _ => true | .committed _ => false)).foldl
    (fun acc r => patch acc pa r.pa r.bytes) bs

/-- A load of n bytes of device memory through a core's L1 and its slice (R58, R64, R145): committed asks for committed values, and remote
for a read at the home, past every copy. A pending word is waited for. -/
def Dev.sliceLoad (d : Dev) (k : Fin 32) (core : Option Nat) (dev : Option (BitVec 12)) (pa grain n : Nat) (tracked committed remote : Bool) :
    List Byte × Dev :=
  if remote then
    let d1 := (d.atHome dev pa grain).forgetRemote k dev pa grain
    (d1.homeRead dev pa n, d1)
  else if committed then (d.settleRange dev (grainBase pa grain) grain).cacheRead k core dev pa grain n tracked
  else
    let d1 := d.commitWhere fun r => r.pendingAt k && decide (r.dev = dev) && overlap pa n r.pa r.bytes.length
    let r := d1.cacheRead k core dev pa grain n tracked
    (d1.overlay k dev pa r.1, r.2)

/-- A store of a core: its slice applies it at once and sends it to the home (R145). -/
def Dev.sliceStore (d : Dev) (k : Fin 32) (core owner : Nat) (kid : Origin) (lv : Level) (va : Word) (dev : Option (BitVec 12)) (pa grain : Nat)
    (bs : List Byte) : Dev :=
  d.setMem
    { d.mem with
      stores := d.mem.stores ++ [{ id := d.mem.nextStore, cluster := k.val, core := core, owner := owner, kid := kid, level := lv, va := va
                                   dev := dev, pa := pa, grain := grain, bytes := bs, phase := .sent, age := 0, order := 0 }]
      nextStore := d.mem.nextStore + 1 }

/-- A reduction accepted by a slice: the grain's sharer copies are invalidated, and its partial holds the contribution (R174). -/
def Dev.acceptRed (d : Dev) (core : Nat) (cluster : Option Nat) (dev : Option (BitVec 12)) (grain : Nat) (r : RedRequest) : Dev :=
  let b := grainBase r.pa grain
  d.setMem
    { d.mem with
      copies := d.mem.copies.filter fun c => !(decide (c.dev = dev) && c.tracked && overlap c.base c.size b grain)
      partials := d.mem.partials ++ [{ core := core, cluster := cluster, dev := dev, base := b, request := r }] }

end Sys2Proof.Machine
end

