-- ==== Sys2Proof/Machine/Planes.lean ====
section
/-! DEFINITION. Scratchpads (R137 to R140, R159), plane regions and their descriptors (R263 to R266), and the format windows
(R267 to R272, with the encodings of R230, R234 and R237). -/
namespace Sys2Proof.Machine

-- The scratchpad under a generation.

/-- One byte of a scratchpad: a stale row reads as zero (R159). -/
def Scratch.get (p : Scratch) (g : BitVec 8) (o : Nat) : Byte :=
  if p.gens.get 0 (o / 64) = g then p.bytes.get o else 0
/-- n bytes of a scratchpad. -/
def Scratch.read (p : Scratch) (g : BitVec 8) (o n : Nat) : List Byte := (List.range n).map fun i => p.get g (o + i)
/-- A granule's full/empty bit; in a stale row it is empty (R139, R159). -/
def Scratch.isFull (p : Scratch) (g : BitVec 8) (gr : Nat) : Bool :=
  decide (p.gens.get 0 (gr / 4) = g) && p.full.contains gr
/-- A row about to be written: a stale row is zeroed and empty first (R159). -/
def Scratch.refresh (p : Scratch) (g : BitVec 8) (row : Nat) : Scratch :=
  if p.gens.get 0 row = g then p
  else
    { bytes := p.bytes.write (64 * row) (List.replicate 64 0)
      gens := p.gens.set row g
      full := p.full.filter fun gr => decide (gr / 4 ≠ row)
      bad := p.bad }
def Scratch.set (p : Scratch) (g : BitVec 8) (o : Nat) (b : Byte) : Scratch :=
  let q := p.refresh g (o / 64)
  { q with bytes := q.bytes.set o b }
/-- Bytes written from an offset. -/
def Scratch.write (p : Scratch) (g : BitVec 8) : Nat → List Byte → Scratch
  | _, [] => p
  | o, b :: t => Scratch.write (p.set g o b) g (o + 1) t
/-- Sets or clears full/empty bits; a stale row becomes current and empty first. -/
def Scratch.setFull (p : Scratch) (g : BitVec 8) (grs : List Nat) : Scratch :=
  grs.foldl (fun q gr => let r := q.refresh g (gr / 4); { r with full := setInsert gr r.full }) p
def Scratch.clearFull (p : Scratch) (grs : List Nat) : Scratch :=
  { p with full := p.full.filter fun gr => !grs.contains gr }
/-- The granules that n bytes lie in. -/
def granulesOf (o n : Nat) : List Nat :=
  if n = 0 then [] else (List.range ((o + n - 1) / 16 + 1 - o / 16)).map fun i => o / 16 + i

/-- A granule lies in a row with an uncorrectable error (R95). -/
def Scratch.badIn (p : Scratch) (grs : List Nat) : Bool := grs.any fun gr => p.bad.contains (gr / 4)

-- Plane descriptors.

/-- The fields of a plane descriptor (R263). -/
structure PlaneDesc where
  blk : Nat
  rnd : Bool
  kind : Nat
  sbase : Nat
  w : Nat
  stride : Nat
  base : Nat
  deriving DecidableEq, Repr

def PlaneDesc.ofWord (x : Word) : PlaneDesc :=
  { blk := bits x 63 63, rnd := bit x 62, kind := bits x 61 58, sbase := bits x 57 40, w := bits x 39 36 + 1
    stride := bits x 35 18, base := bits x 17 0 }

def PlaneDesc.isQn4 (t : PlaneDesc) : Bool := decide (t.kind = 6)
/-- Block bytes BB, blocks per line NBLK, block size B (R265, R266). -/
def PlaneDesc.bb (t : PlaneDesc) : Nat := if t.isQn4 then 32 else 4 * t.w
def PlaneDesc.nblk (t : PlaneDesc) : Nat := t.stride / t.bb
def PlaneDesc.size (t : PlaneDesc) : Nat := if t.blk = 1 then 64 else 32
/-- Elements of a line. -/
def PlaneDesc.lineLen (t : PlaneDesc) : Nat := t.nblk * t.size

/-- A descriptor value is valid (R265). -/
def descOk (x : Word) : Bool :=
  let t := PlaneDesc.ofWord x
  if t.kind = 0 then decide (x = 0)
  else
    decide (t.kind ≤ 7) && decide (t.blk = if t.isQn4 then 1 else 0) && (!t.isQn4 || decide (t.w = 7))
      && decide (t.base % 4 = 0) && decide (t.stride % 4 = 0) && decide (t.stride ≠ 0) && decide (t.stride % t.bb = 0)
      && decide (t.base + 32 * t.stride ≤ 262144) && decide (t.sbase + 32 * t.nblk ≤ 262144)
      && (!t.isQn4 || (decide (t.sbase % 4 = 0)
        && decide (t.sbase + 32 * t.nblk + 4 * ceilDiv' (32 * t.nblk) 256 ≤ 262144)))

/-- The place of a block, of its scale byte, and of its group scale (R266). -/
def PlaneDesc.blockAt (t : PlaneDesc) (m b : Nat) : Nat := t.base + m * t.stride + b * t.bb
def PlaneDesc.scaleAt (t : PlaneDesc) (m b : Nat) : Nat := t.sbase + m * t.nblk + b
def PlaneDesc.groupAt (t : PlaneDesc) (m b : Nat) : Nat := t.sbase + 32 * t.nblk + 4 * ((m * t.nblk + b) / 256)

-- Blocks.

/-- The levels of QN4 (R235). -/
def qn4Level (i : Nat) : Nat := [3, 8, 14, 20, 27, 35, 45, 64].getD i 64

/-- A number read as a two's complement integer of w bits. -/
def twos (w x : Nat) : Int := if x / 2 ^ (w - 1) % 2 = 1 then (x : Int) - 2 ^ w else x

/-- Bit i of the w plane words at an offset, sign plane first, as an unsigned w-bit number (R232). -/
def planeBits (p : Scratch) (g : BitVec 8) (o : Nat) : Nat → Nat → Nat → Nat
  | 0, _, acc => acc
  | n + 1, i, acc =>
    planeBits p g (o + 4) n i (2 * acc + (leNat (p.read g o 4)) / 2 ^ i % 2)

/-- The stored integers of a block: q of a plane block (R232), or the signed level of a QN4 code (R235, R268). -/
def blockInts (p : Scratch) (g : BitVec 8) (t : PlaneDesc) (m b : Nat) : List Int :=
  let o := t.blockAt m b
  (List.range t.size).map fun i =>
    if t.isQn4 then
      let c := (p.get g (o + i / 2)).toNat / 16 ^ (i % 2) % 16
      signedInt (decide (c ≥ 8)) (qn4Level (c % 8))
    else twos t.w (planeBits p g o t.w i 0)

/-- The codes of a QN4 block (R266). -/
def blockCodes (p : Scratch) (g : BitVec 8) (t : PlaneDesc) (m b : Nat) : List Nat :=
  (List.range t.size).map fun i => (p.get g (t.blockAt m b + i / 2)).toNat / 16 ^ (i % 2) % 16

def scaleByte (p : Scratch) (g : BitVec 8) (t : PlaneDesc) (m b : Nat) : Nat := (p.get g (t.scaleAt m b)).toNat
def groupScale (p : Scratch) (g : BitVec 8) (t : PlaneDesc) (m b : Nat) : FVal :=
  Fmt.f32.decode (leNat (p.read g (t.groupAt m b) 4))

/-- A block is special: scale 0xFF, or a QN4 group whose S is not finite (R233, R236, R275). -/
def blockSpecial (p : Scratch) (g : BitVec 8) (t : PlaneDesc) (m b : Nat) : Bool :=
  if t.isQn4 then
    match groupScale p g t m b with
    | .fin _ => false
    | .nan _ | .inf _ => true
  else decide (scaleByte p g t m b = 0xFF)

/-- The exact scale of a block (R233, R236, R274): the value of one unit of its stored integers. -/
def blockScale (p : Scratch) (g : BitVec 8) (t : PlaneDesc) (m b : Nat) : Exact :=
  let s := scaleByte p g t m b
  if t.isQn4 then
    match groupScale p g t m b with
    | .fin x => { x with num := x.num * (s + 1), den := x.den * 16384 }
    | .nan _ | .inf _ => { neg := false, num := 0, den := 1 }
  else .scaled false 1 (s + 2) (127 + t.w)

/-- The exact values of a block's elements (R233, R236, R268). -/
def blockValues (p : Scratch) (g : BitVec 8) (t : PlaneDesc) (m b : Nat) : List FVal :=
  if blockSpecial p g t m b then List.replicate t.size (.nan false)
  else (blockInts p g t m b).map fun i => .fin ((Exact.ofInt i).mul (blockScale p g t m b))

/-- An integer that is zero decodes as +0 (R234). -/
def FVal.plusZero : FVal → FVal
  | .fin x => if x.num = 0 then .fin { x with neg := false } else .fin x
  | .inf n => .inf n
  | .nan s => .nan s

-- Encoding.

def FVal.isFinite : FVal → Bool
  | .fin _ => true
  | .inf _ | .nan _ => false
def FVal.exact : FVal → Exact
  | .fin x => x
  | .inf _ | .nan _ => { neg := false, num := 0, den := 1 }

/-- floor(log2) of a nonzero exact real, as an integer. -/
def Exact.floorLog2 (x : Exact) : Int := (x.log2 512 : Int) - 512

/-- The largest floor(log2) of the nonzero values of a list. -/
def maxExponent (vs : List FVal) : Option Int :=
  vs.foldl (fun acc v =>
    if v.exact.num = 0 then acc
    else match acc with
      | none => some v.exact.floorLog2
      | some e => some (max e v.exact.floorLog2)) none

/-- x times 2^k for an integer k. -/
def Exact.scaleInt (x : Exact) (k : Int) : Exact := x.scale k.toNat (-k).toNat

/-- The rounding mode of an element of tensor index e for a destination of so many bits (R227, R269). -/
def drawMode (rnd : Bool) (key : Word) (k m e : Nat) : Mode :=
  if rnd then .sr k ((fount key (BitVec.ofNat 32 (e / m))).toNat / 2 ^ (k * (e % m)) % 2 ^ k) else .rne

/-- The low w bits of an integer. -/
def wrapTo (w : Nat) (i : Int) : Nat := (BitVec.ofInt w i).toNat

/-- The plane-form encoding of a block (R234): the scale byte and the integers. e0 is the tensor index of element 0. -/
def encodePlane (w : Nat) (rnd : Bool) (key : Word) (e0 : Nat) (vs : List FVal) : Nat × List Int :=
  if vs.any fun v => !v.isFinite then (0xFF, vs.map fun _ => 0)
  else
    match maxExponent vs with
    | none => (0, vs.map fun _ => 0)
    | some e =>
      let s := (max 0 (min 254 (e + 127))).toNat
      (s, vs.mapIdx fun i v =>
        let x := v.exact.scaleInt ((w : Int) - 2 - ((s : Int) - 127))
        let m := if w ≤ 8 then drawMode rnd key 8 4 (e0 + i) else drawMode rnd key 16 2 (e0 + i)
        clampSigned w (signedInt x.neg (x.roundInt m).1))

/-- The MX conversion of a block to E2M1 (R230, R271): the values e x 2^X, or one NaN when the block is special. -/
def convertMx (rnd : Bool) (key : Word) (e0 : Nat) (vs : List FVal) : List FVal :=
  if vs.any fun v => !v.isFinite then vs.map fun _ => .nan false
  else
    match maxExponent vs with
    | none => vs
    | some e =>
      let X := max (-127) (min 127 (e - 2))
      vs.mapIdx fun i v =>
        match Fmt.e2m1.decode (Fmt.e2m1.round (drawMode rnd key 8 4 (e0 + i)) (v.exact.scaleInt (-X))).1 with
        | .fin y => .fin (y.scaleInt X)
        | .inf n => .inf n
        | .nan s => .nan s

/-- The nearest level for a magnitude num/den in 64ths, ties to the even index (R237, R270). -/
def nearestLevel (num den : Nat) : Nat :=
  if num < 3 * den then 0
  else if num ≥ 64 * den then 7
  else
    let i := ((List.range 7).filter fun j => decide (qn4Level j * den ≤ num)).length - 1
    let a := qn4Level i * den
    let c := qn4Level (i + 1) * den
    if num = a then i
    else if num - a < c - num then i else if c - num < num - a then i + 1 else if i % 2 = 0 then i else i + 1

/-- The level of SR (R237). -/
def drawnLevel (num den : Nat) (key : Word) (e : Nat) : Nat :=
  if num < 3 * den then 0
  else if num ≥ 64 * den then 7
  else
    let i := ((List.range 7).filter fun j => decide (qn4Level j * den ≤ num)).length - 1
    let a := qn4Level i * den
    let c := qn4Level (i + 1) * den
    if num = a then i
    else
      match drawMode true key 8 4 e with
      | .sr _ r => if r < 256 * (num - a) / (c - a) then i + 1 else i
      | .rne | .rtz | .rdn | .rup => i

/-- The QN4 encoding of a block (R237): the new scale byte and the codes. -/
def encodeQn4 (S : FVal) (oldScale : Nat) (rnd : Bool) (key : Word) (e0 : Nat) (vs : List FVal) : Nat × List Nat :=
  match S with
  | .nan _ => (oldScale, vs.map fun _ => 0)
  | .inf _ => (oldScale, vs.map fun _ => 0)
  | .fin S =>
    if S.neg ∨ S.num = 0 then (oldScale, vs.map fun _ => 0)
    else
      let M := vs.foldl (fun acc v =>
        if v.isFinite ∧ acc.lt { v.exact with neg := false } then { v.exact with neg := false } else acc)
        { neg := false, num := 0, den := 1 }
      let q := min 255 (ceilDiv' (256 * M.num * S.den) (M.den * S.num) - 1)
      (q, vs.mapIdx fun i v =>
        if !v.isFinite then 0
        else
          let x := v.exact
          -- |v| / B in 64ths: 64 |v| 256 / (S (q + 1))
          let num := 64 * 256 * x.num * S.den
          let den := x.den * S.num * (q + 1)
          (if rnd then drawnLevel num den key (e0 + i) else nearestLevel num den) + (if x.neg then 8 else 0))

/-- Plane words of integers: plane j holds bit w - 1 - j of every element (R232). -/
def planeWord (w j : Nat) (qs : List Int) : Nat :=
  (qs.mapIdx fun i q => (wrapTo w q / 2 ^ (w - 1 - j) % 2) * 2 ^ i).sum

def writePlanes (p : Scratch) (g : BitVec 8) (o w : Nat) (qs : List Int) : Scratch :=
  (List.range w).foldl (fun r j => r.write g (o + 4 * j) (leBytes 4 (planeWord w j qs))) p

/-- Two codes to a byte, the lower-numbered in bits [3:0] (R235). -/
def packCodes : List Nat → List Byte
  | a :: b :: t => BitVec.ofNat 8 (a + 16 * b) :: packCodes t
  | [a] => [BitVec.ofNat 8 a]
  | [] => []

-- The windows.

/-- Element size of a window in half bytes (R267). -/
def windowHalves (win : Nat) (t : PlaneDesc) : Nat :=
  match win with
  | 1 => 8
  | 2 => 4
  | 3 | 4 => 2
  | 5 | 6 => 1
  | _ => if t.isQn4 ∨ t.w ≤ 8 then 2 else 4

/-- The format of a value window. -/
def windowFmt (win : Nat) : Fmt :=
  match win with
  | 1 => .f32 | 2 => .bf16 | 3 => .e4m3 | 4 => .e5m2 | _ => .e2m1

/-- The end of a region's view in a window (R267). -/
def viewEnd (win : Nat) (t : PlaneDesc) : Nat := min 262144 (t.base + 32 * t.lineLen * windowHalves win t / 2)

/-- The lowest-numbered descriptor of the target core whose view in the window holds an offset (R267). -/
def viewOf (c : Core) (g : BitVec 8) (win o : Nat) : Option (Nat × PlaneDesc) :=
  ((List.range 16).map fun n => (n, PlaneDesc.ofWord (c.desc[Fin.ofNat 16 n].read g))).find? fun nt =>
    decide (nt.2.kind ≠ 0) && decide (nt.2.base ≤ o) && decide (o < viewEnd win nt.2)

/-- Element x of a region: line, block and position (R267). -/
def PlaneDesc.locate (t : PlaneDesc) (x : Nat) : Nat × Nat × Nat :=
  (x / t.lineLen, x % t.lineLen / t.size, x % t.lineLen % t.size)

/-- The code that a window shows for element x (R268, R270, R271). -/
def windowElement (p : Scratch) (g : BitVec 8) (win : Nat) (t : PlaneDesc) (x : Nat) : Nat :=
  let l := t.locate x
  let m := l.1
  let b := l.2.1
  let i := l.2.2
  if win = 6 then (blockCodes p g t m b).getD i 0
  else if win = 7 then wrapTo (4 * windowHalves win t) ((blockInts p g t m b).getD i 0)
  else
    let f := windowFmt win
    match (blockValues p g t m b).getD i (.nan false) with
    | .nan _ => f.qnan
    | .inf _ => f.qnan
    | .fin v =>
      let v := if v.num = 0 ∧ ¬ t.isQn4 then { v with neg := false } else v
      if win = 5 ∧ t.kind = 5 then
        (f.round .rne (v.scaleInt (-(max ((scaleByte p g t m b : Int) - 129) (-127))))).1
      else (f.round .rne v).1

/-- The byte that a window shows at an offset inside a region's view. -/
def windowByte (p : Scratch) (g : BitVec 8) (win : Nat) (t : PlaneDesc) (o : Nat) : Byte :=
  let h := windowHalves win t
  let x := (o - t.base) * 2 / h
  if h = 1 then BitVec.ofNat 8 (windowElement p g win t x + 16 * windowElement p g win t (x + 1))
  else BitVec.ofNat 8 (windowElement p g win t x / 256 ^ ((o - t.base) % (h / 2)))

/-- Whether a window shows a region in its own form: W6 shows only QN4 (R270). -/
def windowApplies (win : Nat) (t : PlaneDesc) : Bool := decide (win ≠ 0) && (decide (win ≠ 6) || t.isQn4)

/-- n bytes read through a window (R138, R267, R268, R270). -/
def windowRead (c : Core) (g : BitVec 8) (win o n : Nat) : List Byte :=
  match (if win = 0 then none else viewOf c g win o) with
  | none => c.pad.read g o n
  | some (_, t) =>
    if !windowApplies win t then c.pad.read g o n
    else (List.range n).map fun i =>
      if o + i < viewEnd win t then windowByte c.pad g win t (o + i) else c.pad.get g (o + i)

/-- The elements, as a range, that n bytes at an offset cover in a view. -/
def coveredElements (win : Nat) (t : PlaneDesc) (o n : Nat) : Nat × Nat :=
  let h := windowHalves win t
  let last := min (o + n) (viewEnd win t) - 1
  ((o - t.base) * 2 / h, (if h = 1 then (last - t.base) * 2 + 2 else (last - t.base) * 2 / h + 1))

/-- The blocks (line, block) that a range of elements touches. -/
def blocksOf (t : PlaneDesc) (x0 x1 : Nat) : List (Nat × Nat) :=
  (List.range ((x1 - 1) / t.size + 1 - x0 / t.size)).map fun i =>
    ((x0 / t.size + i) / t.nblk, (x0 / t.size + i) % t.nblk)

/-- The bytes of the scratchpad that a window access touches, as offset and length: blocks with their scales, and what lies in no view (R139,
R267, R272). -/
def windowRanges (c : Core) (g : BitVec 8) (win o n : Nat) : List (Nat × Nat) :=
  match (if win = 0 then none else viewOf c g win o) with
  | none => [(o, n)]
  | some (_, t) =>
    if !windowApplies win t then [(o, n)]
    else
      let xs := coveredElements win t o n
      let blocks := (blocksOf t xs.1 xs.2).flatMap fun mb =>
        [(t.blockAt mb.1 mb.2, t.bb), (t.scaleAt mb.1 mb.2, 1)] ++ (if t.isQn4 then [(t.groupAt mb.1 mb.2, 4)] else [])
      blocks ++ (if o + n ≤ viewEnd win t then [] else [(viewEnd win t, o + n - viewEnd win t)])

/-- The granules that a window access touches (R139, R272). -/
def windowGranules (c : Core) (g : BitVec 8) (win o n : Nat) : List Nat :=
  ((windowRanges c g win o n).flatMap fun x => granulesOf x.1 x.2).eraseDups

/-- The byte that the accesses of one instruction write at an offset: of overlapping bytes the later one's remain (R245). -/
def writtenByte (items : List (Nat × List Byte)) (o : Nat) : Option Byte :=
  items.foldl (fun acc it => if it.1 ≤ o ∧ o < it.1 + it.2.length then it.2[o - it.1]? else acc) none

/-- Some byte of element x is written (R269). -/
def elementWritten (win : Nat) (t : PlaneDesc) (wr : Nat → Option Byte) (x : Nat) : Bool :=
  let h := windowHalves win t
  if h = 1 then (wr (t.base + x / 2)).isSome
  else (List.range (h / 2)).any fun i => (wr (t.base + x * (h / 2) + i)).isSome

/-- The code of element x after a write: written bytes replace those that a read would deliver (R269). -/
def writtenCode (p : Scratch) (g : BitVec 8) (win : Nat) (t : PlaneDesc) (wr : Nat → Option Byte) (x : Nat) : Nat :=
  let h := windowHalves win t
  if h = 1 then ((wr (t.base + x / 2)).getD 0).toNat / 16 ^ (x % 2) % 16
  else
    let start := t.base + x * (h / 2)
    leNat ((List.range (h / 2)).map fun i =>
      (wr (start + i)).getD (BitVec.ofNat 8 (windowElement p g win t x / 256 ^ i)))

/-- One block written through a window, in one encoding: the elements written take their codes (R269 to R271). DESIGN CHOICE (log 22): where the
scale byte of a block lies among its own planes, the planes are written first and the scale byte remains (R265 checks no overlap). -/
def writeBlock (p0 : Scratch) (g : BitVec 8) (win : Nat) (t : PlaneDesc) (key : Word) (wr : Nat → Option Byte)
    (p : Scratch) (mb : Nat × Nat) : Scratch :=
  let m := mb.1
  let b := mb.2
  let e0 := (m * t.nblk + b) * t.size
  let code (i : Nat) : Nat := writtenCode p0 g win t wr (e0 + i)
  let isNew (i : Nat) : Bool := elementWritten win t wr (e0 + i)
  if win = 6 then
    p.write g (t.blockAt m b) (packCodes ((blockCodes p g t m b).mapIdx fun i c => if isNew i then code i else c))
  else if win = 7 then
    if t.isQn4 then
      p.write g (t.blockAt m b) (packCodes ((blockCodes p g t m b).mapIdx fun i c =>
        if isNew i then
          let v := twos 8 (code i)
          nearestLevel v.natAbs 1 + (if v < 0 then 8 else 0)
        else c))
    else
      writePlanes p g (t.blockAt m b) t.w ((blockInts p g t m b).mapIdx fun i q =>
        if isNew i then clampSigned t.w (twos (4 * windowHalves win t) (code i)) else q)
  else
    let vs := (blockValues p g t m b).mapIdx fun i v => if isNew i then (windowFmt win).decode (code i) else v
    let ws := if win = 5 ∧ t.kind = 5 then convertMx t.rnd key e0 vs else vs
    if t.isQn4 then
      let r := encodeQn4 (groupScale p g t m b) (scaleByte p g t m b) t.rnd key e0 ws
      (p.write g (t.blockAt m b) (packCodes r.2)).set g (t.scaleAt m b) (BitVec.ofNat 8 r.1)
    else
      let r := encodePlane t.w t.rnd key e0 ws
      (writePlanes p g (t.blockAt m b) t.w r.2).set g (t.scaleAt m b) (BitVec.ofNat 8 r.1)

/-- The view that an access is performed in, if it is not performed as in W0 (R267, R270). -/
def activeView (c : Core) (g : BitVec 8) (win o : Nat) : Option (Nat × PlaneDesc) :=
  (if win = 0 then none else viewOf c g win o).filter fun dt => windowApplies win dt.2

/-- The accesses of one instruction that are performed in the view of descriptor d. -/
def writeRegion (c : Core) (g : BitVec 8) (win : Nat) (items : List (Nat × List Byte)) (p : Scratch) (d : Nat) : Scratch :=
  let t := PlaneDesc.ofWord (c.desc[Fin.ofNat 16 d].read g)
  let mine := items.filter fun it => decide ((activeView c g win it.1).map (·.1) = some d)
  let wr (o : Nat) : Option Byte := if o < viewEnd win t then writtenByte mine o else none
  let blocks := (mine.flatMap fun it =>
    let xs := coveredElements win t it.1 it.2.length
    blocksOf t xs.1 xs.2).eraseDups
  blocks.foldl (writeBlock c.pad g win t (c.stream[Fin.ofNat 16 d].read g) wr) p

/-- The bytes of an access that lie in no view, written as in W0 (R267, R270). -/
def writePlain (c : Core) (g : BitVec 8) (win : Nat) (p : Scratch) (it : Nat × List Byte) : Scratch :=
  match activeView c g win it.1 with
  | none => p.write g it.1 it.2
  | some (_, t) => p.write g (max it.1 (viewEnd win t)) (it.2.drop (viewEnd win t - it.1))

/-- The accesses of one instruction through a window: each block that they touch is encoded once (R138, R267, R269 to R271). -/
def windowWriteAll (c : Core) (g : BitVec 8) (win : Nat) (items : List (Nat × List Byte)) : Scratch :=
  let regions := (items.filterMap fun it => (activeView c g win it.1).map (·.1)).eraseDups
  items.foldl (writePlain c g win) (regions.foldl (writeRegion c g win items) c.pad)

/-- Where the access that begins at an offset ends, in a run of bytes through a window up to an end: at the end of its block or of its view,
or where the next view begins (R267, R304). -/
def partEnd (c : Core) (g : BitVec 8) (win o stop : Nat) : Nat :=
  match activeView c g win o with
  | some (_, t) =>
    let h := windowHalves win t
    let x := (o - t.base) * 2 / h
    max (o + 1) (min stop (min (viewEnd win t) (t.base + (x / t.size + 1) * t.size * h / 2)))
  | none =>
    let bases := (List.range 16).filterMap fun n =>
      let t := PlaneDesc.ofWord (c.desc[Fin.ofNat 16 n].read g)
      if win ≠ 0 ∧ t.kind ≠ 0 ∧ o < t.base then some t.base else none
    max (o + 1) (bases.foldl min stop)

/-- A run of n bytes through a window as the accesses that it is made of: offset and length of each (R304). -/
def rowParts (c : Core) (g : BitVec 8) (win stop : Nat) : Nat → Nat → List (Nat × Nat)
  | 0, _ => []
  | n + 1, o =>
    if stop ≤ o then []
    else
      let e := partEnd c g win o stop
      (o, e - o) :: rowParts c g win stop n e

/-- n bytes read through a window, access by access. -/
def rowRead (c : Core) (g : BitVec 8) (win o n : Nat) : List Byte :=
  (rowParts c g win (o + n) n o).flatMap fun x => windowRead c g win x.1 x.2
/-- Bytes written through a window, the bytes of each block as one access (R269, R272, R304). -/
def rowWrite (c : Core) (g : BitVec 8) (win o : Nat) (bs : List Byte) : Scratch :=
  windowWriteAll c g win ((rowParts c g win (o + bs.length) bs.length o).map fun x => (x.1, (bs.drop (x.1 - o)).take x.2))
/-- The granules that the accesses of a run touch. -/
def rowGranules (c : Core) (g : BitVec 8) (win o n : Nat) : List Nat :=
  ((rowParts c g win (o + n) n o).flatMap fun x => windowGranules c g win x.1 x.2).eraseDups

/-- Bytes written through a window by one access. -/
def windowWrite (c : Core) (g : BitVec 8) (win o : Nat) (bs : List Byte) : Scratch := windowWriteAll c g win [(o, bs)]

end Sys2Proof.Machine
end

