-- ==== Sys2Proof/Machine/Access.lean ====
section
/-! DEFINITION. The accesses of the current core: the checks of R163 and R164, and loads and stores of a scratchpad, of an event
unit and of device memory (R135 to R141, R145, R156, R166, R177). -/
namespace Sys2Proof.Machine

/-- The launch whose task runs on a core, and its kernel identifier, or 0 (R177, R339). -/
def Core.kid (c : Core) : Origin :=
  match c.task with
  | none => { kid := 0, launch := none }
  | some t => { kid := t.work.kid, launch := some (t.work.queue, t.work.seq) }

/-- log2 of an access size (R163). -/
def sizeLog (n : Nat) : Word := BitVec.ofNat 64 n.log2

/-- MISALIGN of a data access (R163). -/
def Dev.misalign {α : Type} (d : Dev) (va : Word) (n : Nat) (kind : AccessKind) : Except Stop α :=
  d.trap 0x03 va (sizeLog n ||| kind.finfo)

/-- PROT with FINFO [1:0] = 0b10 (R135). -/
def Dev.refuse {α : Type} (d : Dev) (va : Word) (kind : AccessKind) : Except Stop α := d.trap 0x05 va (kind.finfo ||| 2)

/-- Where an access is performed. -/
inductive Place where
  /-- A scratchpad: the core, the window and the byte. -/
  | pad (core win off : Nat)
  /-- The event unit: the offset. -/
  | unit (off : Nat)
  /-- A home: the leaf and the physical address on the leaf's device. -/
  | home (leaf : Word) (pa : Nat)
  /-- A migrating page. -/
  | held
  deriving DecidableEq, Repr

/-- Bytes that SAVEAREA reserves overlap a range (R100). -/
def Core.reserves (c : Core) (off n : Nat) : Bool :=
  overlap off n (bits c.savearea 17 10 * 1024) (bits c.savearea 27 20 * 1024) && decide (bits c.savearea 27 20 ≠ 0)

/-- An access through a window reaches bytes that SAVEAREA reserves: it names them, or it reads or writes planes, codes or scales that lie
there (R100, R136, R272; log 11). -/
def Core.inSaveArea (c : Core) (g : BitVec 8) (win off n : Nat) : Bool :=
  c.reserves off n || (windowGranules c g win off n).any fun gr => c.reserves (16 * gr) 16

/-- The core that a window address names, if it is one of the cluster (R135). -/
def Dev.windowCore (d : Dev) (va : Word) : Option Nat :=
  if winCore va = 127 then some d.core.id
  else if winCore va < 96 then some (d.core.id / 128 * 128 + winCore va)
  else none

/-- The checks of an aligned access to the range that is never translated (R135, R136, R141, R316). A load or store of the event unit that carries
an order code is performed as one that carries none: R316 permits plain ones and does not refuse these (DESIGN CHOICE, log 16). -/
def Dev.placeLocal (d : Dev) (lv : Level) (kind : AccessKind) (va : Word) (n : Nat) (qualified : Bool) : Except Stop Place :=
  if !inWindow va then d.refuse va kind
  else if winCore va = 126 then
    if qualified || decide (n ≠ 8) || decide (winOf va ≠ 0) then d.refuse va kind else .ok (.unit (winByte va))
  else
    match d.windowCore va with
    | none => d.refuse va kind
    | some c =>
      if decide (lv = .user) && (d.coreAt c).inSaveArea d.gen (winOf va) (winByte va) n then d.refuse va kind
      else .ok (.pad c (winOf va) (winByte va))

/-- The page of an address is walked to, where the translation cache of the current cluster does not hold it: what an agent that waits
for the walk by itself does first (R153, R154). -/
def Dev.walked (d : Dev) (va : Word) : Dev := d.pageWalk d.cluster.val va

/-- A translation fault of the current core at an address. XLATE comes after the walk that found no leaf (R154, R343). -/
def Dev.faults {α : Type} (d : Dev) (epc va : Word) (code : BitVec 6) (finfo : Word) : Except Stop α :=
  let t : Trap := { code := code, epc := epc, faddr := va, finfo := finfo, async := false, defer := false }
  .error (if code = 0x04 then .walkedTrap (d.walked va) t else .trap t)

/-- The checks of an access other than its alignment (R164). -/
def Dev.placeAny (d : Dev) (lv : Level) (kind : AccessKind) (va : Word) (n : Nat) (qualified : Bool) : Except Stop Place :=
  if inLocalRange va then d.placeLocal lv kind va n qualified
  else
    match d.translate d.cluster d.owner lv kind va with
    | .ok e pa => .ok (.home e pa)
    | .held => .ok .held
    | .miss => .error (.left (d.walked va) 0xC)
    | .fault c fi => d.faults d.core.pc va c fi

/-- The checks of an access in their order (R163, R164). -/
def Dev.place (d : Dev) (lv : Level) (kind : AccessKind) (va : Word) (n : Nat) (qualified : Bool) : Except Stop Place :=
  if va.toNat % n ≠ 0 then d.misalign va n kind else d.placeAny lv kind va n qualified

/-- The core, address and length of a held write; none of an access that its core or engine waits for. -/
def HeldAccess.range : HeldAccess → Option (Nat × Nat × Nat)
  | .store c _ _ _ va bs => some (c, va.toNat, bs.length)
  | .red c _ _ _ r => some (c, r.va.toNat, r.ty.bits / 8)
  | .wait _ _ | .engine _ _ => none

/-- The core has a held write to a range: later accesses keep behind it (R55, R156). -/
def Dev.heldOver (d : Dev) (core : Nat) (va : Word) (n : Nat) : Bool :=
  (d.clusters[d.cluster].hold).any fun h => h.range.any fun r => decide (r.1 = core) && overlap va.toNat n r.2.1 r.2.2

/-- The core has a held write (R60, R156). -/
def Dev.holdsAny (d : Dev) (core : Nat) : Bool := (d.clusters[d.cluster].hold).any fun h => h.range.any fun r => decide (r.1 = core)

/-- The entry of a core that waits for an access. -/
def HeldAccess.isWaitOf (core : Nat) : HeldAccess → Bool
  | .wait c _ => decide (c = core)
  | .store _ _ _ _ _ _ | .red _ _ _ _ _ | .engine _ _ => false

/-- Cores give up the accesses that they wait for in the hold queue of a cluster (R156). -/
def Dev.leaveHold (d : Dev) (k : Fin 32) (cores : List Nat) : Dev :=
  if !(d.clusters[k].hold.any fun h => cores.any fun c => h.isWaitOf c) then d
  else d.setCluster k { d.clusters[k] with hold := d.clusters[k].hold.filter fun h => !cores.any fun c => h.isWaitOf c }

/-- An access that enters the hold queue is counted, in a cluster (R156, R343). -/
def Dev.enterHold (d : Dev) (k : Fin 32) (h : HeldAccess) : Dev :=
  (d.event d.clusters[k].owner 0x05).setCluster k { d.clusters[k] with hold := d.clusters[k].hold ++ [h] }

/-- An access of the current core waits in the hold queue, or for a free entry of it (R156). -/
def Dev.queued (d : Dev) (va : Word) : Stop :=
  let q := d.clusters[d.cluster].hold
  if (q.any fun h => h.isWaitOf d.core.id) || decide (Config.holdDepth ≤ q.length) then .wait 0xC
  else .left (d.enterHold d.cluster (.wait d.core.id va)) 0xC

/-- A page of another device does not lie wholly in that device's HBM: its home refuses (R133). -/
def remoteRefuses (e : Word) : Bool := pteRmt e && !inHbm (pteAddr e) (pageBytes e)

/-- A load at a home (R133, R144, R399). -/
def Dev.homeLoad (d : Dev) (va : Word) (e : Word) (pa n : Nat) (committed remote : Bool) : Except Stop (List Byte × Dev) :=
  if remoteRefuses e then d.refuse va .load
  else
    match d.badHere (leafDev e) pa n (committed && (remote || pteDec e)) with
    | some place => d.trap 0x09 va (zext place)
    | none => .ok (d.sliceLoad d.cluster (some d.core.id) (leafDev e) pa (grainBytes e) n (!pteSl e) (committed || pteDec e) (remote || pteDec e))

/-- The full/empty bits that a qualified load waits for are full (R139). -/
def Dev.feReady (d : Dev) (c : Nat) (fq : Fe) (grs : List Nat) : Bool :=
  let x := d.coreAt c
  match fq with
  | .none => true
  | .fe | .fc => grs.all fun gr => x.pad.isFull d.gen gr
  | .fk => x.pad.isFull d.gen (grs.foldl min (grs.headD 0))

/-- An access to another core's scratchpad is a coloured message, sent and received (R331). -/
def Dev.crossed (d : Dev) (c : Nat) : Dev :=
  if c = d.core.id then d
  else
    let e := { d with core := { d.core with ends := d.core.ends.send 1 } }
    e.setCore { e.coreAt c with ends := (e.coreAt c).ends.receive d.core.ends.colour 1 }

/-- A load from a scratchpad (R139, R164). -/
def Dev.padLoad (d : Dev) (c win off : Nat) (va : Word) (n : Nat) (fq : Fe) : Except Stop (List Byte × Dev) :=
  let x := d.coreAt c
  let grs := windowGranules x d.gen win off n
  if !d.feReady c fq grs then .error (.wait 0x5)
  else if x.pad.badIn grs then d.trap 0x09 va 4
  else
    .ok (windowRead x d.gen win off n,
      (if fq = .fc then d.setCore { x with pad := x.pad.clearFull grs } else d).crossed c)

/-- A load of n bytes by the current core at a privilege level. committed asks for committed values, remote for those of a
remote home (R58, R64). -/
def Dev.load (d : Dev) (lv : Level) (va : Word) (n : Nat) (fq : Fe) (committed remote : Bool) : Except Stop (List Byte × Dev) :=
  match d.place lv .load va n (decide (fq ≠ .none)) with
  | .error e => .error e
  | .ok .held => .error (d.queued va)
  | .ok (.home e pa) =>
    if d.heldOver d.core.id va n then .error (d.queued va) else d.homeLoad va e pa n committed remote
  | .ok (.unit off) =>
    match (d.clusters[d.cluster].unit).read off with
    | none => d.refuse va .load
    | some x => .ok (leBytes 8 x.toNat, d)
  | .ok (.pad c win off) => d.padLoad c win off va n fq

/-- The stores of one instruction through one window of a scratchpad, each with its address (R139, R140, R269): each is a message
of its own. A store that meets an uncorrectable error is lost and reported later (R98, R164). -/
def Dev.padStoreAll (d : Dev) (c win : Nat) (items : List (Word × Nat × List Byte)) (fe : Bool) : Dev :=
  let x := d.coreAt c
  let grs (it : Word × Nat × List Byte) : List Nat := windowGranules x d.gen win it.2.1 it.2.2.length
  let good := items.filter fun it => !x.pad.badIn (grs it)
  let lost := items.filter fun it => x.pad.badIn (grs it)
  let p := windowWriteAll x d.gen win (good.map (·.2))
  let e := d.setCore { x with pad := if fe then p.setFull d.gen (good.flatMap grs) else p }
  items.foldl (fun f _ => f.crossed c) (lost.foldl (fun f it => f.recordUncorr d.core.id it.1 4) e)

/-- A store to a scratchpad (R139, R140). -/
def Dev.padStore (d : Dev) (c win off : Nat) (va : Word) (bs : List Byte) (fe : Bool) : Dev := d.padStoreAll c win [(va, off, bs)] fe

/-- The notification core of an owner: the one that the compositor names, or the lowest-numbered core of the lowest cluster (R98). -/
def Dev.notifyCore (d : Dev) (owner : Nat) : Option Nat :=
  match (d.ownerAt owner).notify with
  | some c => some c
  | none => ((List.range 32).find? fun k => decide (d.clusters[Fin.ofNat 32 k].owner = owner)).map fun k => 128 * k

/-- A cause posted to the notification core of an owner (R98). -/
def Dev.post (d : Dev) (owner : Nat) (f : Core → Core) : Dev :=
  match d.notifyCore owner with
  | none => d
  | some c => d.setCore (f (d.coreAt c))

/-- An orphaned write of an owner still waits for its report (R98, R177). -/
def Dev.unreported (d : Dev) (owner : Nat) : Bool :=
  d.clusters.toList.any fun c => c.orphans.any fun o => decide (o.owner = owner) && !o.reported

/-- ORPHAN is pending at the owner's notification core while a report waits (R98). -/
def Dev.postOrphan (d : Dev) (owner : Nat) : Dev :=
  d.post owner fun c => { c with ipend := { c.ipend with orphan := d.unreported owner } }

/-- A write that was refused after it retired: held in the slice, and ORPHAN posted (R98, R177). -/
def Dev.addOrphan (d : Dev) (k : Fin 32) (o : Orphan) : Dev :=
  (d.setCluster k { d.clusters[k] with orphans := d.clusters[k].orphans ++ [o] }).postOrphan o.owner

/-- A cluster has room for another orphaned write (R177). -/
def Dev.orphanRoom (d : Dev) (k : Fin 32) : Bool := decide (d.clusters[k].orphans.length < Config.orphanDepth)

/-- An access enters the hold queue of the cluster, or its core stalls while the queue is full (R156). -/
def Dev.hold (d : Dev) (h : HeldAccess) : Act :=
  if d.clusters[d.cluster].hold.length < Config.holdDepth then .ok (d.enterHold d.cluster h) else .error (.wait 0xC)

/-- CELL (R402). -/
def Dev.cellTrap {α : Type} (d : Dev) (va : Word) (reason : BitVec 4) : Except Stop α := d.trap 0x0D va (zext reason)

/-- A store at a home: DEC pages refuse it (R399), and a remote home may refuse it after it has retired (R133, R177). -/
def Dev.homeStore (d : Dev) (lv : Level) (va : Word) (e : Word) (pa : Nat) (bs : List Byte) : Act :=
  if pteDec e then d.cellTrap va 4
  else if remoteRefuses e then
    if d.orphanRoom d.cluster then
      .ok (d.addOrphan d.cluster { owner := d.owner, core := d.core.id, level := lv, va := va, kid := d.core.kid, red := none, bytes := bs,
                                      reported := false })
    else .error (.wait 0xC)
  else .ok (d.sliceStore d.cluster d.core.id d.owner d.core.kid lv va (leafDev e) pa (grainBytes e) bs)

/-- A store of bytes by the current core at a privilege level; fe is the .fe qualifier. -/
def Dev.store (d : Dev) (lv : Level) (va : Word) (bs : List Byte) (fe : Bool) : Act :=
  match d.place lv .store va bs.length fe with
  | .error e => .error e
  | .ok .held => d.hold (.store d.core.id d.owner d.core.kid lv va bs)
  | .ok (.home e pa) =>
    if d.heldOver d.core.id va bs.length then d.hold (.store d.core.id d.owner d.core.kid lv va bs) else d.homeStore lv va e pa bs
  | .ok (.unit off) =>
    -- a store to an event word is a release at .cl (R318)
    if 0x2000 ≤ off ∧ off < 0x2800 ∧ d.holdsAny d.core.id = true then .error (.wait 0x4)
    else
    match (d.clusters[d.cluster].unit).write (d.unitRef d.cluster) off (BitVec.ofNat 64 (leNat bs)) with
    | none => d.refuse va .store
    | some u => .ok (d.setUnit d.cluster u)
  | .ok (.pad c win off) => .ok (d.padStore c win off va bs fe)

-- Order codes (R59, R60).

def MemOrder.acquires : MemOrder → Bool
  | .acq | .ar => true
  | .none | .rel => false
def MemOrder.releases : MemOrder → Bool
  | .rel | .ar => true
  | .none | .acq => false
/-- A scope at which an acquire load returns only committed values (R58). -/
def wideScope : MemScope → Bool
  | .core | .cl => false
  | .die | .dev | .pod => true
def acquiring (o : MemOrder) : Bool := MemOrder.acquires o
def releasing (o : MemOrder) : Bool := MemOrder.releases o

/-- What a release waits for (R60, R64, R156). -/
def Dev.release (d : Dev) (scope : MemScope) : Act :=
  if d.holdsAny d.core.id then .error (.wait 0x4) else .ok (d.awaitAcks d.cluster scope)

/-- The release part of an access that carries an order code. -/
def Dev.releaseIf (d : Dev) (o : MemOrder) (scope : MemScope) : Act := if releasing o then d.release scope else .ok d

-- Fetching (R41, R136, R152).

/-- What a fetch reads: the copy of the core's instruction cache, or the committed bytes, under the cluster's own stores (R16; log 7). -/
def Dev.fetchBytes (d : Dev) (dev : Option (BitVec 12)) (pa : Nat) : List Byte :=
  d.overlay d.cluster dev pa
    (match d.codeFor d.cluster d.core.id dev pa with
      | some c => c.slice pa 4
      | none => d.homeRead dev pa 4)

/-- The instruction cache of the current core lacks the word that a fetch needs: the grain comes first, from the slice or by the slice's miss at
the home, which combines and fills it (R16, R144, R174). Grains of cells are not filled (R399). -/
def Dev.fetchMisses (d : Dev) (e : Word) (pa : Nat) : Bool := !pteDec e && (d.codeFor d.cluster d.core.id (leafDev e) pa).isNone

/-- A copy of the slice enters the instruction cache of the current core. -/
def Dev.keepCode (d : Dev) (e : Word) (pa : Nat) : Dev :=
  match d.copyFor d.cluster (leafDev e) pa 4 with
  | none => d
  | some c => (d.touch c).keepCopy { c with core := some d.core.id, code := true }

def Dev.fetchFill (d : Dev) (e : Word) (pa : Nat) : Dev :=
  if (d.copyFor d.cluster (leafDev e) pa 4).isSome then d.keepCode e pa
  else ((d.event d.owner 0x02).fillGrain d.cluster none (leafDev e) pa (grainBytes e) (!pteSl e) false).keepCode e pa

/-- The structure that reports an uncorrectable error on a fetch: of the word, or of the grain that a miss would fill. What a copy supplies
meets none. -/
def Dev.badFetch (d : Dev) (e : Word) (pa : Nat) : Option (BitVec 3) :=
  if (d.codeFor d.cluster d.core.id (leafDev e) pa).isSome || (d.copyFor d.cluster (leafDev e) pa 4).isSome then none
  else if pteDec e then d.badAt (leafDev e) pa 4
  else d.badAt (leafDev e) (grainBase pa (grainBytes e)) (grainBytes e)

/-- A fault on fetching the word at an address (R41): EPC and FADDR hold the address. -/
def fetchTrap {α : Type} (epc addr : Word) (code : BitVec 6) (finfo : Word) : Except Stop α :=
  .error (.trap { code := code, epc := epc, faddr := addr, finfo := finfo, async := false, defer := false })

/-- The word at an address, fetched by the current core at a level; epc is where a fault resumes. -/
def Dev.fetchAt (d : Dev) (lv : Level) (epc addr : Word) : Except Stop Word32 :=
  if addr.toNat % 4 ≠ 0 then fetchTrap epc addr 0x03 0x22
  else if inLocalRange addr then fetchTrap epc addr 0x05 (if inWindow addr then 0x23 else 0x22)
  else
    match d.translate d.cluster d.owner lv .fetch addr with
    | .fault c fi => d.faults epc addr c fi
    | .held => .error (d.queued addr)
    | .miss => .error (.left (d.walked addr) 0xC)
    | .ok e pa =>
      if remoteRefuses e then fetchTrap epc addr 0x05 0x22
      else
        match d.badFetch e pa with
        | some place => fetchTrap epc addr 0x09 (zext place)
        | none =>
        if d.fetchMisses e pa then .error (.left (d.fetchFill e pa) 0x1)
        else
        match d.fetchBytes (leafDev e) pa with
        | [b0, b1, b2, b3] => .ok (bytesWord b0 b1 b2 b3)
        | _ => .error (.wait 0x1)

/-- What a fetch of an address would have to wait for, its walk and its miss, is done first. -/
def Dev.warmed (d : Dev) (lv : Level) (addr : Word) : Dev :=
  let once (e : Dev) : Dev :=
    match e.fetchAt lv addr addr with
    | .error (.left x _) => x
    | .error (.wait _) | .error (.trap _) | .error (.walkedTrap _ _) | .ok _ => e
  once (once d)

/-- The word at the pc. -/
def Dev.fetch (d : Dev) : Except Stop Word32 := d.fetchAt d.core.status.pl d.core.pc d.core.pc

/-- A step of an engine of a core, taken with that core as the current one. -/
def Dev.onCore (d : Dev) (core : Nat) (f : Dev → Dev) : Dev := (f (d.switchTo core)).switchTo d.core.id

/-- An engine does nothing while its core is halted (R330). -/
def Dev.engineOf (d : Dev) (core : Nat) (f : Dev → Dev) : Dev := if (d.coreAt core).halt.isSome then d else d.onCore core f

end Sys2Proof.Machine
end

