-- ==== Sys2Proof/Machine/Sys.lean ====
section
/-! DEFINITION. The SYS group but for ERET (R123 to R126), control registers (R86 to R90, R98 to R101, R228). -/
namespace Sys2Proof.Machine

/-- A level that a compute core holds (R86). -/
def levelOf (c : BitVec 2) : Option Level := if c = 0 then some .user else if c = 1 then some .supervisor else none

/-- IPEND (R98). -/
def Core.ipendWord (c : Core) : Word :=
  zext (boolBit (!c.uncorr.isEmpty) ++ boolBit c.ipend.stop ++ boolBit c.ipend.preempt ++ boolBit c.ipend.orphan
    ++ boolBit c.ipend.minima)
def Frst.word (f : Frst) : Word := zext (boolBit f.act ++ f.rep ++ f.pos)
/-- A bit of IPEND is set (R124). -/
def Core.anyPending (c : Core) : Bool :=
  !c.uncorr.isEmpty || c.ipend.stop || c.ipend.preempt || c.ipend.orphan || c.ipend.minima

/-- What CRD writes for each register (R88, R126). -/
def Dev.readCreg (d : Dev) (now : Nat) (r : CReg) : Word :=
  match r with
  | .status => d.core.statusWord
  | .cause => d.core.cause.word
  | .epc => d.core.epc
  | .faddr => d.core.faddr
  | .finfo => d.core.finfo
  | .tvec => d.core.tvec
  | .tstack => d.core.tstack
  | .kscr => d.core.kscr
  | .savearea => d.core.savearea
  | .ctxbuf => d.core.ctxbuf
  | .ipend => d.core.ipendWord
  | .frst => d.core.frst.word
  | .fflags => d.core.fflags.word
  | .coreid => coreidOf d.deviceId d.core.id
  | .owner => zext (d.gen ++ 0#2 ++ BitVec.ofNat 6 d.owner)
  | .gcycle => BitVec.ofNat 64 now

/-- A register that user level may read or write (R88). -/
def userCreg : CReg → Bool
  | .fflags | .coreid | .owner | .gcycle => true
  | .status | .cause | .epc | .faddr | .finfo | .tvec | .tstack | .kscr | .savearea | .ctxbuf | .ipend | .frst => false

/-- A write of a register other than STATUS and FFLAGS (R88, R90, R99 to R101): reserved bits and registers without a write level
are discarded. -/
def Core.writeCreg (c : Core) (r : CReg) (x : Word) : Core :=
  match r with
  | .cause => { c with cause := { defer := bit x 7, async := bit x 6, code := x.extractLsb' 0 6 } }
  | .epc => { c with epc := x }
  | .faddr => { c with faddr := x }
  | .finfo => { c with finfo := x }
  | .tvec => { c with tvec := x &&& ~~~ 3 }
  | .tstack => { c with tstack := x }
  | .kscr => { c with kscr := x }
  | .savearea => { c with savearea := x &&& 0x0FF3FC00 }
  | .ctxbuf => { c with ctxbuf := x &&& ~~~ 0xFF }
  | .frst => { c with frst := { act := bit x 12, rep := x.extractLsb' 4 8, pos := x.extractLsb' 0 4 } }
  | .status | .ipend | .fflags | .coreid | .owner | .gcycle => c

def execNop (s : State) : Result State := .next (s.withDev s.d.advance)

/-- SWTRAP and BREAK (R95, R125). -/
def Dev.softTrap (d : Dev) (code : BitVec 6) (imm : BitVec 10) : Act :=
  .error (.trap { code := code, epc := d.core.pc + 4, faddr := d.core.pc, finfo := zext imm, async := false, defer := false })
def Dev.breakTrap (d : Dev) (imm : BitVec 10) : Act := d.trap 0x12 d.core.pc (zext imm)

def execTrap (code : BitVec 10) (s : State) : Result State := finish s (s.d.softTrap 0x11 code)
def execBrk (code : BitVec 10) (s : State) : Result State := finish s (s.d.breakTrap code)

/-- CRD (R126). -/
def Dev.doCrd (d : Dev) (now : Nat) (rd : SReg) (r : CReg) : Act :=
  if userCreg r then .ok (d.wr rd (d.readCreg now r)).advance
  else d.needSupervisor (encS 0x2F rd 0 4 r.code) (.ok (d.wr rd (d.readCreg now r)).advance)

def execCrd (rd : SReg) (r : CReg) (s : State) : Result State := finish s (s.d.doCrd s.gcycle rd r)
def execCrdFflags (rd : SReg) (s : State) : Result State := setS s rd s.d.core.fflags.word

/-- CWR of a register other than STATUS and FFLAGS (R126). IPEND is readable at supervisor level only and has no write level: at
user level its CWR raises PRIV, as its CRD does (log 11). -/
def Dev.doCwr (d : Dev) (r : CReg) (ra : SReg) : Act :=
  let k : Act := .ok ({ d with core := d.core.writeCreg r (d.rd ra) }).advance
  if userCreg r then k else d.needSupervisor (encS 0x2F 0 ra 5 r.code) k

def execCwr (r : CReg) (ra : SReg) (s : State) : Result State := finish s (s.d.doCwr r ra)

/-- CWR of STATUS (R86, R89, R93, R126). -/
def Dev.doCwrStatus (d : Dev) (ra : SReg) : Act :=
  let w := encS 0x2F 0 ra 5 0x000
  let x := d.rd ra
  d.needSupervisor w <|
    match levelOf (x.extractLsb' 0 2), levelOf (x.extractLsb' 4 2) with
    | some pl, some ppl =>
      .ok ({ d with core := { d.core with status := { cons := bit x 6, ppl := ppl, pie := bit x 3, ie := bit x 2, pl := pl } } }).advance
    | _, _ => d.priv w 2#2

def execCwrStatus (ra : SReg) (s : State) : Result State := finish s (s.d.doCwrStatus ra)

def execCwrFflags (ra : SReg) (s : State) : Result State :=
  .next (s.withDev ({ s.d with core := { s.d.core with fflags := Flags.ofWord (s.d.rd ra) } }).advance)

/-- HALT (R124): it completes once a bit of IPEND is set; until then the core is clock-gated. -/
def Dev.doHalt (d : Dev) : Act :=
  d.notInGang <|
    if d.core.anyPending then .ok ({ d with core := { d.core with run := .running } }).advance
    else .ok { d with core := { d.core with run := .halted, stall := 0xF } }

def execHalt (s : State) : Result State := finish s s.d.doHalt

end Sys2Proof.Machine
end

