-- ==== Sys2Proof/Machine/VectorCvt.lean ====
section
/-! DEFINITION. VCVT (R254, R255). -/
namespace Sys2Proof.Machine

/-- One element converted from type s to type t (R255). -/
def convertElem (t s : Ty) (m : Mode) (x : Nat) : Nat × Flags :=
  if s.isInt then
    let i := intOf (tySigned s) s.bits x
    if t.isInt then (if s.bits < t.bits then modW t.bits i else saturate (tySigned t) t.bits i, Flags.none)
    else (tyFmt t).round m (.ofInt i)
  else if t.isInt then
    let r := toIntegerType (tySigned t) t.bits m ((tyFmt s).decode x)
    (modW t.bits r.1, r.2)
  else (tyFmt t).convert (tyFmt s) m x

/-- The element of the source that destination element k comes from, while it is one of the part p and is governed on (R254). -/
def cvtSource (t s : Ty) (p : Nat) (on : PWord) (k : Nat) : Option Nat :=
  let c := 8 * Config.vwidth / max t.bits s.bits
  if t.bits < s.bits then
    (if p * c ≤ k ∧ k < p * c + c ∧ laneOn on s.bits (k - p * c) = true then some (k - p * c) else none)
  else if laneOn on t.bits k = true then some (if s.bits < t.bits then p * c + k else k) else none

/-- VCVT: the elements of the part convert, every other element of vd keeps its value. -/
def Dev.vcvt (d : Dev) (t s : Ty) (rm : Rm) (part : BitVec 3) (pg : PReg) (vd va : VReg) : Dev :=
  let on := d.rdP pg
  let a := d.rdV va
  let old := d.rdV vd
  let rs := (List.range (lanes t.bits)).map fun k =>
    match cvtSource t s part.toNat on k with
    | some j => convertElem t s (modeOf rm) (elem s.bits a j)
    | none => (elem t.bits old k, Flags.none)
  (d.wrV vd (ofElems t.bits (rs.map (·.1)))).raise (allFlags rs)

def execVcvt (t s : Ty) (rm : Rm) (part : BitVec 3) (pg : PReg) (vd va : VReg) (st : State) : Result State :=
  vecNext st (st.d.vcvt t s rm part pg vd va)

end Sys2Proof.Machine
end

