-- ==== Sys2Proof/Machine/VDraw.lean ====
section
/-! DEFINITION. The vector forms of DRAW (R257 to R259). x is the index register's value; every lane is written. -/
namespace Sys2Proof.Machine

/-- The draw of lane i: fount(key, (x + i) mod 2^32). -/
def laneDraw (key x : Word) (i : Nat) : Word32 := fount key (BitVec.ofNat 32 (x.toNat + i))

def drawWord (key x : Word) (i : Nat) : Nat := (laneDraw key x i).toNat
def drawByte (key x : Word) (i : Nat) : Nat :=
  let e := (x.toNat + i) % 2 ^ 64
  (fount key (BitVec.ofNat 32 (e / 4))).toNat / 2 ^ (8 * (e % 4)) % 256
/-- (draw >> 8) x 2^-24 as FP32. -/
def drawUniform (key x : Word) (i : Nat) : Nat :=
  (Fmt.f32.round .rne { neg := false, num := (laneDraw key x i).toNat / 256, den := 2 ^ 24 }).1

/-- T of R258: the FP32 values that RNE gives for -ln(-ln((j + 0.5)/33)). -/
def gumbelTable : List Nat :=
  [0xBFB7600A, 0xBF9072F7, 0xBF72A7D5, 0xBF4EE2AB, 0xBF307993, 0xBF154C78, 0xBEF87CB7, 0xBEC947C4, 0xBE9C1738, 0xBE60927E,
    0xBE0AC5CD, 0xBD580ADE, 0x3CF2F23C, 0x3DE5E507, 0x3E4845B1, 0x3E8F7050, 0x3EBBA795, 0x3EE912F4, 0x3F0C0220, 0x3F246C46,
    0x3F3DFE72, 0x3F58FA60, 0x3F75B18E, 0x3F8A45F8, 0x3F9B092D, 0x3FAD7FA8, 0x3FC22DFB, 0x3FD9DA97, 0x3FF5C357, 0x400C0BA0,
    0x4022A123, 0x40445806, 0x4085D332]

/-- The Gumbel noise of a draw (R258). -/
def gumbel (draw : Word32) : Nat :=
  let j := draw.toNat / 2 ^ 27
  let f := draw.toNat / 2 ^ 16 % 2048
  let lo := gumbelTable.getD j 0
  let diff := (Fmt.f32.fsub .rne (gumbelTable.getD (j + 1) 0) lo).1
  let t := (Fmt.f32.round .rne ((Fmt.f32.decode diff).exact.mul { neg := false, num := f, den := 2048 })).1
  (Fmt.f32.fadd .rne lo t).1

/-- A vector of draws: the element width and the element function of key, index and lane. -/
def Dev.vdrawn (d : Dev) (w : Nat) (f : Word → Word → Nat → Nat) (vd : VReg) (ds : BitVec 4) (x : Word) : Dev :=
  d.wrV vd (ofElems w ((List.range (lanes w)).map (f (d.rdDs ds) x)))

/-- VSRCVT (R259): stochastic rounding in place, packed from element 0. -/
def Dev.vsrcvt (d : Dev) (t s : Ty) (vd : VReg) (ds : BitVec 4) (x : Word) : Dev :=
  let v := d.rdV vd
  let k := if t.bits = 16 then 16 else 8
  let m := if t.bits = 16 then 2 else 4
  let rs := (List.range (lanes s.bits)).map fun i =>
    convertElem t s (drawMode true (d.rdDs ds) k m ((x.toNat + i) % 2 ^ 64)) (elem s.bits v i)
  (d.wrV vd (ofElems t.bits (rs.map (·.1)))).raise (allFlags rs)

def gumbelLane (key x : Word) (i : Nat) : Nat := gumbel (laneDraw key x i)

def execVdraw (vd : VReg) (ds : BitVec 4) (ra : SReg) (s : State) : Result State :=
  vecNext s (s.d.vdrawn 32 drawWord vd ds (s.d.rd ra))
def execVdrawb (vd : VReg) (ds : BitVec 4) (ra : SReg) (s : State) : Result State :=
  vecNext s (s.d.vdrawn 8 drawByte vd ds (s.d.rd ra))
def execVdrawu (vd : VReg) (ds : BitVec 4) (ra : SReg) (s : State) : Result State :=
  vecNext s (s.d.vdrawn 32 drawUniform vd ds (s.d.rd ra))
def execVnoiseG (vd : VReg) (ds : BitVec 4) (ra : SReg) (s : State) : Result State :=
  vecNext s (s.d.vdrawn 32 gumbelLane vd ds (s.d.rd ra))
def execVsrcvtBf16F32 (vd : VReg) (ds : BitVec 4) (ra : SReg) (s : State) : Result State :=
  vecNext s (s.d.vsrcvt .bf16 .f32 vd ds (s.d.rd ra))
def execVsrcvtF16F32 (vd : VReg) (ds : BitVec 4) (ra : SReg) (s : State) : Result State :=
  vecNext s (s.d.vsrcvt .f16 .f32 vd ds (s.d.rd ra))
def execVsrcvtE4m3F32 (vd : VReg) (ds : BitVec 4) (ra : SReg) (s : State) : Result State :=
  vecNext s (s.d.vsrcvt .e4m3 .f32 vd ds (s.d.rd ra))
def execVsrcvtE5m2F32 (vd : VReg) (ds : BitVec 4) (ra : SReg) (s : State) : Result State :=
  vecNext s (s.d.vsrcvt .e5m2 .f32 vd ds (s.d.rd ra))
def execVsrcvtE2m1F32 (vd : VReg) (ds : BitVec 4) (ra : SReg) (s : State) : Result State :=
  vecNext s (s.d.vsrcvt .e2m1 .f32 vd ds (s.d.rd ra))
def execVsrcvtE4m3F16 (vd : VReg) (ds : BitVec 4) (ra : SReg) (s : State) : Result State :=
  vecNext s (s.d.vsrcvt .e4m3 .f16 vd ds (s.d.rd ra))
def execVsrcvtE5m2F16 (vd : VReg) (ds : BitVec 4) (ra : SReg) (s : State) : Result State :=
  vecNext s (s.d.vsrcvt .e5m2 .f16 vd ds (s.d.rd ra))
def execVsrcvtE4m3Bf16 (vd : VReg) (ds : BitVec 4) (ra : SReg) (s : State) : Result State :=
  vecNext s (s.d.vsrcvt .e4m3 .bf16 vd ds (s.d.rd ra))

end Sys2Proof.Machine
end

