-- ==== Sys2Proof/Machine/VMove.lean ====
section
/-! DEFINITION. VMOVE (R256). The functions take the values of the scalar sources, which a FRAME captures (R261). -/
namespace Sys2Proof.Machine

def Dev.vmov (d : Dev) (pg : PReg) (vd va : VReg) : Dev :=
  let a := d.rdV va
  d.writeElems 8 pg vd (elem 8 a)
def Dev.vdup (d : Dev) (z : ESize) (pg : PReg) (vd : VReg) (x : Word) : Dev :=
  d.writeElems (esizeBits z) pg vd fun _ => x.toNat % 2 ^ esizeBits z
def Dev.vins (d : Dev) (z : ESize) (vd : VReg) (x y : Word) : Dev :=
  let w := esizeBits z
  d.writeElems w 0 vd fun i => if i = y.toNat then x.toNat % 2 ^ w else elem w (d.rdV vd) i
/-- The element that VEXTR writes. -/
def vextrOf (z : ESize) (v : VWord) (y : Word) : Word :=
  if y.toNat < lanes (esizeBits z) then BitVec.ofNat 64 (elem (esizeBits z) v y.toNat) else 0
def Dev.vextr (d : Dev) (z : ESize) (rd : SReg) (va : VReg) (y : Word) : Dev := d.wr rd (vextrOf z (d.rdV va) y)
def Dev.vidx (d : Dev) (z : ESize) (pg : PReg) (vd : VReg) (x y : Word) : Dev :=
  d.writeElems (esizeBits z) pg vd fun i => (x.toNat + i * y.toNat) % 2 ^ esizeBits z
def Dev.vwidth (d : Dev) (rd : SReg) : Dev := d.wr rd (BitVec.ofNat 64 Config.vwidth)

def execVmov (pg : PReg) (vd va : VReg) (s : State) : Result State := vecNext s (s.d.vmov pg vd va)
def execVdup (z : ESize) (pg : PReg) (vd : VReg) (ra : SReg) (s : State) : Result State :=
  vecNext s (s.d.vdup z pg vd (s.d.rd ra))
def execVins (z : ESize) (vd : VReg) (ra rb : SReg) (s : State) : Result State :=
  vecNext s (s.d.vins z vd (s.d.rd ra) (s.d.rd rb))
def execVextr (z : ESize) (rd : SReg) (va : VReg) (rb : SReg) (s : State) : Result State :=
  vecNext s (s.d.vextr z rd va (s.d.rd rb))
def execVidx (z : ESize) (pg : PReg) (vd : VReg) (ra rb : SReg) (s : State) : Result State :=
  vecNext s (s.d.vidx z pg vd (s.d.rd ra) (s.d.rd rb))
def execVwidth (rd : SReg) (s : State) : Result State := vecNext s (s.d.vwidth rd)

end Sys2Proof.Machine
end

