-- ==== Sys2Proof/Machine/VectorFp.lean ====
section
/-! DEFINITION. VFP and VFMA (R247, R248): each element as the scalar instruction computes it, rounded by RNE. -/
namespace Sys2Proof.Machine

/-- An operation on element codes of a format, with the flags it raises. -/
abbrev FpOp := Fmt → Nat → Nat → Nat × Flags

def vfopAdd : FpOp := fun t a b => t.fadd .rne a b
def vfopSub : FpOp := fun t a b => t.fsub .rne a b
def vfopMul : FpOp := fun t a b => t.fmul .rne a b
def vfopDiv : FpOp := fun t a b => t.fdiv .rne a b
def vfopSqrt : FpOp := fun t a _ => t.fsqrt .rne a
def vfopMin : FpOp := fun t a b => t.fmin a b
def vfopMax : FpOp := fun t a b => t.fmax a b
def vfopCopysg : FpOp := fun t a b => (t.fcopysg a b, Flags.none)
def vfopNeg : FpOp := fun t a _ => (t.fneg a, Flags.none)
def vfopAbs : FpOp := fun t a _ => (t.fabs a, Flags.none)
def vfopKind : FpOp := fun t a _ => (t.fkind a, Flags.none)

/-- One VFP of two sources (R247). -/
def Dev.vfp (d : Dev) (f : FFmt) (op : FpOp) (pg : PReg) (vd va vb : VReg) : Dev :=
  let t := fmtOf f
  let a := d.rdV va
  let b := d.rdV vb
  d.writeResults t.w pg vd fun i => op t (elem t.w a i) (elem t.w b i)

/-- One VFP of one source; the operation ignores b. -/
def Dev.vfp1 (d : Dev) (f : FFmt) (op : FpOp) (pg : PReg) (vd va : VReg) : Dev :=
  let t := fmtOf f
  let a := d.rdV va
  d.writeResults t.w pg vd fun i => op t (elem t.w a i) 0

/-- VFMA, and VFMS when sub holds (R248). -/
def Dev.vfma (d : Dev) (f : FFmt) (sub : Bool) (pg : PReg) (vd va vb vc : VReg) : Dev :=
  let t := fmtOf f
  let a := d.rdV va
  let b := d.rdV vb
  let c := d.rdV vc
  d.writeResults t.w pg vd fun i =>
    if sub then t.fmsub .rne (elem t.w a i) (elem t.w b i) (elem t.w c i)
    else t.fmadd .rne (elem t.w a i) (elem t.w b i) (elem t.w c i)

def execVfadd (f : FFmt) (pg : PReg) (vd va vb : VReg) (s : State) : Result State := vecNext s (s.d.vfp f vfopAdd pg vd va vb)
def execVfsub (f : FFmt) (pg : PReg) (vd va vb : VReg) (s : State) : Result State := vecNext s (s.d.vfp f vfopSub pg vd va vb)
def execVfmul (f : FFmt) (pg : PReg) (vd va vb : VReg) (s : State) : Result State := vecNext s (s.d.vfp f vfopMul pg vd va vb)
def execVfdiv (f : FFmt) (pg : PReg) (vd va vb : VReg) (s : State) : Result State := vecNext s (s.d.vfp f vfopDiv pg vd va vb)
def execVfsqrt (f : FFmt) (pg : PReg) (vd va : VReg) (s : State) : Result State := vecNext s (s.d.vfp1 f vfopSqrt pg vd va)
def execVfmin (f : FFmt) (pg : PReg) (vd va vb : VReg) (s : State) : Result State := vecNext s (s.d.vfp f vfopMin pg vd va vb)
def execVfmax (f : FFmt) (pg : PReg) (vd va vb : VReg) (s : State) : Result State := vecNext s (s.d.vfp f vfopMax pg vd va vb)
def execVfcopysg (f : FFmt) (pg : PReg) (vd va vb : VReg) (s : State) : Result State :=
  vecNext s (s.d.vfp f vfopCopysg pg vd va vb)
def execVfneg (f : FFmt) (pg : PReg) (vd va : VReg) (s : State) : Result State := vecNext s (s.d.vfp1 f vfopNeg pg vd va)
def execVfabs (f : FFmt) (pg : PReg) (vd va : VReg) (s : State) : Result State := vecNext s (s.d.vfp1 f vfopAbs pg vd va)
def execVfkind (f : FFmt) (pg : PReg) (vd va : VReg) (s : State) : Result State := vecNext s (s.d.vfp1 f vfopKind pg vd va)
def execVfma (f : FFmt) (pg : PReg) (vd va vb vc : VReg) (s : State) : Result State :=
  vecNext s (s.d.vfma f false pg vd va vb vc)
def execVfms (f : FFmt) (pg : PReg) (vd va vb vc : VReg) (s : State) : Result State :=
  vecNext s (s.d.vfma f true pg vd va vb vc)

end Sys2Proof.Machine
end

