-- ==== Sys2Proof/Machine/VectorInt.lean ====
section
/-! DEFINITION. VINT (R246). -/
namespace Sys2Proof.Machine

/-- An element operation: signedness, width, a and b. -/
abbrev IntOp := Bool → Nat → Nat → Nat → Nat

def vopAdd : IntOp := fun _ w a b => (a + b) % 2 ^ w
def vopSub : IntOp := fun _ w a b => (a + 2 ^ w - b) % 2 ^ w
def vopMul : IntOp := fun _ w a b => a * b % 2 ^ w
def vopMulh : IntOp := fun s w a b => modW w (intOf s w a * intOf s w b / 2 ^ w)
def vopMin : IntOp := fun s w a b => if intOf s w b < intOf s w a then b else a
def vopMax : IntOp := fun s w a b => if intOf s w a < intOf s w b then b else a
def vopAnd : IntOp := fun _ _ a b => a &&& b
def vopOr : IntOp := fun _ _ a b => a ||| b
def vopXor : IntOp := fun _ _ a b => a ^^^ b
def vopAndn : IntOp := fun _ w a b => a &&& (2 ^ w - 1 - b)
def vopSll : IntOp := fun _ w a b => a * 2 ^ (b % w) % 2 ^ w
def vopSrl : IntOp := fun _ w a b => a / 2 ^ (b % w)
def vopSra : IntOp := fun _ w a b => modW w (intOf true w a / 2 ^ (b % w))
def vopAdds : IntOp := fun s w a b => saturate s w (intOf s w a + intOf s w b)
def vopSubs : IntOp := fun s w a b => saturate s w (intOf s w a - intOf s w b)
def vopAbsd : IntOp := fun s w a b => (intOf s w a - intOf s w b).natAbs
def vopAvg : IntOp := fun s w a b => modW w ((intOf s w a + intOf s w b + 1) / 2)
def vopNeg : IntOp := fun _ w a _ => (2 ^ w - a) % 2 ^ w
def vopAbs : IntOp := fun s w a _ => (intOf s w a).natAbs
def vopPopc : IntOp := fun _ w a _ => popcAux (BitVec.ofNat 64 a) w

/-- One VINT of two sources (R239, R246). -/
def Dev.vint (d : Dev) (t : ITy) (f : IntOp) (pg : PReg) (vd va vb : VReg) : Dev :=
  let w := ityBits t
  let a := d.rdV va
  let b := d.rdV vb
  d.writeElems w pg vd fun i => f (itySigned t) w (elem w a i) (elem w b i)

/-- One VINT of one source; the operation ignores b. -/
def Dev.vint1 (d : Dev) (t : ITy) (f : IntOp) (pg : PReg) (vd va : VReg) : Dev :=
  let w := ityBits t
  let a := d.rdV va
  d.writeElems w pg vd fun i => f (itySigned t) w (elem w a i) 0

def execVadd (t : ITy) (pg : PReg) (vd va vb : VReg) (s : State) : Result State := vecNext s (s.d.vint t vopAdd pg vd va vb)
def execVsub (t : ITy) (pg : PReg) (vd va vb : VReg) (s : State) : Result State := vecNext s (s.d.vint t vopSub pg vd va vb)
def execVmul (t : ITy) (pg : PReg) (vd va vb : VReg) (s : State) : Result State := vecNext s (s.d.vint t vopMul pg vd va vb)
def execVmulh (t : ITy) (pg : PReg) (vd va vb : VReg) (s : State) : Result State := vecNext s (s.d.vint t vopMulh pg vd va vb)
def execVmin (t : ITy) (pg : PReg) (vd va vb : VReg) (s : State) : Result State := vecNext s (s.d.vint t vopMin pg vd va vb)
def execVmax (t : ITy) (pg : PReg) (vd va vb : VReg) (s : State) : Result State := vecNext s (s.d.vint t vopMax pg vd va vb)
def execVand (t : ITy) (pg : PReg) (vd va vb : VReg) (s : State) : Result State := vecNext s (s.d.vint t vopAnd pg vd va vb)
def execVor (t : ITy) (pg : PReg) (vd va vb : VReg) (s : State) : Result State := vecNext s (s.d.vint t vopOr pg vd va vb)
def execVxor (t : ITy) (pg : PReg) (vd va vb : VReg) (s : State) : Result State := vecNext s (s.d.vint t vopXor pg vd va vb)
def execVandn (t : ITy) (pg : PReg) (vd va vb : VReg) (s : State) : Result State := vecNext s (s.d.vint t vopAndn pg vd va vb)
def execVsll (t : ITy) (pg : PReg) (vd va vb : VReg) (s : State) : Result State := vecNext s (s.d.vint t vopSll pg vd va vb)
def execVsrl (t : ITy) (pg : PReg) (vd va vb : VReg) (s : State) : Result State := vecNext s (s.d.vint t vopSrl pg vd va vb)
def execVsra (t : ITy) (pg : PReg) (vd va vb : VReg) (s : State) : Result State := vecNext s (s.d.vint t vopSra pg vd va vb)
def execVadds (t : ITy) (pg : PReg) (vd va vb : VReg) (s : State) : Result State := vecNext s (s.d.vint t vopAdds pg vd va vb)
def execVsubs (t : ITy) (pg : PReg) (vd va vb : VReg) (s : State) : Result State := vecNext s (s.d.vint t vopSubs pg vd va vb)
def execVabsd (t : ITy) (pg : PReg) (vd va vb : VReg) (s : State) : Result State := vecNext s (s.d.vint t vopAbsd pg vd va vb)
def execVavg (t : ITy) (pg : PReg) (vd va vb : VReg) (s : State) : Result State := vecNext s (s.d.vint t vopAvg pg vd va vb)
def execVneg (t : ITy) (pg : PReg) (vd va : VReg) (s : State) : Result State := vecNext s (s.d.vint1 t vopNeg pg vd va)
def execVabs (t : ITy) (pg : PReg) (vd va : VReg) (s : State) : Result State := vecNext s (s.d.vint1 t vopAbs pg vd va)
def execVpopc (t : ITy) (pg : PReg) (vd va : VReg) (s : State) : Result State := vecNext s (s.d.vint1 t vopPopc pg vd va)

end Sys2Proof.Machine
end

