-- ==== Sys2Proof/Machine/VectorMem.lean ====
section
/-! DEFINITION. VLD and VST (R244, R245). The address functions take the values of the scalar sources, which a FRAME captures. -/
namespace Sys2Proof.Machine

/-- The addresses of element i in the four modes (R244), x = S[ra] and y = S[rb]. -/
def unitAddr (n : Nat) (x y : Word) (i : Nat) : Word := x + y + BitVec.ofNat 64 (i * n)
def strideAddr (x y : Word) (i : Nat) : Word := x + BitVec.ofNat 64 i * y
def indexAddr (n : Nat) (x : Word) (v : VWord) (i : Nat) : Word :=
  x + BitVec.ofInt 64 (intOf true (8 * n) (elem (8 * n) v i)) * BitVec.ofNat 64 n
def repeatAddr (x y : Word) (_ : Nat) : Word := x + y

/-- The advance of a replay: r x A while ADV is set (R244). -/
def advanced (adv : Bool) (r : Nat) (a : Word) (f : Nat → Word) (i : Nat) : Word :=
  if adv then f i + BitVec.ofNat 64 r * a else f i

/-- Bytes of an element size. -/
def esizeBytes (z : ESize) : Nat := esizeBits z / 8

/-- The check of one element of a load or store (R163, R164, R245). -/
def Dev.checkElem (d : Dev) (lv : Level) (kind : AccessKind) (va : Word) (n : Nat) (qualified : Bool) : Except Stop Unit :=
  match d.place lv kind va n qualified with
  | .error e => .error e
  | .ok (.home e _) =>
    if decide (kind = .store) && pteDec e then d.cellTrap va 4
    else if decide (kind = .load) && remoteRefuses e then d.refuse va .load
    else .ok ()
  | .ok _ => .ok ()

/-- The first failure of the elements in ascending order (R245). -/
def Dev.checkElems (d : Dev) (lv : Level) (kind : AccessKind) (n : Nat) (qualified : Bool) : List Word → Except Stop Unit
  | [] => .ok ()
  | a :: t =>
    match d.checkElem lv kind a n qualified with
    | .error e => .error e
    | .ok _ => d.checkElems lv kind n qualified t

/-- The scratchpad that an address names, if it names one: core, window, offset. -/
def Dev.padOf (d : Dev) (lv : Level) (n : Nat) (va : Word) : Option (Nat × Nat × Nat) :=
  match d.place lv .load va n true with
  | .ok (.pad c win off) => some (c, win, off)
  | .ok _ | .error _ => none

/-- The granules of every active element that a qualifier waits for are full (R139, R245). -/
def Dev.elemsReady (d : Dev) (lv : Level) (n : Nat) (fq : Fe) (as : List Word) : Bool :=
  as.all fun a =>
    match d.padOf lv n a with
    | none => true
    | some p => d.feReady p.1 fq (windowGranules (d.coreAt p.1) d.gen p.2.1 p.2.2 n)

/-- The granules of every active element cleared, with .fc (R139, R245). -/
def Dev.elemsClear (d : Dev) (lv : Level) (n : Nat) (as : List Word) : Dev :=
  as.foldl (fun e a =>
    match d.padOf lv n a with
    | none => e
    | some p =>
      let c := e.coreAt p.1
      e.setCore { c with pad := c.pad.clearFull (windowGranules c e.gen p.2.1 p.2.2 n) }) d

/-- The elements loaded in order, none where the predicate is off. -/
def Dev.loadElems (lv : Level) (n : Nat) (addr : Nat → Word) (on : Nat → Bool) : List Nat → Dev → Except Stop (List (Option Nat) × Dev)
  | [], d => .ok ([], d)
  | i :: t, d =>
    if on i then
      match d.load lv (addr i) n .none false false with
      | .error e => .error e
      | .ok r => (Dev.loadElems lv n addr on t r.2).map fun q => (some (leNat r.1) :: q.1, q.2)
    else (Dev.loadElems lv n addr on t d).map fun q => (none :: q.1, q.2)

/-- VLD with its element addresses (R245). -/
def Dev.vload (d : Dev) (z : ESize) (fq : Fe) (pg : PReg) (vd : VReg) (addr : Nat → Word) : Act :=
  let n := esizeBytes z
  let w := esizeBits z
  let lv := d.core.status.pl
  let p := d.rdP pg
  let active := ((List.range (lanes w)).filter fun i => laneOn p w i).map addr
  match d.checkElems lv .load n (decide (fq ≠ .none)) active with
  | .error e => .error e
  | .ok _ =>
    if !d.elemsReady lv n fq active then .error (.wait 0x5)
    else
      match Dev.loadElems lv n addr (laneOn p w) (List.range (lanes w)) d with
      | .error e => .error e
      | .ok r =>
        let old := d.rdV vd
        let new := ofElems w (r.1.mapIdx fun i x => x.getD (elem w old i))
        .ok ((if fq = .fc then r.2.elemsClear lv n active else r.2).wrV vd new)

/-- The elements stored in ascending order. -/
def Dev.storeElems (lv : Level) (n : Nat) (fe : Bool) : List (Word × Nat) → Dev → Act
  | [], d => .ok d
  | x :: t, d =>
    match d.store lv x.1 (leBytes n x.2) fe with
    | .error e => .error e
    | .ok e => Dev.storeElems lv n fe t e

/-- Elements of one core and window that are written together: those of one region, whose blocks are each encoded once (R269). -/
structure PadGroup where
  core : Nat
  win : Nat
  region : Option Nat
  items : List (Word × Nat × List Byte)
  /-- The bytes of the scratchpad that they write, offset and length, and those of them that lie past the end of the view. -/
  ranges : List (Nat × Nat)
  tails : List (Nat × Nat)
  deriving DecidableEq, Repr

/-- Elements of one region of one core through one window. -/
def PadGroup.sameRegion (x y : PadGroup) : Bool :=
  x.region.isSome && decide (y.core = x.core) && decide (y.win = x.win) && decide (y.region = x.region)

/-- Two lists of ranges have a byte in common. -/
def rangesMeet (xs ys : List (Nat × Nat)) : Bool := xs.any fun a => ys.any fun b => overlap a.1 a.2 b.1 b.2

/-- Two groups write a byte in common. -/
def PadGroup.meets (x y : PadGroup) : Bool := decide (x.core = y.core) && rangesMeet x.ranges y.ranges

/-- A group with the elements of a later one. -/
def PadGroup.join (y x : PadGroup) : PadGroup :=
  { y with items := y.items ++ x.items, ranges := y.ranges ++ x.ranges, tails := y.tails ++ x.tails }

/-- One more element, after all before it: with the last group of its region, where no group between them writes a byte of the one that moves; else
by itself, as where the bytes past the view of an earlier one are bytes that it writes. So of bytes that two elements write the higher-numbered
one's remain, whatever windows they use, and a block is encoded once but where an element between two of its own overwrites it (R245, R269;
DEDUCED, log 7). -/
def PadGroup.add (x : PadGroup) : List PadGroup → List PadGroup
  | [] => [x]
  | y :: t =>
    if x.sameRegion y && !t.any x.sameRegion then
      if rangesMeet y.tails x.ranges then y :: (t ++ [x])
      else if !t.any x.meets then y.join x :: t else if !t.any y.meets then t ++ [y.join x] else y :: (t ++ [x])
    else y :: PadGroup.add x t

/-- The bytes of an access that lie past the view in which it is performed (R267). -/
def tailRanges (c : Core) (g : BitVec 8) (win o n : Nat) : List (Nat × Nat) :=
  match activeView c g win o with
  | none => []
  | some (_, t) => if o + n ≤ viewEnd win t then [] else [(viewEnd win t, o + n - viewEnd win t)]

/-- The elements that lie in scratchpads, in their order, those of each region together (R245, R269). -/
def Dev.storePads (d : Dev) (n : Nat) (fe : Bool) (xs : List ((Nat × Nat × Nat) × Word × Nat)) : Dev :=
  (xs.foldl (fun gs x =>
    PadGroup.add { core := x.1.1, win := x.1.2.1, region := (activeView (d.coreAt x.1.1) d.gen x.1.2.1 x.1.2.2).map (·.1)
                   items := [(x.2.1, x.1.2.2, leBytes n x.2.2)]
                   ranges := windowRanges (d.coreAt x.1.1) d.gen x.1.2.1 x.1.2.2 n
                   tails := tailRanges (d.coreAt x.1.1) d.gen x.1.2.1 x.1.2.2 n } gs) []).foldl (fun e g => e.padStoreAll g.core g.win g.items fe) d

/-- VST with its element addresses (R245). -/
def Dev.vstore (d : Dev) (z : ESize) (fq : Fe) (pg : PReg) (vs : VReg) (addr : Nat → Word) : Act :=
  let n := esizeBytes z
  let w := esizeBits z
  let lv := d.core.status.pl
  let p := d.rdP pg
  let v := d.rdV vs
  let active := (List.range (lanes w)).filter fun i => laneOn p w i
  match d.checkElems lv .store n (decide (fq ≠ .none)) (active.map addr) with
  | .error e => .error e
  | .ok _ =>
    let placed := active.map fun i => (d.padOf lv n (addr i), addr i, elem w v i)
    match Dev.storeElems lv n (decide (fq = .fe)) ((placed.filter fun x => x.1.isNone).map (·.2)) d with
    | .error e => .error e
    | .ok e => .ok (e.storePads n (decide (fq = .fe)) (placed.filterMap fun x => x.1.map fun q => (q, x.2)))

def execVld (z : ESize) (fq : Fe) (_adv : Bool) (pg : PReg) (vd : VReg) (ra : SReg) (rb : BitVec 5) (s : State) : Result State :=
  finish s ((s.d.vload z fq pg vd (unitAddr (esizeBytes z) (s.d.rd ra) (s.d.rd rb))).map Dev.advance)
def execVlds (z : ESize) (fq : Fe) (_adv : Bool) (pg : PReg) (vd : VReg) (ra : SReg) (rb : BitVec 5) (s : State) : Result State :=
  finish s ((s.d.vload z fq pg vd (strideAddr (s.d.rd ra) (s.d.rd rb))).map Dev.advance)
def execVldx (z : ESize) (fq : Fe) (_adv : Bool) (pg : PReg) (vd : VReg) (ra : SReg) (vb : BitVec 5) (s : State) : Result State :=
  finish s ((s.d.vload z fq pg vd (indexAddr (esizeBytes z) (s.d.rd ra) (s.d.rdV vb))).map Dev.advance)
def execVldr (z : ESize) (fq : Fe) (_adv : Bool) (pg : PReg) (vd : VReg) (ra : SReg) (rb : BitVec 5) (s : State) : Result State :=
  finish s ((s.d.vload z fq pg vd (repeatAddr (s.d.rd ra) (s.d.rd rb))).map Dev.advance)
def execVst (z : ESize) (fq : Fe) (_adv : Bool) (pg : PReg) (vs : VReg) (ra : SReg) (rb : BitVec 5) (s : State) : Result State :=
  finish s ((s.d.vstore z fq pg vs (unitAddr (esizeBytes z) (s.d.rd ra) (s.d.rd rb))).map Dev.advance)
def execVsts (z : ESize) (fq : Fe) (_adv : Bool) (pg : PReg) (vs : VReg) (ra : SReg) (rb : BitVec 5) (s : State) : Result State :=
  finish s ((s.d.vstore z fq pg vs (strideAddr (s.d.rd ra) (s.d.rd rb))).map Dev.advance)
def execVstx (z : ESize) (fq : Fe) (_adv : Bool) (pg : PReg) (vs : VReg) (ra : SReg) (vb : BitVec 5) (s : State) : Result State :=
  finish s ((s.d.vstore z fq pg vs (indexAddr (esizeBytes z) (s.d.rd ra) (s.d.rdV vb))).map Dev.advance)

end Sys2Proof.Machine
end

