-- ==== Sys2Proof/Machine/VectorPerm.lean ====
section
/-! DEFINITION. VPERM (R249, R250). -/
namespace Sys2Proof.Machine

/-- A permute whose element i is a function of the elements of va and vb. -/
def Dev.vpermute (d : Dev) (z : ESize) (pg : PReg) (vd va vb : VReg) (f : Nat → (Nat → Nat) → (Nat → Nat) → Nat → Nat) : Dev :=
  let w := esizeBits z
  let a := d.rdV va
  let b := d.rdV vb
  d.writeElems w pg vd fun i => f (lanes w) (elem w a) (elem w b) i

/-- Element functions of R249: the number of lanes, the elements of va and of vb, and the element's number. -/
def permSelect (L : Nat) (x y : Nat → Nat) (i : Nat) : Nat := x (y i % L)
def permLift (n L : Nat) (x _y : Nat → Nat) (i : Nat) : Nat := if n ≤ i ∧ i < L then x (i - n) else 0
def permDrop (n L : Nat) (x _y : Nat → Nat) (i : Nat) : Nat := if i + n < L then x (i + n) else 0
def permRev (L : Nat) (x _y : Nat → Nat) (i : Nat) : Nat := x (L - 1 - i)
def permKnitl (_L : Nat) (x y : Nat → Nat) (i : Nat) : Nat := if i % 2 = 0 then x (i / 2) else y (i / 2)
def permKnith (L : Nat) (x y : Nat → Nat) (i : Nat) : Nat := if i % 2 = 0 then x (i / 2 + L / 2) else y (i / 2 + L / 2)
/-- Element j of the concatenation of va and vb. -/
def concatAt (L : Nat) (x y : Nat → Nat) (j : Nat) : Nat := if j < L then x j else y (j - L)
def permSiftev (L : Nat) (x y : Nat → Nat) (i : Nat) : Nat := concatAt L x y (2 * i)
def permSiftod (L : Nat) (x y : Nat → Nat) (i : Nat) : Nat := concatAt L x y (2 * i + 1)

/-- VSQZ: every element of vd is written. -/
def Dev.vsqz (d : Dev) (z : ESize) (pg : PReg) (vd va : VReg) : Dev :=
  let w := esizeBits z
  let p := d.rdP pg
  let a := d.rdV va
  d.wrV vd (ofElems w (((List.range (lanes w)).filter fun i => laneOn p w i).map (elem w a)))

/-- VTRN (R250) on the registers vd to vd + 7, all read before any is written. In a FRAME whose stride leaves vd no multiple of 8
the numbers go round at 32 (log 21). -/
def Dev.vtrn (d : Dev) (z : ESize) (vd : VReg) : Dev :=
  let w := esizeBits z
  let row (n : Nat) : VReg := vd + BitVec.ofNat 5 n
  let old (n : Nat) : VWord := d.rdV (row n)
  let new (n : Nat) : VWord := ofElems w ((List.range (lanes w)).map fun e => elem w (old (e % 8)) (e / 8 * 8 + n))
  (List.range 8).foldl (fun acc n => acc.wrV (row n) (new n)) d

def execVtrn (z : ESize) (vd : VReg) (s : State) : Result State := vecNext s (s.d.vtrn z vd)
def execVperm (z : ESize) (pg : PReg) (vd va vb : VReg) (s : State) : Result State :=
  vecNext s (s.d.vpermute z pg vd va vb permSelect)
def execVlift (z : ESize) (pg : PReg) (vd va : VReg) (rb : SReg) (s : State) : Result State :=
  vecNext s (s.d.vpermute z pg vd va va (permLift (s.d.rd rb).toNat))
def execVdrop (z : ESize) (pg : PReg) (vd va : VReg) (rb : SReg) (s : State) : Result State :=
  vecNext s (s.d.vpermute z pg vd va va (permDrop (s.d.rd rb).toNat))
def execVrev (z : ESize) (pg : PReg) (vd va : VReg) (s : State) : Result State :=
  vecNext s (s.d.vpermute z pg vd va va permRev)
def execVsqz (z : ESize) (pg : PReg) (vd va : VReg) (s : State) : Result State := vecNext s (s.d.vsqz z pg vd va)
def execVknitl (z : ESize) (pg : PReg) (vd va vb : VReg) (s : State) : Result State :=
  vecNext s (s.d.vpermute z pg vd va vb permKnitl)
def execVknith (z : ESize) (pg : PReg) (vd va vb : VReg) (s : State) : Result State :=
  vecNext s (s.d.vpermute z pg vd va vb permKnith)
def execVsiftev (z : ESize) (pg : PReg) (vd va vb : VReg) (s : State) : Result State :=
  vecNext s (s.d.vpermute z pg vd va vb permSiftev)
def execVsiftod (z : ESize) (pg : PReg) (vd va vb : VReg) (s : State) : Result State :=
  vecNext s (s.d.vpermute z pg vd va vb permSiftod)

end Sys2Proof.Machine
end

