-- ==== Sys2Proof/Machine/VectorRed.lean ====
section
/-! DEFINITION. VRED (R252, R253). -/
namespace Sys2Proof.Machine

/-- A combining operation on element codes of a type, with its flags. -/
abbrev RedElem := Ty → Nat → Nat → Nat × Flags

/-- Neighbours combined in pairs: one level of the tree of R253. -/
def pairUp (f : Nat → Nat → Nat × Flags) : List Nat → List Nat × Flags
  | a :: b :: t =>
    let r := pairUp f t
    let x := f a b
    (x.1 :: r.1, x.2.or r.2)
  | [a] => ([a], Flags.none)
  | [] => ([], Flags.none)

/-- The tree of R253; n bounds its levels. -/
def tree (f : Nat → Nat → Nat × Flags) : Nat → List Nat → Flags → List Nat × Flags
  | 0, xs, fl => (xs, fl)
  | n + 1, xs, fl =>
    if xs.length ≤ 1 then (xs, fl)
    else
      let r := pairUp f xs
      tree f n r.1 (fl.or r.2)

def redPlain (op : IntOp) : RedElem := fun t a b => (op (tySigned t) t.bits a b, Flags.none)
def redeSum : RedElem := fun t a b => if t.isInt then redPlain vopAdd t a b else (tyFmt t).fadd .rne a b
def redeMin : RedElem := fun t a b => if t.isInt then redPlain vopMin t a b else (tyFmt t).fmin a b
def redeMax : RedElem := fun t a b => if t.isInt then redPlain vopMax t a b else (tyFmt t).fmax a b
def redeAnd : RedElem := redPlain vopAnd
def redeOr : RedElem := redPlain vopOr
def redeXor : RedElem := redPlain vopXor

/-- The identities of R252. -/
def idZero (_ : Ty) : Nat := 0
def idOnes (t : Ty) : Nat := 2 ^ t.bits - 1
def idMin (t : Ty) : Nat :=
  if t.isInt then (if tySigned t then 2 ^ (t.bits - 1) - 1 else 2 ^ t.bits - 1) else (tyFmt t).infCode false
def idMax (t : Ty) : Nat := if t.isInt then (if tySigned t then 2 ^ (t.bits - 1) else 0) else (tyFmt t).infCode true

/-- A reduction through the tree: element 0 of vd takes the result, the others become 0. -/
def Dev.vred (d : Dev) (t : Ty) (f : RedElem) (ident : Ty → Nat) (pg : PReg) (vd va vb : VReg) : Dev :=
  let w := t.bits
  let p := d.rdP pg
  let a := d.rdV va
  let xs := (List.range (lanes w)).map fun i => if laneOn p w i then elem w a i else ident t
  let r := tree (f t) 9 xs Flags.none
  let x := f t (elem w (d.rdV vb) 0) (r.1.headD 0)
  (d.wrV vd (ofElems w [x.1])).raise (r.2.or x.2)

/-- VRSUM.ARR: one sum in ascending order over the active elements. -/
def Dev.vredArr (d : Dev) (t : Ty) (pg : PReg) (vd va vb : VReg) : Dev :=
  let w := t.bits
  let p := d.rdP pg
  let a := d.rdV va
  let r := ((List.range (lanes w)).filter fun i => laneOn p w i).foldl
    (fun acc i =>
      let x := (tyFmt t).fadd .rne acc.1 (elem w a i)
      (x.1, acc.2.or x.2)) (elem w (d.rdV vb) 0, Flags.none)
  (d.wrV vd (ofElems w [r.1])).raise r.2

def execVrsum (t : Ty) (pg : PReg) (vd va vb : VReg) (s : State) : Result State :=
  vecNext s (s.d.vred t redeSum idZero pg vd va vb)
def execVrsumArr (t : Ty) (pg : PReg) (vd va vb : VReg) (s : State) : Result State :=
  vecNext s (s.d.vredArr t pg vd va vb)
def execVrmin (t : Ty) (pg : PReg) (vd va vb : VReg) (s : State) : Result State :=
  vecNext s (s.d.vred t redeMin idMin pg vd va vb)
def execVrmax (t : Ty) (pg : PReg) (vd va vb : VReg) (s : State) : Result State :=
  vecNext s (s.d.vred t redeMax idMax pg vd va vb)
def execVrand (t : Ty) (pg : PReg) (vd va vb : VReg) (s : State) : Result State :=
  vecNext s (s.d.vred t redeAnd idOnes pg vd va vb)
def execVror (t : Ty) (pg : PReg) (vd va vb : VReg) (s : State) : Result State :=
  vecNext s (s.d.vred t redeOr idZero pg vd va vb)
def execVrxor (t : Ty) (pg : PReg) (vd va vb : VReg) (s : State) : Result State :=
  vecNext s (s.d.vred t redeXor idZero pg vd va vb)

end Sys2Proof.Machine
end

