-- ==== Sys2Proof/Machine/Frame.lean ====
section
/-! DEFINITION. FRAME and its replays (R260 to R262), and ERET with the FRAME that it resumes and the messages that it delivers
(R92, R99, R101). -/
namespace Sys2Proof.Machine

/-- One vector-engine instruction as a replay r with vector stride sv and predicate stride sp performs it (R261), x and y the
captured values of its scalar sources: none where the instruction is not of the vector engine. It leaves the pc alone. -/
def Dev.vectorOp? (d : Dev) (i : Instr) (r sv sp : Nat) (x y : Word) : Option Act :=
  let v (n : VReg) : VReg := n + BitVec.ofNat 5 (r * sv)
  let q (n : PReg) : PReg := if n = 0 then 0 else n + BitVec.ofNat 3 (r * sp)
  let ofLanesOf (w : Nat) : Word := BitVec.ofNat 64 (r * lanes w)
  match i with
  | .vadd t pg vd va vb => some (.ok (d.vint t vopAdd (q pg) (v vd) (v va) (v vb)))
  | .vsub t pg vd va vb => some (.ok (d.vint t vopSub (q pg) (v vd) (v va) (v vb)))
  | .vmul t pg vd va vb => some (.ok (d.vint t vopMul (q pg) (v vd) (v va) (v vb)))
  | .vmulh t pg vd va vb => some (.ok (d.vint t vopMulh (q pg) (v vd) (v va) (v vb)))
  | .vmin t pg vd va vb => some (.ok (d.vint t vopMin (q pg) (v vd) (v va) (v vb)))
  | .vmax t pg vd va vb => some (.ok (d.vint t vopMax (q pg) (v vd) (v va) (v vb)))
  | .vand t pg vd va vb => some (.ok (d.vint t vopAnd (q pg) (v vd) (v va) (v vb)))
  | .vor t pg vd va vb => some (.ok (d.vint t vopOr (q pg) (v vd) (v va) (v vb)))
  | .vxor t pg vd va vb => some (.ok (d.vint t vopXor (q pg) (v vd) (v va) (v vb)))
  | .vandn t pg vd va vb => some (.ok (d.vint t vopAndn (q pg) (v vd) (v va) (v vb)))
  | .vsll t pg vd va vb => some (.ok (d.vint t vopSll (q pg) (v vd) (v va) (v vb)))
  | .vsrl t pg vd va vb => some (.ok (d.vint t vopSrl (q pg) (v vd) (v va) (v vb)))
  | .vsra t pg vd va vb => some (.ok (d.vint t vopSra (q pg) (v vd) (v va) (v vb)))
  | .vadds t pg vd va vb => some (.ok (d.vint t vopAdds (q pg) (v vd) (v va) (v vb)))
  | .vsubs t pg vd va vb => some (.ok (d.vint t vopSubs (q pg) (v vd) (v va) (v vb)))
  | .vabsd t pg vd va vb => some (.ok (d.vint t vopAbsd (q pg) (v vd) (v va) (v vb)))
  | .vavg t pg vd va vb => some (.ok (d.vint t vopAvg (q pg) (v vd) (v va) (v vb)))
  | .vneg t pg vd va => some (.ok (d.vint1 t vopNeg (q pg) (v vd) (v va)))
  | .vabs t pg vd va => some (.ok (d.vint1 t vopAbs (q pg) (v vd) (v va)))
  | .vpopc t pg vd va => some (.ok (d.vint1 t vopPopc (q pg) (v vd) (v va)))
  | .vfadd f pg vd va vb => some (.ok (d.vfp f vfopAdd (q pg) (v vd) (v va) (v vb)))
  | .vfsub f pg vd va vb => some (.ok (d.vfp f vfopSub (q pg) (v vd) (v va) (v vb)))
  | .vfmul f pg vd va vb => some (.ok (d.vfp f vfopMul (q pg) (v vd) (v va) (v vb)))
  | .vfdiv f pg vd va vb => some (.ok (d.vfp f vfopDiv (q pg) (v vd) (v va) (v vb)))
  | .vfmin f pg vd va vb => some (.ok (d.vfp f vfopMin (q pg) (v vd) (v va) (v vb)))
  | .vfmax f pg vd va vb => some (.ok (d.vfp f vfopMax (q pg) (v vd) (v va) (v vb)))
  | .vfcopysg f pg vd va vb => some (.ok (d.vfp f vfopCopysg (q pg) (v vd) (v va) (v vb)))
  | .vfsqrt f pg vd va => some (.ok (d.vfp1 f vfopSqrt (q pg) (v vd) (v va)))
  | .vfneg f pg vd va => some (.ok (d.vfp1 f vfopNeg (q pg) (v vd) (v va)))
  | .vfabs f pg vd va => some (.ok (d.vfp1 f vfopAbs (q pg) (v vd) (v va)))
  | .vfkind f pg vd va => some (.ok (d.vfp1 f vfopKind (q pg) (v vd) (v va)))
  | .vfma f pg vd va vb vc => some (.ok (d.vfma f false (q pg) (v vd) (v va) (v vb) (v vc)))
  | .vfms f pg vd va vb vc => some (.ok (d.vfma f true (q pg) (v vd) (v va) (v vb) (v vc)))
  | .vtrn z vd => some (.ok (d.vtrn z (v vd)))
  | .vperm z pg vd va vb => some (.ok (d.vpermute z (q pg) (v vd) (v va) (v vb) permSelect))
  | .vknitl z pg vd va vb => some (.ok (d.vpermute z (q pg) (v vd) (v va) (v vb) permKnitl))
  | .vknith z pg vd va vb => some (.ok (d.vpermute z (q pg) (v vd) (v va) (v vb) permKnith))
  | .vsiftev z pg vd va vb => some (.ok (d.vpermute z (q pg) (v vd) (v va) (v vb) permSiftev))
  | .vsiftod z pg vd va vb => some (.ok (d.vpermute z (q pg) (v vd) (v va) (v vb) permSiftod))
  | .vlift z pg vd va _ => some (.ok (d.vpermute z (q pg) (v vd) (v va) (v va) (permLift y.toNat)))
  | .vdrop z pg vd va _ => some (.ok (d.vpermute z (q pg) (v vd) (v va) (v va) (permDrop y.toNat)))
  | .vrev z pg vd va => some (.ok (d.vpermute z (q pg) (v vd) (v va) (v va) permRev))
  | .vsqz z pg vd va => some (.ok (d.vsqz z (q pg) (v vd) (v va)))
  | .vceq t pg pd va vb => some (.ok (d.vcmp t cmpEq (q pg) (q pd) (v va) (v vb)))
  | .vcne t pg pd va vb => some (.ok (d.vcmp t cmpNe (q pg) (q pd) (v va) (v vb)))
  | .vclt t pg pd va vb => some (.ok (d.vcmp t cmpLt (q pg) (q pd) (v va) (v vb)))
  | .vcle t pg pd va vb => some (.ok (d.vcmp t cmpLe (q pg) (q pd) (v va) (v vb)))
  | .vbound t pd _ _ => some (.ok (d.vbound t (q pd) x y))
  | .pand pd pa pb => some (.ok (d.plogic predAnd (q pd) (q pa) (q pb)))
  | .por pd pa pb => some (.ok (d.plogic predOr (q pd) (q pa) (q pb)))
  | .pxor pd pa pb => some (.ok (d.plogic predXor (q pd) (q pa) (q pb)))
  | .pandn pd pa pb => some (.ok (d.plogic predAndn (q pd) (q pa) (q pb)))
  | .pcnt t rd pa => some (.ok (d.pcnt t rd (q pa)))
  | .pfirst t rd pa => some (.ok (d.pfirst t rd (q pa)))
  | .vrsum t pg vd va vb => some (.ok (d.vred t redeSum idZero (q pg) (v vd) (v va) (v vb)))
  | .vrmin t pg vd va vb => some (.ok (d.vred t redeMin idMin (q pg) (v vd) (v va) (v vb)))
  | .vrmax t pg vd va vb => some (.ok (d.vred t redeMax idMax (q pg) (v vd) (v va) (v vb)))
  | .vrand t pg vd va vb => some (.ok (d.vred t redeAnd idOnes (q pg) (v vd) (v va) (v vb)))
  | .vror t pg vd va vb => some (.ok (d.vred t redeOr idZero (q pg) (v vd) (v va) (v vb)))
  | .vrxor t pg vd va vb => some (.ok (d.vred t redeXor idZero (q pg) (v vd) (v va) (v vb)))
  | .vrsumArr t pg vd va vb => some (.ok (d.vredArr t (q pg) (v vd) (v va) (v vb)))
  | .vcvt t s rm part pg vd va => some (.ok (d.vcvt t s rm part (q pg) (v vd) (v va)))
  | .vmov pg vd va => some (.ok (d.vmov (q pg) (v vd) (v va)))
  | .vdup z pg vd _ => some (.ok (d.vdup z (q pg) (v vd) x))
  | .vins z vd _ _ => some (.ok (d.vins z (v vd) x y))
  | .vextr z rd va _ => some (.ok (d.vextr z rd (v va) y))
  | .vidx z pg vd _ _ => some (.ok (d.vidx z (q pg) (v vd) x y))
  | .vwidth rd => some (.ok (d.vwidth rd))
  | .vdraw vd ds _ => some (.ok (d.vdrawn 32 drawWord (v vd) ds (x + ofLanesOf 32)))
  | .vdrawb vd ds _ => some (.ok (d.vdrawn 8 drawByte (v vd) ds (x + ofLanesOf 8)))
  | .vdrawu vd ds _ => some (.ok (d.vdrawn 32 drawUniform (v vd) ds (x + ofLanesOf 32)))
  | .vnoiseG vd ds _ => some (.ok (d.vdrawn 32 gumbelLane (v vd) ds (x + ofLanesOf 32)))
  | .vsrcvtBf16F32 vd ds _ => some (.ok (d.vsrcvt .bf16 .f32 (v vd) ds (x + ofLanesOf 32)))
  | .vsrcvtF16F32 vd ds _ => some (.ok (d.vsrcvt .f16 .f32 (v vd) ds (x + ofLanesOf 32)))
  | .vsrcvtE4m3F32 vd ds _ => some (.ok (d.vsrcvt .e4m3 .f32 (v vd) ds (x + ofLanesOf 32)))
  | .vsrcvtE5m2F32 vd ds _ => some (.ok (d.vsrcvt .e5m2 .f32 (v vd) ds (x + ofLanesOf 32)))
  | .vsrcvtE2m1F32 vd ds _ => some (.ok (d.vsrcvt .e2m1 .f32 (v vd) ds (x + ofLanesOf 32)))
  | .vsrcvtE4m3F16 vd ds _ => some (.ok (d.vsrcvt .e4m3 .f16 (v vd) ds (x + ofLanesOf 16)))
  | .vsrcvtE5m2F16 vd ds _ => some (.ok (d.vsrcvt .e5m2 .f16 (v vd) ds (x + ofLanesOf 16)))
  | .vsrcvtE4m3Bf16 vd ds _ => some (.ok (d.vsrcvt .e4m3 .bf16 (v vd) ds (x + ofLanesOf 16)))
  | .vld z fq adv pg vd _ _ => some (d.vload z fq (q pg) (v vd) (advanced adv r (BitVec.ofNat 64 Config.vwidth) (unitAddr (esizeBytes z) x y)))
  | .vlds z fq adv pg vd _ _ => some (d.vload z fq (q pg) (v vd) (advanced adv r (BitVec.ofNat 64 (lanes (esizeBits z)) * y) (strideAddr x y)))
  | .vldx z fq adv pg vd _ vb =>
    some (d.vload z fq (q pg) (v vd) (advanced adv r (BitVec.ofNat 64 Config.vwidth) (indexAddr (esizeBytes z) x (d.rdV (v vb)))))
  | .vldr z fq adv pg vd _ _ => some (d.vload z fq (q pg) (v vd) (advanced adv r (BitVec.ofNat 64 (esizeBytes z)) (repeatAddr x y)))
  | .vst z fq adv pg vs _ _ => some (d.vstore z fq (q pg) (v vs) (advanced adv r (BitVec.ofNat 64 Config.vwidth) (unitAddr (esizeBytes z) x y)))
  | .vsts z fq adv pg vs _ _ => some (d.vstore z fq (q pg) (v vs) (advanced adv r (BitVec.ofNat 64 (lanes (esizeBits z)) * y) (strideAddr x y)))
  | .vstx z fq adv pg vs _ vb =>
    some (d.vstore z fq (q pg) (v vs) (advanced adv r (BitVec.ofNat 64 Config.vwidth) (indexAddr (esizeBytes z) x (d.rdV (v vb)))))
  | _ => none

/-- The scalar sources of a vector-engine instruction: what x and y stand for (R261). -/
def scalarSources : Instr → SReg × SReg
  | .vld _ _ _ _ _ ra rb | .vlds _ _ _ _ _ ra rb | .vldr _ _ _ _ _ ra rb | .vst _ _ _ _ _ ra rb | .vsts _ _ _ _ _ ra rb => (ra, rb)
  | .vldx _ _ _ _ _ ra _ | .vstx _ _ _ _ _ ra _ => (ra, 0)
  | .vlift _ _ _ _ rb | .vdrop _ _ _ _ rb | .vextr _ _ _ rb => (0, rb)
  | .vbound _ _ ra rb | .vins _ _ ra rb | .vidx _ _ _ ra rb => (ra, rb)
  | .vdup _ _ _ ra => (ra, 0)
  | .vdraw _ _ ra | .vdrawb _ _ ra | .vdrawu _ _ ra | .vnoiseG _ _ ra => (ra, 0)
  | .vsrcvtBf16F32 _ _ ra | .vsrcvtF16F32 _ _ ra | .vsrcvtE4m3F32 _ _ ra | .vsrcvtE5m2F32 _ _ ra | .vsrcvtE2m1F32 _ _ ra
  | .vsrcvtE4m3F16 _ _ ra | .vsrcvtE5m2F16 _ _ ra | .vsrcvtE4m3Bf16 _ _ ra => (ra, 0)
  | _ => (0, 0)

/-- The vector-engine instructions that write a scalar register (R256). -/
def writesScalar : Instr → Bool
  | .pcnt _ _ _ | .pfirst _ _ _ | .vextr _ _ _ _ | .vwidth _ => true
  | _ => false

/-- An instruction of the vector engine, which a FRAME body may hold (R261). -/
def isVector (d : Dev) (i : Instr) : Bool := (d.vectorOp? i 0 0 0 0 0).isSome

def isFrame : Instr → Bool
  | .frame _ _ _ _ => true
  | _ => false

/-- The n words of a body captured from an address (R42, R261). -/
def Dev.capture (d : Dev) : Nat → Word → Except Stop (List Captured)
  | 0, _ => .ok []
  | n + 1, addr =>
    match d.fetchAt d.core.status.pl addr addr with
    | .error e => .error e
    | .ok w =>
      match decodeWord w with
      | .error r => illopAt addr w r
      | .ok (.inr _) => illopAt addr w 2
      | .ok (.inl i) =>
        if isVector d i then
          (d.capture n (addr + 4)).map fun t =>
            { instr := i, ra := d.rd (scalarSources i).1, rb := d.rd (scalarSources i).2 } :: t
        else illopAt addr w 2

/-- A FRAME with its body captured stands at a replay and position, and the core goes on past it (R261). -/
def Dev.takeFrame (d : Dev) (addr : Word) (sv : BitVec 5) (n1 : BitVec 4) (k1 : BitVec 8) (sp : BitVec 2) (rep pos : Nat)
    (body : List Captured) : Dev :=
  { d with core := { d.core with
      frame := some { addr := addr, count := k1.toNat + 1, sv := sv, sp := sp, body := body, rep := rep, pos := pos
                      saved := if body.any fun c => writesScalar c.instr then none else some d.core.s } } }.jump
    (addr + 4 * BitVec.ofNat 64 (n1.toNat + 2))

/-- A FRAME at an address captures its body and stands at a replay and position (R260, R261). -/
def Dev.startFrame (d : Dev) (addr : Word) (sv : BitVec 5) (n1 : BitVec 4) (k1 : BitVec 8) (sp : BitVec 2) (rep pos : Nat) : Act :=
  (d.capture (n1.toNat + 1) (addr + 4)).map fun body => d.takeFrame addr sv n1 k1 sp rep pos body

/-- A body that the leader of a gang has captured, with this member's own scalar sources (R262). -/
def Dev.recapture (d : Dev) (body : List Captured) : List Captured :=
  body.map fun c => { c with ra := d.rd (scalarSources c.instr).1, rb := d.rd (scalarSources c.instr).2 }

/-- FRAME; one that is reached while another is active waits for it (R261). -/
def Dev.doFrame (d : Dev) (sv : BitVec 5) (n1 : BitVec 4) (k1 : BitVec 8) (sp : BitVec 2) : Act :=
  if d.core.frame.isSome then .error (.wait 0x6) else d.startFrame d.core.pc sv n1 k1 sp 0 0

def execFrame (sv : BitVec 5) (n1 : BitVec 4) (k1 : BitVec 8) (sp : BitVec 2) (s : State) : Result State :=
  finish s (s.d.doFrame sv n1 k1 sp)

/-- Where a FRAME stands after the instruction at its position; none when it has finished (R261). -/
def FrameExec.next (f : FrameExec) : Option FrameExec :=
  if f.pos + 1 < f.body.length then some { f with pos := f.pos + 1 }
  else if f.rep + 1 < f.count then some { f with rep := f.rep + 1, pos := 0 }
  else none

/-- A vector instruction that can be handed on behind earlier ones: it writes no scalar register (R242; log 7). -/
def canHandOn (d : Dev) (i : Instr) : Bool := isVector d i && !writesScalar i

/-- An earlier vector instruction has not completed, or a FRAME has replays outstanding (R242). -/
def Core.vectorBusy (c : Core) : Bool := c.frame.isSome || !c.sequencer.isEmpty

/-- The vector instruction at the pc handed on: the sequencer holds it with the values of its scalar sources (R241, R242). -/
def Dev.handOn (d : Dev) (i : Instr) : Dev :=
  let h : Handed :=
    { addr := d.core.pc, body := { instr := i, ra := d.rd (scalarSources i).1, rb := d.rd (scalarSources i).2 }, saved := d.core.s }
  { d with core := { d.core with sequencer := d.core.sequencer ++ [h] } }.advance

/-- The oldest vector instruction of the sequencer performed (R241). -/
def Dev.performHanded (d : Dev) : Act :=
  match d.core.sequencer with
  | [] => .ok d
  | h :: t =>
    match d.vectorOp? h.body.instr 0 0 0 h.body.ra h.body.rb with
    | none => .ok { d with core := { d.core with sequencer := t } }
    | some (.error e) => .error e
    | some (.ok d1) => .ok { d1 with core := { d1.core with sequencer := t } }

/-- One instruction of the active FRAME handed on and performed (R261, R262), or the oldest of the sequencer where none is active. Where
software has written FRST with POS at or above the length of the body the FRAME ends, and with REP at or above the count the rest of the body is
performed once (DESIGN CHOICE, log 21). -/
def Dev.replay (d : Dev) : Act :=
  match d.core.frame with
  | none => d.performHanded
  | some f =>
    match f.body[f.pos]? with
    | none => .ok { d with core := { d.core with frame := none } }
    | some c =>
      match d.vectorOp? c.instr f.rep f.sv.toNat f.sp.toNat c.ra c.rb with
      | none => .ok { d with core := { d.core with frame := f.next } }
      | some (.error e) => .error e
      | some (.ok d1) => .ok { d1 with core := { d1.core with frame := f.next } }

def execFrameReplay (s : State) : Result State := finish s s.d.replay

-- What the current core performs next.

/-- A word that is no instruction is ILLOP with its reason (R39, R40). -/
def orIllop (w : Word32) : Except (BitVec 4) (Instr ⊕ Late) → Instr ⊕ Late
  | .ok i => i
  | .error r => .inl (.illop w r)

/-- The instruction at the pc. -/
def Dev.fetched (d : Dev) : Except Stop (Instr ⊕ Late) := d.fetch.map fun w => orIllop w (decodeWord w)

/-- A word of the core engine proper, MO 0x01 to 0x0F, is what runs ahead of a FRAME's replays (R242, R262; log 7). -/
def runsAhead (w : Word32) : Bool := decide (1 ≤ (moOf w).toNat ∧ (moOf w).toNat ≤ 15)

/-- The sequencer takes the instruction at the pc: one of the vector engine, behind earlier ones, while it has room (R241, R242). A gang hands
nothing on (log 7). -/
def Dev.handsOn (d : Dev) : Instr ⊕ Late → Bool
  | .inl i =>
    d.core.vectorBusy && d.core.gang.isNone && canHandOn d i && decide (d.core.sequencer.length < Config.sequencerDepth)
  | .inr _ => false

/-- Instructions may go on past what the vector engine has still to perform: a FRAME whose body writes no scalar register, or the sequencer
(R242; log 7). A core that leaves its gang completes the instruction at which it waits first (R372). -/
def Core.mayRunAhead (c : Core) : Bool := !c.leaving && c.frame.all fun f => f.saved.isSome

/-- What the core performs: the instruction at the pc; but where the vector engine has still to complete one, the next of those, unless the
instruction at the pc runs ahead or is handed on. -/
def Dev.pick (d : Dev) : Except Stop (Instr ⊕ Late) :=
  if !d.core.vectorBusy then d.fetched
  else if !d.core.mayRunAhead then .ok (.inl .frameReplay)
  else
    match d.fetch with
    | .error _ => .ok (.inl .frameReplay)
    | .ok w =>
      match decodeWord w with
      | .ok i => .ok (if runsAhead w || d.handsOn i then i else .inl .frameReplay)
      | .error _ => .ok (.inl .frameReplay)

-- Return from a trap.

/-- The capacity of the message buffer in messages (R101). R101 gives size codes 0 to 4; that 5 to 15 act as 4 is the model's choice
(DESIGN CHOICE, log 11). -/
def Core.bufferRoom (c : Core) : Nat := (4096 * 2 ^ min 4 (bits c.ctxbuf 11 8) - 8) / 64
def Core.bufferBase (c : Core) : Word := c.ctxbuf &&& ~~~ 0xFFF

/-- Doublewords read at supervisor level from an address, each after its own walk; none where one does not pass its checks. -/
def Dev.readWords (d : Dev) : Nat → Word → List Byte → Dev × Option (List Byte)
  | 0, _, acc => (d, some acc)
  | n + 1, a, acc =>
    let w := d.walked a
    match w.load .supervisor a 8 .none false false with
    | .ok r => r.2.readWords n (a + 8) (acc ++ r.1)
    | .error _ => (w, none)

/-- Messages read from the buffer in their stored order. -/
def Dev.readMessages (d : Dev) : Nat → Word → List (BitVec 512) → Dev × List (BitVec 512)
  | 0, _, acc => (d, acc)
  | n + 1, a, acc =>
    match d.readWords 8 a [] with
    | (e, some bs) => e.readMessages n (a + 64) (acc ++ [BitVec.ofNat 512 (leNat bs)])
    | (e, none) => (e, acc)

/-- The message that names a CORE task to a core (R101, R361). -/
def Work.message (w : Work) : BitVec 512 := Config.taskMessage w.queue w.seq w.kid w.entry w.uses w.args w.anchor

/-- What waits in the interface, as a message (R101). -/
def Arrival.asMessage : Arrival → BitVec 512
  | .task w => w.message
  | .message m => m

/-- The interface of a core delivers a message: the core has the task that it names again; what another message then does is a step of the
agent that it is for (R101). -/
def Core.takeMessage (c : Core) (m : BitVec 512) : Core :=
  match c.spilled.find? fun w => decide (w.message = m) with
  | some w => { c with spilled := c.spilled.erase w, inbox := c.inbox ++ [.task w] }
  | none => { c with delivered := c.delivered ++ [m] }

/-- On ERET the interface delivers the buffered messages in their stored order, and writes 0 to the count (R101). CTXBUF of zero names no
buffer (log 11). -/
def Dev.deliver (d : Dev) : Dev :=
  if d.core.ctxbuf = 0 then d
  else
    let base := d.core.bufferBase
    let d1 := d.walked base
    match d1.load .supervisor base 8 .none false false with
    | .error _ => d1
    | .ok r =>
      let n := min (leNat r.1) r.2.core.bufferRoom
      if n = 0 then r.2
      else
        let m := r.2.readMessages n (base + 8) []
        let e := { m.1 with core := m.2.foldl Core.takeMessage m.1.core }
        match e.store .supervisor base (leBytes 8 0) false with
        | .ok f => f
        | .error _ => e

/-- ResumeFrame (R92, R99, R262): the FRAME at EPC captures its body again and stands at FRST's replay and position; FRST is
cleared. Where the word at EPC is no FRAME, there is none to resume (log 21). -/
def Dev.resumeFrame (d : Dev) : Act :=
  let f := d.core.frst
  let d0 := { d with core := { d.core with frst := Frst.reset } }
  match d.fetch with
  | .error (.trap _) | .error (.walkedTrap _ _) => .ok d
  | .error (.wait r) | .error (.left _ r) => .error (.wait r)
  | .ok w =>
    match decodeWord w with
    | .ok (.inl (.frame sv n1 k1 sp)) => d0.startFrame d0.core.pc sv n1 k1 sp f.rep.toNat f.pos.toNat
    | .ok _ | .error _ => .ok d0

/-- ERET after the return itself. Where the FRAME that it resumes cannot be captured, the return has taken place, the fault is a trap at
the level returned to, and FRST.ACT stays set: whether that trap clears it the spec leaves open (DESIGN CHOICE, log 21). Where a fetch
waits, ERET waits. -/
def Dev.afterEret (d : Dev) : Act :=
  if d.core.frst.act then
    match d.resumeFrame with
    | .ok e => .ok e
    | .error (.trap t) => .ok (d.takeTrap t)
    | .error (.walkedTrap e t) => .ok (d.stopped (.walkedTrap e t))
    | .error (.wait r) | .error (.left _ r) => .error (.wait r)
  else .ok d

/-- A FRAME and its body of up to sixteen words are brought in, before it is captured again at the level returned to. -/
def Dev.walkedFrame (d : Dev) : Dev :=
  if d.core.frst.act then
    (List.range 17).foldl (fun e i => e.warmed d.core.status.ppl (d.core.epc + 4 * BitVec.ofNat 64 i)) d
  else d

def Dev.doEret (d : Dev) : Act :=
  d.needSupervisor (encS 0x2F 0 0 3 0) <|
    let w := d.walkedFrame
    let e := w.deliver
    match ({ e with core := e.core.eret d.gen }).afterEret with
    | .error x => .error (x.after w)
    | .ok f => .ok f

def execEret (s : State) : Result State := finish s s.d.doEret

end Sys2Proof.Machine
end

