-- ==== Sys2Proof/Machine/LoadStore.lean ====
section
/-! DEFINITION. LD, ST, LDX and STX (R166, R168). -/
namespace Sys2Proof.Machine

/-- Bytes of a size (R45). -/
def sizeBytes : Size → Nat
  | .b => 1 | .h => 2 | .w => 4 | .d => 8 | .q => 16
/-- Bytes and extension of the load column of R44. -/
def ldBytes : LdKind → Nat
  | .bz | .bs => 1 | .hz | .hs => 2 | .wz | .ws => 4 | .d => 8 | .q => 16
def ldSigned : LdKind → Bool
  | .bs | .hs | .ws => true
  | .bz | .hz | .wz | .d | .q => false

/-- The register value of n loaded bytes (R166). -/
def extend (signed : Bool) (n x : Nat) : Word :=
  if signed then BitVec.ofInt 64 ((BitVec.ofNat (8 * n) x).toInt) else BitVec.ofNat 64 x

/-- Loaded bytes written to their register or pair (R166). -/
def Dev.wrLoaded (d : Dev) (rd : SReg) (n : Nat) (signed : Bool) (bs : List Byte) : Dev :=
  if n = 16 then d.wrPair rd (BitVec.ofNat 128 (leNat bs)) else d.wr rd (extend signed n (leNat bs))

/-- The bytes that a store of n bytes takes from its register or pair (R166). -/
def Dev.storeData (d : Dev) (rs : SReg) (n : Nat) : List Byte :=
  if n = 16 then leBytes 16 (d.rdPair rs).toNat else leBytes n (d.rd rs).toNat

/-- The address of LD and ST (R166). -/
def Dev.addrOff (d : Dev) (ra : SReg) (off : BitVec 13) : Word := d.rd ra + sext off

/-- A load through the caches, d before it and e after, has brought its grain from the home, where neither the core's L1 nor its slice held it.
What reads at the home, past every copy, brings none (R58, R64, R399). -/
def Dev.missed (d e : Dev) (va : Word) (n : Nat) (remote : Bool) : Bool :=
  match d.place d.core.status.pl .load va n false with
  | .ok (.home x pa) =>
    !remote && !pteDec x && (d.l1For d.cluster (some d.core.id) (leafDev x) pa n).isNone && (d.copyFor d.cluster (leafDev x) pa n).isNone
      && (e.copyFor d.cluster (leafDev x) pa n).isSome
  | .ok (.pad _ _ _) | .ok (.unit _) | .ok .held | .error _ => false

/-- LD and LDX (R166, R168). One that misses in the slice waits for its data (R340; log 7). -/
def Dev.doLoad (d : Dev) (rd : SReg) (va : Word) (n : Nat) (signed : Bool) (fq : Fe) (o : MemOrder) (sc : MemScope) : Act :=
  let remote := acquiring o && decide (sc = .pod)
  match d.load d.core.status.pl va n fq (acquiring o && wideScope sc) remote with
  | .error e => .error e
  | .ok r => if d.missed r.2 va n remote then .error (.left r.2 0x3) else .ok (r.2.wrLoaded rd n signed r.1).advance

/-- A store; a release waits first (R60). -/
def Dev.doStore (d : Dev) (rs : SReg) (va : Word) (n : Nat) (fq : Fe) (o : MemOrder) (sc : MemScope) : Act :=
  match d.place d.core.status.pl .store va n (decide (fq ≠ .none)) with
  | .error e => .error e
  | .ok _ =>
    match d.releaseIf o sc with
    | .error e => .error e
    | .ok d1 => (d1.store d.core.status.pl va (d.storeData rs n) (decide (fq = .fe))).map Dev.advance

def execLd (k : LdKind) (rd ra : SReg) (off : BitVec 13) (s : State) : Result State :=
  finish s (s.d.doLoad rd (s.d.addrOff ra off) (ldBytes k) (ldSigned k) .none .none .core)
def execSt (z : Size) (rs ra : SReg) (off : BitVec 13) (s : State) : Result State :=
  finish s (s.d.doStore rs (s.d.addrOff ra off) (sizeBytes z) .none .none .core)
def execLdx (z : Size) (signed : Bool) (fq : Fe) (o : MemOrder) (sc : MemScope) (rd ra rb : SReg) (s : State) : Result State :=
  finish s (s.d.doLoad rd (s.d.rd ra + s.d.rd rb) (sizeBytes z) signed fq o sc)
def execStx (z : Size) (fq : Fe) (o : MemOrder) (sc : MemScope) (rs ra rb : SReg) (s : State) : Result State :=
  finish s (s.d.doStore rs (s.d.rd ra + s.d.rd rb) (sizeBytes z) fq o sc)

end Sys2Proof.Machine
end

