-- ==== Sys2Proof/Machine/Events.lean ====
section
/-! DEFINITION. The EVT instructions, stores to the event unit, and the messages between event units (R316 to R328). -/
namespace Sys2Proof.Machine

/-- The unit of the current core. -/
def Dev.unit (d : Dev) : EventUnit := d.clusters[d.cluster].unit
/-- The number of the current core in its cluster, as the unit knows it (R317). -/
def Dev.coreNo (d : Dev) : Nat := d.core.id % 128

/-- The scope of a barrier (R317). -/
def barrierScope (b : Barrier) : MemScope :=
  if cfgScope b.cfg = 1 then .cl else if cfgScope b.cfg = 2 then .die else if cfgScope b.cfg = 3 then .dev else .pod

-- Barriers (R320).

/-- The number of the phase in which an arrival counts (R320). -/
def Barrier.phase (b : Barrier) : BitVec 32 := b.gen + if b.relw then 1 else 0

def Dev.doBarv (d : Dev) (now : Nat) (rd : SReg) (b : BitVec 8) : Act :=
  let x := d.unit.barrier b.toNat
  if !x.en then .ok (d.wr rd (BitVec.allOnes 64)).advance
  else
    match d.release (barrierScope x) with
    | .error e => .error e
    | .ok d1 =>
      .ok ((d1.afterUnit d.cluster (d1.unit.arriveAt (d.unitRef d.cluster) d.owner now b.toNat none)).wr rd (zext x.phase)).advance

def Dev.doBarw (d : Dev) (rd ra : SReg) (b : BitVec 8) : Act :=
  let x := d.unit.barrier b.toNat
  if !x.en then .ok (d.wr rd 2).advance
  else if passed x.gen ((d.rd ra).extractLsb' 0 32) then .ok (d.wr rd (boolWord x.timedOut)).advance
  else .error (.wait 0xA)

def execBarv (rd : SReg) (b : BitVec 8) (s : State) : Result State := finish s (s.d.doBarv s.gcycle rd b)
def execBarw (rd ra : SReg) (b : BitVec 8) (s : State) : Result State := finish s (s.d.doBarw rd ra b)

-- Events (R321).

/-- The unit that S[ra] names (R321): none where the value is no such name. -/
def unitName (x : Word) : Option UnitRef :=
  if bit x 63 ∧ bits x 62 60 = 0 ∧ bits x 47 13 = 0 ∧ bits x 7 0 = 0 then some { dev := x.extractLsb' 48 12, cluster := x.extractLsb' 8 5 }
  else none

/-- A refused signal is counted (R321, R342). -/
def Dev.refuseSignal (d : Dev) (o : Nat) : Dev := d.count o 0x004 1

/-- A unit that this device knows to be no unit of an owner: another owner's, or one of a device that the pod table does not list (R321,
R416; log 12). -/
def Dev.noUnitOf (d : Dev) (o : Nat) (u : UnitRef) : Bool :=
  if u.dev = d.deviceId then decide (d.clusters[Fin.ofNat 32 u.cluster.toNat].owner ≠ o) else !d.host.podTable.any fun x => decide (x.1 = u.dev)

/-- A signal of the current core to another unit: sent, or refused at once where it names no unit of the owner (R321). -/
def Dev.sendSignal (d : Dev) (u : UnitRef) (e : BitVec 8) : Dev :=
  let sc : MemScope := if u.dev = d.deviceId then .dev else .pod
  if d.noUnitOf d.owner u then d.refuseSignal d.owner
  else
    let d1 := if u.dev = d.deviceId then d.crossDies (d.cluster.val / 8) (u.cluster.toNat / 8) d.owner else d
    { d1 with
      core := { d.core with ends := d.core.ends.send (if u.dev = d.deviceId then 1 else 0) }
      messages := d.messages ++ [{ colour := d.core.ends.colour, owner := d.owner,
                                   msg := .signal { owner := d.owner, dst := u, ev := e, scope := sc } }] }

def Dev.doEvsig (d : Dev) (ra : SReg) (e : BitVec 8) : Act :=
  let x := d.rd ra
  if x = 0 ∨ unitName x = some (d.unitRef d.cluster) then
    (d.release .cl).map fun d1 => (d1.setUnit d.cluster (d1.unit.signal e.toNat)).advance
  else
    match unitName x with
    | none => .ok (d.refuseSignal d.owner).advance
    | some u => (d.release (if u.dev = d.deviceId then .dev else .pod)).map fun d1 => (d1.sendSignal u e).advance

/-- The grant that a core holds of an event: the count after taking. -/
def EventWord.grantOf (x : EventWord) (c : Nat) : Option Nat := (x.granted.find? fun g => decide (g.1 = c)).map (·.2)

/-- EVWAIT: a grant already made, or a count to take, or the core waits in its turn. -/
def Dev.doEvwait (d : Dev) (rd : SReg) (e : BitVec 8) : Act :=
  let x := d.unit.event e.toNat
  match x.grantOf d.coreNo with
  | some n =>
    .ok ((d.setUnit d.cluster (d.unit.setEvent e.toNat { x with granted := x.granted.filter fun g => decide (g.1 ≠ d.coreNo) })).wr rd
      (BitVec.ofNat 64 n)).advance
  | none =>
    if x.count ≠ 0 then
      .ok ((d.setUnit d.cluster (d.unit.setEvent e.toNat { x with count := x.count - 1 })).wr rd (BitVec.ofNat 64 (x.count - 1))).advance
    else
      let w := if x.waiting.contains d.coreNo then x.waiting else x.waiting ++ [d.coreNo]
      let d1 := d.setUnit d.cluster (d.unit.setEvent e.toNat { x with waiting := w })
      .ok { d1 with core := { d1.core with stall := 0xA } }

/-- EVTRY: the count as it was, and one taken where there is one. -/
def Dev.doEvtry (d : Dev) (rd : SReg) (e : BitVec 8) : Dev :=
  let x := d.unit.event e.toNat
  ((d.setUnit d.cluster (d.unit.setEvent e.toNat { x with count := x.count - 1 })).wr rd (BitVec.ofNat 64 x.count)).advance

def execEvsig (ra : SReg) (e : BitVec 8) (s : State) : Result State := finish s (s.d.doEvsig ra e)
def execEvwait (rd : SReg) (e : BitVec 8) (s : State) : Result State := finish s (s.d.doEvwait rd e)
def execEvtry (rd : SReg) (e : BitVec 8) (s : State) : Result State := .next (s.withDev (s.d.doEvtry rd e))

-- Mutexes (R322).

def Dev.setMutex (d : Dev) (m : BitVec 6) (x : Mutex) : Dev := d.setUnit d.cluster (d.unit.setMutex m.toNat x)

def Dev.doMlock (d : Dev) (m : BitVec 6) : Act :=
  let x := d.unit.mutex m.toNat
  match x.holder with
  | none => .ok (d.setMutex m { x with holder := some d.coreNo, granted := false }).advance
  | some c =>
    if x.granted ∧ c = d.coreNo then .ok (d.setMutex m { x with granted := false }).advance
    else
      let w := if x.waiting.contains d.coreNo then x.waiting else x.waiting ++ [d.coreNo]
      let d1 := d.setMutex m { x with waiting := w }
      .ok { d1 with core := { d1.core with stall := 0xA } }

def Dev.doMtry (d : Dev) (rd : SReg) (m : BitVec 6) : Dev :=
  let x := d.unit.mutex m.toNat
  match x.holder with
  | none => ((d.setMutex m { x with holder := some d.coreNo, granted := false }).wr rd 0).advance
  | some _ => (d.wr rd 1).advance

def Dev.doMunlock (d : Dev) (rd : SReg) (m : BitVec 6) : Act :=
  let x := d.unit.mutex m.toNat
  if x.holder = some d.coreNo then (d.release .cl).map fun d1 => ((d1.setMutex m x.free).wr rd 0).advance
  else .ok (d.wr rd 1).advance

def execMlock (m : BitVec 6) (s : State) : Result State := finish s (s.d.doMlock m)
def execMtry (rd : SReg) (m : BitVec 6) (s : State) : Result State := .next (s.withDev (s.d.doMtry rd m))
def execMunlock (rd : SReg) (m : BitVec 6) (s : State) : Result State := finish s (s.d.doMunlock rd m)

-- Monitor and wait (R323).

def Dev.doMonitor (d : Dev) (acq : Bool) (sc : MemScope) (rd ra rb : SReg) : Act :=
  let scopeBits : BitVec 3 := if acq then sc.code else 0
  d.needSupervisor (encS 0x29 rd ra 8 (0#1 ++ scopeBits ++ boolBit acq ++ rb)) <|
    d.notInGang <|
      let va := d.rd ra
      match d.place d.core.status.pl .load va 8 false with
      | .error e => .error e
      | .ok p =>
        if (match p with | .home e _ => pteRmt e | .pad _ _ _ => false | .unit _ => false | .held => false) then d.refuse va .load
        else
          match d.load d.core.status.pl va 8 .none (acq && wideScope sc) false with
          | .error e => .error e
          | .ok r =>
            let x : Word := BitVec.ofNat 64 (leNat r.1)
            if x = d.rd rb then .error (.wait 0xE) else .ok (r.2.wr rd x).advance

def execMonitorAndWait (acq : Bool) (sc : MemScope) (rd ra rb : SReg) (s : State) : Result State :=
  finish s (s.d.doMonitor acq sc rd ra rb)

-- Stores to the unit, as the unit performs them for the current core (R316, R318). The store's own step moves the pc.

/-- The address of an offset of the unit (R316). -/
def unitAddress (o : Nat) : Word := BitVec.ofNat 64 (clwBase + 126 * 2 ^ 21 + o)

def Dev.unitStore (d : Dev) (o : Nat) (value : Word) : Act :=
  d.store d.core.status.pl (unitAddress o) (leBytes 8 value.toNat) false

/-- EVENT_UNIT_WRITE: a store that the map does not allow; one that it allows is another step. -/
def Dev.badUnitStore (d : Dev) (o : Nat) (z : Size) : Act :=
  if z = .d ∧ ((o < 0x2000 ∧ (o % 32 = 0 ∨ o % 32 = 8)) ∨ (0x2000 ≤ o ∧ o < 0x2800 ∧ o % 8 = 0)) then .ok d
  else d.store d.core.status.pl (unitAddress o) (leBytes (sizeBytes z) 0) false

def execBarrierCfgWrite (b : BitVec 8) (value : Word) (s : State) : Result State := finish s (s.d.unitStore (32 * b.toNat) value)
def execBarrierParentWrite (b : BitVec 8) (value : Word) (s : State) : Result State := finish s (s.d.unitStore (32 * b.toNat + 8) value)
def execEventWordWrite (e : BitVec 8) (value : Word) (s : State) : Result State := finish s (s.d.unitStore (0x2000 + 8 * e.toNat) value)
def execEventUnitWrite (offset : BitVec 21) (size : Size) (s : State) : Result State := finish s (s.d.badUnitStore offset.toNat size)

-- Messages (R318, R321, R326, R328).

/-- A message taken out of flight, with its colour. -/
def takeFlight (m : UnitMsg) : List Flight → Option Flight × List Flight
  | [] => (none, [])
  | f :: t => if f.msg = m then (some f, t) else ((takeFlight m t).1, f :: (takeFlight m t).2)

/-- A message arrives at a unit of this device, which counts it while its owner holds the cluster; one from another device was not in
flight here (R331). -/
def Dev.receive (d : Dev) (m : UnitMsg) (k : Fin 32) : Dev :=
  let r := takeFlight m d.messages
  match r.1 with
  | none => d
  | some f =>
    let c := d.clusters[k]
    { d.setCluster k { c with ends := if c.owner = f.owner then c.ends.receive f.colour 1 else c.ends } with messages := r.2 }

/-- The saved image of an owner's unit (R328). -/
def Dev.savedUnit (d : Dev) (o : Nat) (k : Fin 32) : Option EventUnit :=
  (d.contexts.find o).bind fun c => (c.clusters.find? fun x => decide (x.number = k.val)).map (·.unit)

/-- A step of a saved image: what it sends is held until the restore (R328). -/
def Dev.afterSaved (d : Dev) (o : Nat) (k : Fin 32) (r : EventUnit × List UnitMsg) : Dev :=
  match d.contexts.find o with
  | none => d
  | some c =>
    let image (x : ClusterImage) : ClusterImage := if x.number = k.val then { x with unit := r.1 } else x
    let out := r.2.map fun m => ({ colour := false, owner := o, msg := m } : Flight)
    { d with contexts := d.contexts.set o { c with clusters := c.clusters.map image, messages := c.messages ++ out } }

/-- What a unit does with a message: its step, or a refusal. -/
abbrev UnitStep := EventUnit → Option (EventUnit × List UnitMsg)

/-- A message of an owner at a unit of this device: applied to its saved image while a switch has saved it, or to the unit, or refused
(R318, R326, R328). Timers stand still while a stop holds the cluster (R327). -/
def Dev.atUnit (d : Dev) (m : UnitMsg) (o : Nat) (k : Fin 32) (f : UnitStep) (refused : Dev → Dev) : Dev :=
  let e := d.receive m k
  match e.savedUnit o k with
  | some u =>
    match f u with
    | some r => e.afterSaved o k (r.1.stopTimers, r.2)
    | none => refused e
  | none =>
    if e.clusters[k].owner = o then
      match f e.clusters[k].unit with
      | some r => e.afterUnit k (if e.unitHalted k then (r.1.stopTimers, r.2) else r)
      | none => refused e
    else refused e

/-- A message arrives only if it was sent: one of a barrier of this device is in flight, and it is the first in flight between its two barriers,
which it reaches in the order sent (R326, R328; log 16). What another device sends is not known here. -/
def Dev.mayArrive (d : Dev) (m : UnitMsg) : Bool :=
  match m.link with
  | none => true
  | some l =>
    decide (l.1.unit.dev ≠ d.deviceId) || (d.messages.find? fun f => decide (f.msg.link = some l)).any fun f => decide (f.msg = m)

/-- A message to a unit: one of another device leaves this one at a port (R326, R415), and one of a barrier on another die comes by their link (R10,
R202). -/
def Dev.deliverTo (d : Dev) (m : UnitMsg) (o : Nat) (dst : UnitRef) (f : UnitStep) (refused : Dev → Dev) : Dev :=
  if !d.mayArrive m then d
  else if dst.dev = d.deviceId then
    let k := Fin.ofNat 32 dst.cluster.toNat
    let e := match m.link with
      | none => d
      | some l => if l.1.unit.dev = d.deviceId then d.crossDies (l.1.unit.cluster.toNat / 8) (k.val / 8) o else d
    if d.routerHolds o k then d else e.atUnit m o k f refused
  else ({ d with messages := (takeFlight m d.messages).2 }).egress dst.dev o

/-- A refused message comes back to its sender, where that is a unit of this device, or a saved one (R326, R328). -/
def Dev.bounce (m : BarMsg) (d : Dev) : Dev :=
  let k := Fin.ofNat 32 m.src.unit.cluster.toNat
  if m.src.unit.dev ≠ d.deviceId then d
  else
    match d.savedUnit m.owner k with
    | some u => d.afterSaved m.owner k (u.refusedAt m.src.bar.toNat, [])
    | none => if d.clusters[k].owner = m.owner then d.setUnit k (d.clusters[k].unit.refusedAt m.src.bar.toNat) else d

/-- A step of a barrier that is in use (R326). -/
def whenUsed (n : Nat) (f : EventUnit → EventUnit × List UnitMsg) : UnitStep :=
  fun u => if (u.barrier n).en then some (f u) else none

def Dev.doArrive (d : Dev) (now : Nat) (m : BarMsg) : Dev :=
  d.deliverTo (.arrive m) m.owner m.dst.unit
    (whenUsed m.dst.bar.toNat fun u => u.arriveAt m.dst.unit m.owner now m.dst.bar.toNat (some m.src)) (Dev.bounce m)
def Dev.doRelease (d : Dev) (m : BarMsg) (timedOut : Bool) : Dev :=
  d.deliverTo (.release m timedOut) m.owner m.dst.unit
    (whenUsed m.dst.bar.toNat fun u => u.releaseAt m.dst.unit m.owner m.dst.bar.toNat timedOut) (Dev.bounce m)
def Dev.doAbsent (d : Dev) (m : BarMsg) : Dev :=
  d.deliverTo (.absent m) m.owner m.dst.unit
    (whenUsed m.dst.bar.toNat fun u => u.absentAt m.dst.unit m.owner m.dst.bar.toNat) (Dev.bounce m)
def Dev.doPresent (d : Dev) (now : Nat) (m : BarMsg) : Dev :=
  d.deliverTo (.present m) m.owner m.dst.unit
    (whenUsed m.dst.bar.toNat fun u => u.presentAt m.dst.unit m.owner now m.dst.bar.toNat) (Dev.bounce m)
def Dev.doSignal (d : Dev) (m : SignalMsg) : Dev :=
  d.deliverTo (.signal m) m.owner m.dst (fun u => some (u.signal m.ev.toNat, [])) fun e => e.refuseSignal m.owner

/-- A unit of another device has refused a message of this one: a barrier's sender completes (R326), a signal is counted. The owner's counter
0x004 of the sending device counts it, beside the signals that this device's own units refuse: R321 does not say which device counts (DESIGN
CHOICE, log 16). -/
def Dev.unitRefusal (d : Dev) : UnitMsg → Dev
  | .arrive m | .release m _ | .absent m | .present m => if m.dst.unit.dev = d.deviceId then d else Dev.bounce m d
  | .signal m => if m.dst.dev = d.deviceId then d else d.refuseSignal m.owner

def execArrive (m : BarMsg) (s : State) : Result State := .next (s.withDev (s.d.doArrive s.gcycle m))
def execRelease (m : BarMsg) (timedOut : Bool) (s : State) : Result State := .next (s.withDev (s.d.doRelease m timedOut))
def execAbsent (m : BarMsg) (s : State) : Result State := .next (s.withDev (s.d.doAbsent m))
def execPresent (m : BarMsg) (s : State) : Result State := .next (s.withDev (s.d.doPresent s.gcycle m))
def execEventSignal (m : SignalMsg) (s : State) : Result State := .next (s.withDev (s.d.doSignal m))

/-- BARRIER_TIMEOUT (R327): the timer of a root in use has reached TIMEOUT x 1,024 cycles, with no child absent. -/
def Dev.timeout (d : Dev) (now cluster : Nat) (b : BitVec 8) : Dev :=
  let k := Fin.ofNat 32 cluster
  let u := d.clusters[k].unit
  let x := u.barrier b.toNat
  match x.timer with
  | none => d
  | some t =>
    if x.en ∧ x.pv = false ∧ x.timeout ≠ 0 ∧ x.absent = 0 ∧ t + x.timeout * 1024 ≤ now ∧ d.unitHalted k = false then
      d.afterUnit k (u.timeoutAt (d.unitRef k) d.clusters[k].owner b.toNat)
    else d

def execBarrierTimeout (cluster : Nat) (b : BitVec 8) (s : State) : Result State :=
  .next (s.withDev (s.d.timeout s.gcycle cluster b))

end Sys2Proof.Machine
end

