-- ==== Sys2Proof/Machine/Matrix.lean ====
section
/-! DEFINITION. The matrix engine: MMA, MCTL and the matrix queue (R273 to R292). Entries enter the queue at issue and are performed by
MATRIX_QUEUE_ENTRY, by an instruction that waits for them, or when a further entry finds the queue full (log 7). -/
namespace Sys2Proof.Machine

-- Banks (R29, R102, R278).

/-- Element i of a bank; a stale bank reads as +0.0. -/
def Tagged.at (b : Bank) (g : BitVec 8) (i : Fin 512) : Word32 := if b.gen = g then b.val[i] else 0

/-- A bank of one value. -/
def Bank.fill (g : BitVec 8) (x : Word32) : Bank := ⟨Vector.replicate 512 x, g⟩

/-- The canonical NaN that the engine writes. -/
def nan32 : Word32 := 0x7FC00000

-- Operands (R274, R275).

/-- K-blocks of 32 elements in a line (R285). -/
def PlaneDesc.kb (t : PlaneDesc) : Nat := if t.kind = 0 then 0 else if t.isQn4 then 2 * t.nblk else t.nblk

/-- Stored magnitude bits d of R274. -/
def PlaneDesc.depth (t : PlaneDesc) : Nat := if t.isQn4 then 7 else t.w

/-- Int of R274. -/
def operandInt (d pa : Nat) (rnd : Bool) (x : Int) : Int :=
  if pa < d then x / 2 ^ (d - pa) + (if rnd && decide (wrapTo d x / 2 ^ (d - pa - 1) % 2 = 1) then 1 else 0) else x * 2 ^ (pa - d)

/-- AInt or BInt of one stored integer: for QN4 the magnitude is taken first and the sign applied after (R274). -/
def PlaneDesc.operand (t : PlaneDesc) (pa : Nat) (rnd : Bool) (x : Int) : Int :=
  if t.isQn4 then (if x < 0 then -(operandInt 7 pa rnd x.natAbs) else operandInt 7 pa rnd x) else operandInt t.w pa rnd x

/-- One operand block as it enters the array: none when it is special or outside the region (R275, R285), else its integers and
scale. DESIGN CHOICE (log 22): K-block k of a QN4 operand, k = a0 + j, is half k mod 2 of block k / 2 also where a0 is odd, where R273 names the half
by j alone. -/
def operandBlock (p : Scratch) (g : BitVec 8) (t : PlaneDesc) (pa : Nat) (rnd : Bool) (m k : Nat) : Option (List Int × Exact) :=
  if t.kb ≤ k then none
  else
    let b := if t.isQn4 then k / 2 else k
    if blockSpecial p g t m b then none
    else
      let xs := blockInts p g t m b
      let half := if t.isQn4 then (xs.drop (32 * (k % 2))).take 32 else xs
      some (half.map (t.operand pa rnd), (blockScale p g t m b).scaleInt ((t.depth : Int) - pa))

/-- The exact t of R276; a zero counts as +0. -/
def blockProduct (a b : List Int × Exact) : Exact :=
  let x := (Exact.ofInt ((List.zipWith (· * ·) a.1 b.1).sum)).mul (a.2.mul b.2)
  if x.num = 0 then { neg := false, num := 0, den := 1 } else x

/-- One element's step (R276). -/
def accumulate (c : Word32) (t : Exact) : Word32 :=
  match Fmt.f32.decode c.toNat with
  | .nan _ => nan32
  | .inf _ => c
  | .fin x => BitVec.ofNat 32 (Fmt.f32.round .rne (x.add .rne t)).1

/-- The flags of the blocks of a list that are special. -/
def specialBits (xs : List (Option (List Int × Exact))) : Nat :=
  (xs.mapIdx fun i x => if x.isNone then 2 ^ i else 0).sum

/-- One K-block of an MMA (R276). -/
def mmaBlock (p : Scratch) (g : BitVec 8) (dA dB : PlaneDesc) (pa : Nat) (rnd : Bool) (ka kb : Nat) (s : AccSet) : AccSet :=
  let as := (List.range 32).map fun m => operandBlock p g dA pa rnd m ka
  let bs := (List.range 16).map fun n => operandBlock p g dB dB.depth false n kb
  let w := Vector.ofFn fun i : Fin 512 =>
    accumulate (s.working.at g i)
      (match (as.getD (i.val / 16) none), (bs.getD (i.val % 16) none) with
        | some a, some b => blockProduct a b
        | some _, none => { neg := false, num := 0, den := 1 }
        | none, _ => { neg := false, num := 0, den := 1 })
  { s with
    working := ⟨w, g⟩
    rowNaN := s.rowNaN ||| BitVec.ofNat 32 (specialBits as)
    colNaN := s.colNaN ||| BitVec.ofNat 16 (specialBits bs) }

/-- The K-blocks of an MMA in ascending order. -/
def mmaBlocks (p : Scratch) (g : BitVec 8) (dA dB : PlaneDesc) (pa : Nat) (rnd : Bool) : Nat → Nat → Nat → AccSet → AccSet
  | 0, _, _, s => s
  | n + 1, ka, kb, s => mmaBlocks p g dA dB pa rnd n (ka + 1) (kb + 1) (mmaBlock p g dA dB pa rnd ka kb s)

/-- The working bank and flags zeroed (R276, z = 1). -/
def AccSet.zeroed (s : AccSet) (g : BitVec 8) : AccSet := { s with working := Bank.fill g 0, rowNaN := 0, colNaN := 0 }

/-- kb, a0 and b0 of an MMA (R284). -/
def mmaCount (sk : Word) : Nat := bits sk 11 0
def mmaFirstA (so : Word) : Nat := bits so 11 0
def mmaFirstB (so : Word) : Nat := bits so 27 16

/-- An MMA in the array (R276); into a poisoned set it is discarded (R280). -/
def performMma (p : Scratch) (g : BitVec 8) (sk so : Word) (pm1 : BitVec 4) (rnd z : Bool) (descA descB : Word) (s : AccSet) : AccSet :=
  if s.poison.isSome then s
  else mmaBlocks p g (.ofWord descA) (.ofWord descB) (pm1.toNat + 1) rnd (mmaCount sk) (mmaFirstA so) (mmaFirstB so)
    (if z then s.zeroed g else s)

-- Entries.

def Dev.accAt (d : Dev) (n : BitVec 2) : AccSet := d.core.acc[n.toFin]
def Dev.setAcc (d : Dev) (n : BitVec 2) (s : AccSet) : Dev := { d with core := { d.core with acc := d.core.acc.set n.toFin s } }

/-- The offset of element i of a bank moved to or from an offset (R291). -/
def bankOffset (o i : Nat) : Nat := (o + 4 * i) % 262144

/-- MLDA in the engine (R291). What a row with an uncorrectable error does to it the spec does not say: the bytes are read as they stand (DESIGN
CHOICE, log 5). -/
def Dev.performLoad (d : Dev) (n : BitVec 2) (o : Nat) : Dev :=
  d.setAcc n { d.accAt n with
    visible := ⟨Vector.ofFn fun i : Fin 512 => BitVec.ofNat 32 (leNat (d.core.pad.read d.gen (bankOffset o i.val) 4)), d.gen⟩ }

/-- MSTO in the engine (R68, R291). A row with an uncorrectable error it writes as any other, which the spec does not say (DESIGN CHOICE, log 5). -/
def Dev.performStore (d : Dev) (n : BitVec 2) (fe : Bool) (o : Nat) : Dev :=
  let b := (d.accAt n).visible
  let p := (List.finRange 512).foldl (fun q i => q.write d.gen (bankOffset o i.val) (leBytes 4 (b.at d.gen i).toNat)) d.core.pad
  let grs := (List.range 128).map fun i => (o / 16 + i) % 16384
  { d with core := { d.core with pad := if fe then p.setFull d.gen grs else p } }

/-- The address of a byte of the core's own scratchpad as a fault names it. -/
def ownPad (o : Nat) : Word := BitVec.ofNat 64 (clwBase + 127 * 2 ^ 21 + o)

/-- The operand descriptor that an error names, and the K-blocks of it that the MMA reads (R280, R285). -/
def MatrixEntry.failing (e : MatrixEntry) (x : MatrixError) : Option (BitVec 4 × PlaneDesc) :=
  match e.op with
  | .mma dA dB sk so _ _ _ descA descB =>
    let t := PlaneDesc.ofWord (if x.operandB then descB else descA)
    let k0 := if x.operandB then mmaFirstB so else mmaFirstA so
    if x.line < (if x.operandB then 16 else 32) ∧ k0 ≤ x.kblock ∧ x.kblock < k0 + mmaCount sk ∧ x.kblock < t.kb then
      some (if x.operandB then dB else dA, t) else none
  | .zero | .load _ | .store _ _ | .row _ _ => none

/-- An uncorrectable error on an operand block poisons the set, once (R280). -/
def AccSet.poisoned (s : AccSet) (desc : BitVec 4) (t : PlaneDesc) (x : MatrixError) : AccSet :=
  let b := if t.isQn4 then x.kblock / 2 else x.kblock
  match s.poison with
  | some _ => s
  | none => { s with poison := some { desc := desc, block := b, faddr := ownPad (t.blockAt x.line b) } }

/-- The operand block of an MMA that is reported for an uncorrectable error (R280). Of several the spec names none: the model takes the first in
ascending K-blocks, and in each the lines of A before those of B (DESIGN CHOICE, log 22). -/
def MatrixEntry.badBlock (e : MatrixEntry) (p : Scratch) : Option MatrixError :=
  match e.op with
  | .mma _ _ sk so _ _ _ descA descB =>
    let blocks := (List.range (mmaCount sk)).flatMap fun i =>
      ((List.range 32).map fun m => (⟨false, m, mmaFirstA so + i⟩ : MatrixError))
        ++ (List.range 16).map fun n => ⟨true, n, mmaFirstB so + i⟩
    if p.bad.isEmpty then none
    else blocks.find? fun x =>
      let t := PlaneDesc.ofWord (if x.operandB then descB else descA)
      let b := if t.isQn4 then x.kblock / 2 else x.kblock
      decide (x.kblock < t.kb) && p.badIn
        (granulesOf (t.blockAt x.line b) t.bb ++ granulesOf (t.scaleAt x.line b) 1
          ++ (if t.isQn4 then granulesOf (t.groupAt x.line b) 4 else []))
  | .zero | .load _ | .store _ _ | .row _ _ => none

/-- MROW in the engine (R292). -/
def Dev.readBank (d : Dev) (vd : VReg) (n : BitVec 2) (m0 : Nat) : Dev :=
  let b := (d.accAt n).visible
  d.wrV vd (ofElems 32 ((List.range 64).map fun i => (b.at d.gen (Fin.ofNat 512 (16 * m0 + i))).toNat))

/-- One entry of the matrix queue performed on the current core. -/
def Dev.performEntry (d : Dev) (e : MatrixEntry) : Dev :=
  match e.op with
  | .mma _ _ sk so pm1 rnd z descA descB =>
    match (e.badBlock d.core.pad).bind fun x => (e.failing x).map fun nt => (x, nt) with
    | some (x, n, t) => d.setAcc e.set ((d.accAt e.set).poisoned n t x)
    | none =>
    let steps := if (d.accAt e.set).poison.isSome then 0 else mmaCount sk * (pm1.toNat + 1)
    (d.event d.owner 0x0A steps).setAcc e.set (performMma d.core.pad d.gen sk so pm1 rnd z descA descB (d.accAt e.set))
  | .zero => d.setAcc e.set { d.accAt e.set with visible := Bank.fill d.gen 0 }
  | .load a => d.performLoad e.set a.toNat
  | .store fe a => d.performStore e.set fe a.toNat
  | .row vd m0 => d.readBank vd e.set m0

def MatrixEntry.isMctl (e : MatrixEntry) : Bool :=
  match e.op with
  | .mma _ _ _ _ _ _ _ _ _ => false
  | .zero | .load _ | .store _ _ | .row _ _ => true

/-- The oldest entry of a kind, and the queue without it (R282). -/
def takeEntry (mctl : Bool) : List MatrixEntry → Option (MatrixEntry × List MatrixEntry)
  | [] => none
  | e :: t => if e.isMctl = mctl then some (e, t) else (takeEntry mctl t).map fun r => (r.1, e :: r.2)

/-- Entries performed in queue order, all of those that satisfy a condition; the others stay. -/
def Dev.drain (d : Dev) (p : MatrixEntry → Bool) : Dev :=
  let q := d.core.matrix
  (q.filter p).foldl Dev.performEntry { d with core := { d.core with matrix := q.filter fun e => !p e } }

/-- Every entry retires: what a FENCE waits for (R182). -/
def Dev.drainAll (d : Dev) : Dev := d.drain fun _ => true

/-- What a FENCE does before the pc moves on (R62, R182): the matrix queue retires; a wait for acknowledgements has stall reason 0xD. -/
def Dev.fenceAt (d : Dev) (o : MemOrder) (sc : MemScope) : Act :=
  if releasing o && d.holdsAny d.core.id then .error (.wait 0xD)
  else .ok (if releasing o then d.drainAll.awaitAcks d.cluster sc else d.drainAll)

/-- What MSWAP and MWAIT of a set wait for, and the entries that stay (R290): every MCTL entry, and every MMA into the set with those
before it, since MMAs occupy the array in queue order (R282). -/
def retireSplit (n : BitVec 2) : List MatrixEntry → List MatrixEntry × List MatrixEntry
  | [] => ([], [])
  | e :: t =>
    let r := retireSplit n t
    if e.isMctl || decide (e.set = n) || r.1.any (fun x => !x.isMctl) then (e :: r.1, r.2) else (r.1, e :: r.2)

/-- An entry of the queue performed while the instruction at the pc waits for it, with a reason (R340; log 7). -/
def Dev.awaitEntry (d : Dev) (e : MatrixEntry) (reason : BitVec 4) : Dev :=
  let f := ({ d with core := { d.core with matrix := d.core.matrix.erase e } }).performEntry e
  { f with core := { f.core with stall := reason } }

/-- An entry enters the queue. -/
def Dev.enqueue (d : Dev) (e : MatrixEntry) : Dev := { d with core := { d.core with matrix := d.core.matrix ++ [e] } }

/-- An instruction that puts an entry into the queue, and waits while the queue is full (R282, R340). -/
def Dev.issue (d : Dev) (e : MatrixEntry) : Dev :=
  match d.core.matrix with
  | [] => (d.enqueue e).advance
  | h :: _ => if d.core.matrix.length < Config.matrixDepth then (d.enqueue e).advance else d.awaitEntry h 0x7

-- Checks against SAVEAREA (R100, R285, R291).

/-- The lowest byte that ranges share with the save area, while the core is at user level. -/
def Core.saveHit (c : Core) (ranges : List (Nat × Nat)) : Option Nat :=
  let b := bits c.savearea 17 10 * 1024
  let n := bits c.savearea 27 20 * 1024
  if c.status.pl = .user ∧ n ≠ 0 then
    ((ranges.filter fun r => overlap r.1 r.2 b n).map fun r => max r.1 b).min?
  else none

/-- Region(D) of R285 as ranges. -/
def PlaneDesc.region (t : PlaneDesc) : List (Nat × Nat) :=
  if t.kind = 0 then []
  else
    [(t.base, 32 * t.stride), (t.sbase, 32 * t.nblk)]
      ++ (if t.isQn4 then [(t.sbase + 32 * t.nblk, 4 * ceilDiv' (32 * t.nblk) 256)] else [])

/-- The 2 KiB of MLDA and MSTO, which go round at the end of the scratchpad (R291). -/
def bankRange (o : Nat) : List (Nat × Nat) :=
  if o + 2048 ≤ 262144 then [(o, 2048)] else [(o, 262144 - o), (0, o + 2048 - 262144)]

-- The instructions.

/-- MMA at issue (R285). -/
def Dev.doMma (d : Dev) (acc : BitVec 2) (dA dB : BitVec 4) (sk so : SReg) (pm1 : BitVec 4) (rnd z : Bool) : Act :=
  match d.core.saveHit ((PlaneDesc.ofWord (d.rdD dA)).region ++ (PlaneDesc.ofWord (d.rdD dB)).region) with
  | some o => d.trap 0x05 (ownPad o) 2
  | none =>
    .ok (d.issue { set := acc, op := .mma dA dB (d.rd sk) (d.rd so) pm1 rnd z (d.rdD dA) (d.rdD dB) })

/-- What a poisoned set reports: the deferred MATRIX trap, which clears the poison when it is taken (R94, R280). -/
def Dev.reportPoison (d : Dev) (n : BitVec 2) (x : Poison) : Dev :=
  let s : AccSet := { d.accAt n with working := Bank.fill d.gen nan32, rowNaN := 0, colNaN := 0, poison := none }
  (if d.core.status.cons then d.setAcc n s else d).takeTrap
    { code := 0x0A, epc := d.core.pc, faddr := x.faddr, finfo := BitVec.ofNat 64 (n.toNat + 16 * x.desc.toNat + 65536 * x.block)
      async := false, defer := true }

/-- The drain of R279 applied to the working bank under a generation. -/
def AccSet.drained (s : AccSet) (g : BitVec 8) : Bank :=
  ⟨Vector.ofFn fun i : Fin 512 =>
    if bit s.rowNaN (i.val / 16) || bit s.colNaN (i.val % 16) then nan32 else s.working.at g i, g⟩

/-- The exchange of MSWAP (R278, R290). -/
def AccSet.swap (s : AccSet) (g : BitVec 8) : AccSet :=
  { s with working := s.visible, visible := s.drained g, rowNaN := 0, colNaN := 0 }

/-- MWAIT and MSWAP (R290): while an entry that they wait for is left they wait (R340); then a poisoned set reports, else the effect. -/
def Dev.afterRetired (d : Dev) (n : BitVec 2) (k : Dev → Dev) : Dev :=
  match (retireSplit n d.core.matrix).1 with
  | e :: _ => d.awaitEntry e 0x8
  | [] =>
    match (d.accAt n).poison with
    | some x => d.reportPoison n x
    | none => (k d).advance

def Dev.doMswap (d : Dev) (n : BitVec 2) : Dev := d.afterRetired n fun e => e.setAcc n ((e.accAt n).swap e.gen)
def Dev.doMwait (d : Dev) (n : BitVec 2) : Dev := d.afterRetired n id

/-- The checks of MLDA and MSTO (R291): store is FINFO [4]. -/
def Dev.bankCheck (d : Dev) (o : Nat) (store : Bool) (k : Act) : Act :=
  if o % 64 ≠ 0 then d.trap 0x03 (ownPad o) (if store then 0x16 else 6)
  else
    match d.core.saveHit (bankRange o) with
    | some b => d.trap 0x05 (ownPad b) (if store then 0x12 else 2)
    | none => k

/-- The offset that MLDA and MSTO take from a register (R291). -/
def Dev.bankAddr (d : Dev) (ra : SReg) : Nat := bits (d.rd ra) 17 0

def Dev.doMlda (d : Dev) (n : BitVec 2) (ra : SReg) : Act :=
  d.bankCheck (d.bankAddr ra) false (.ok (d.issue { set := n, op := .load (BitVec.ofNat 64 (d.bankAddr ra)) }))
def Dev.doMsto (d : Dev) (fe : Bool) (n : BitVec 2) (ra : SReg) : Act :=
  d.bankCheck (d.bankAddr ra) true (.ok (d.issue { set := n, op := .store fe (BitVec.ofNat 64 (d.bankAddr ra)) }))

/-- MROW (R282, R292): an entry of the queue, performed after every earlier MCTL entry. -/
def Dev.doMrow (d : Dev) (vd : VReg) (n : BitVec 2) (ra : SReg) : Dev := d.issue { set := n, op := .row vd ((d.rd ra).toNat % 32) }

def MatrixEntry.isRow (e : MatrixEntry) : Bool :=
  match e.op with
  | .row _ _ => true
  | .mma _ _ _ _ _ _ _ _ _ | .zero | .load _ | .store _ _ => false

/-- No MROW waits in the queue: with one there, the MCTL entries are performed. An instruction that may use a vector register finds it so
(R242, R282; the wait is collapsed, log 7). -/
def Dev.settleRows (d : Dev) : Dev := if d.core.matrix.any MatrixEntry.isRow then d.drain MatrixEntry.isMctl else d

def execMma (acc : BitVec 2) (dA dB : BitVec 4) (sk so : SReg) (pm1 : BitVec 4) (rnd z : Bool) (s : State) : Result State :=
  finish s (s.d.doMma acc dA dB sk so pm1 rnd z)
def execMswap (n : BitVec 2) (s : State) : Result State := .next (s.withDev (s.d.doMswap n))
def execMwait (n : BitVec 2) (s : State) : Result State := .next (s.withDev (s.d.doMwait n))
def execMzero (n : BitVec 2) (s : State) : Result State := .next (s.withDev (s.d.issue { set := n, op := .zero }))
def execMlda (n : BitVec 2) (ra : SReg) (s : State) : Result State := finish s (s.d.doMlda n ra)
def execMsto (fe : Bool) (n : BitVec 2) (ra : SReg) (s : State) : Result State := finish s (s.d.doMsto fe n ra)
def execMrow (vd : VReg) (n : BitVec 2) (ra : SReg) (s : State) : Result State := .next (s.withDev (s.d.doMrow vd n ra))

-- MATRIX_QUEUE_ENTRY.

/-- The oldest MMA, or the oldest MCTL entry, of the current core leaves its queue (R282). -/
def Dev.queueEntry (d : Dev) (mctl : Bool) (err : Option MatrixError) : Dev :=
  match takeEntry mctl d.core.matrix with
  | none => d
  | some (e, rest) =>
    let d1 := { d with core := { d.core with matrix := rest } }
    match err with
    | none => d1.performEntry e
    | some x =>
      match e.failing x with
      | none => d
      | some (n, t) => d1.setAcc e.set ((d.accAt e.set).poisoned n t x)

def execMatrixQueueEntry (core : Nat) (mctl : Bool) (err : Option MatrixError) (s : State) : Result State :=
  .next (s.withDev (s.d.engineOf core fun d => d.queueEntry mctl err))

-- The halt (R330).

/-- An MMA cut after n of its K-blocks: what has been done, and the entry that is left. -/
def MatrixEntry.cutAt (e : MatrixEntry) (n : Nat) : Option (MatrixEntry × MatrixEntry) :=
  match e.op with
  | .mma dA dB sk so pm1 rnd z descA descB =>
    let k := mmaCount sk
    let a := mmaFirstA so + n
    let b := mmaFirstB so + n
    if 0 < n ∧ n < k ∧ a < 4096 ∧ b < 4096 then
      some ({ e with op := .mma dA dB (BitVec.ofNat 64 n) so pm1 rnd z descA descB },
        { e with op := .mma dA dB (BitVec.ofNat 64 (k - n)) (BitVec.ofNat 64 (a + 65536 * b)) pm1 rnd false descA descB })
    else none
  | .zero | .load _ | .store _ _ | .row _ _ => none

/-- The MMA in the array, the oldest of the queue, finishes its K-block, and the rest of it stays as an entry. -/
def Dev.cutMma (d : Dev) : Dev :=
  match takeEntry false d.core.matrix with
  | none => d
  | some (e, rest) =>
    match e.cutAt (Config.haltProgress d.draws) with
    | none => { d with draws := d.draws + 1 }
    | some (x, y) => ({ d with core := { d.core with matrix := y :: rest }, draws := d.draws + 1 }).performEntry x

end Sys2Proof.Machine
end

