-- ==== Sys2Proof/Machine/Atomic.lean ====
section
/-! DEFINITION. Atomics (R169 to R171). -/
namespace Sys2Proof.Machine

/-- The operations of ATOM. -/
inductive AtomOp where
  | swp | cas | add | and | or | xor | max | min
  deriving DecidableEq, Repr

/-- The new value of an atomic on n bytes, if one is written (R169). -/
def atomNew (op : AtomOp) (n old src exp : Nat) : Option Nat :=
  match op with
  | .swp => some src
  | .cas => if old = exp then some src else none
  | .add => some ((old + src) % 2 ^ (8 * n))
  | .and => some (old &&& src)
  | .or => some (old ||| src)
  | .xor => some (old ^^^ src)
  | .max => some (if (BitVec.ofNat (8 * n) old).toInt < (BitVec.ofNat (8 * n) src).toInt then src else old)
  | .min => some (if (BitVec.ofNat (8 * n) src).toInt < (BitVec.ofNat (8 * n) old).toInt then src else old)

/-- A read-modify-write where it is performed (R171): the old value, and the device after it. -/
def Dev.rmw (d : Dev) (lv : Level) (va : Word) (n : Nat) (f : Nat → Option Nat) : Except Stop (Nat × Dev) :=
  match d.place lv .store va n true with
  | .error e => .error e
  | .ok .held => .error (d.queued va)
  | .ok (.unit _) => d.refuse va .store
  | .ok (.pad c win off) =>
    let x := d.coreAt c
    let old := leNat (windowRead x d.gen win off n)
    if x.pad.badIn (windowGranules x d.gen win off n) then d.trap 0x09 va 4
    else .ok (old, match f old with
      | none => d.crossed c
      | some x => d.padStore c win off va (leBytes n x) false)
  | .ok (.home e pa) =>
    if pteDec e then d.cellTrap va 4
    else if remoteRefuses e then d.refuse va .store
    else if d.heldOver d.core.id va n then .error (d.queued va)
    else
      match d.badAt (leafDev e) pa n with
      | some place => d.trap 0x09 va (zext place)
      | none =>
      let g := d.gathered (leafDev e) pa (grainBytes e)
      let old := leNat (g.homeRead (leafDev e) pa n)
      let l := g.lookup (leafDev e) (grainBase pa (grainBytes e)) (grainBytes e) d.owner ((f old).map fun _ => (pa, n))
      let h := l.forgetRemote d.cluster (leafDev e) pa (grainBytes e)
      .ok (old, match f old with
        | none => h
        | some x => h.homeUpdate (leafDev e) (some d.cluster.val) pa (leBytes n x))

/-- The source or expected value of an atomic (R170). -/
def Dev.atomData (d : Dev) (r : SReg) (n : Nat) : Nat :=
  if n = 16 then (d.rdPair r).toNat else (d.rd r).toNat % 2 ^ (8 * n)

/-- ATOM (R170): the .w forms sign-extend the old value. -/
def Dev.doAtom (d : Dev) (op : AtomOp) (z : Size) (o : MemOrder) (sc : MemScope) (rd ra rb : SReg) : Act :=
  let n := sizeBytes z
  match d.place d.core.status.pl .store (d.rd ra) n true with
  | .error e => .error e
  | .ok _ =>
    match d.releaseIf o sc with
    | .error e => .error e
    | .ok d1 =>
      match d1.rmw d.core.status.pl (d.rd ra) n fun old => atomNew op n old (d.atomData rb n) (d.atomData rd n) with
      | .error e => .error e
      | .ok r => .ok (r.2.wrLoaded rd n (decide (n = 4)) (leBytes n r.1)).advance

def execAtomSwp (z : Size) (o : MemOrder) (sc : MemScope) (rd ra rb : SReg) (s : State) : Result State :=
  finish s (s.d.doAtom .swp z o sc rd ra rb)
def execAtomCas (z : Size) (o : MemOrder) (sc : MemScope) (rd ra rb : SReg) (s : State) : Result State :=
  finish s (s.d.doAtom .cas z o sc rd ra rb)
def execAtomAdd (z : Size) (o : MemOrder) (sc : MemScope) (rd ra rb : SReg) (s : State) : Result State :=
  finish s (s.d.doAtom .add z o sc rd ra rb)
def execAtomAnd (z : Size) (o : MemOrder) (sc : MemScope) (rd ra rb : SReg) (s : State) : Result State :=
  finish s (s.d.doAtom .and z o sc rd ra rb)
def execAtomOr (z : Size) (o : MemOrder) (sc : MemScope) (rd ra rb : SReg) (s : State) : Result State :=
  finish s (s.d.doAtom .or z o sc rd ra rb)
def execAtomXor (z : Size) (o : MemOrder) (sc : MemScope) (rd ra rb : SReg) (s : State) : Result State :=
  finish s (s.d.doAtom .xor z o sc rd ra rb)
def execAtomMax (z : Size) (o : MemOrder) (sc : MemScope) (rd ra rb : SReg) (s : State) : Result State :=
  finish s (s.d.doAtom .max z o sc rd ra rb)
def execAtomMin (z : Size) (o : MemOrder) (sc : MemScope) (rd ra rb : SReg) (s : State) : Result State :=
  finish s (s.d.doAtom .min z o sc rd ra rb)

end Sys2Proof.Machine
end

