-- ==== Sys2Proof/Machine/Reduce.lean ====
section
/-! DEFINITION. Reductions (R172 to R177) and the replay of held accesses (R156). -/
namespace Sys2Proof.Machine

/-- A reduction that passed its checks at a home: accepted by the slice of the issuing cluster behind that cluster's own stores to
the grain, whose copies of another device's memory the cluster gives up, since no later load of its own may miss the reduction (R55, R64,
R174); or refused after it retired (R133, R177). -/
def Dev.homeRed (d : Dev) (k : Fin 32) (core : Nat) (lv : Level) (e : Word) (pa : Nat) (r : RedRequest) : Act :=
  let q := { r with pa := pa }
  if remoteRefuses e then
    if d.orphanRoom k then
      .ok (d.addOrphan k { owner := r.owner, core := core, level := lv, va := r.va, kid := r.kid, red := some q, bytes := [],
                           reported := false })
    else .error (.wait 0xC)
  else
    let d1 := d.commitWhere fun x =>
      decide (x.cluster = k.val) && decide (x.dev = leafDev e) && overlap pa (r.ty.bits / 8) x.pa x.bytes.length
    .ok ((d1.acceptRed core (some k.val) (leafDev e) (grainBytes e) q).forgetRemote k (leafDev e) pa (grainBytes e))

/-- RED (R173 to R175). -/
def Dev.doRed (d : Dev) (op : RedOp) (arr : Bool) (ty : Ty) (o : MemOrder) (sc : MemScope) (ra rb : SReg) : Act :=
  let n := ty.bits / 8
  let va := d.rd ra
  let lv := d.core.status.pl
  let r : RedRequest :=
    { pa := 0, va := va, op := op, ty := ty, arr := arr, value := d.rd rb, owner := d.owner, kid := d.core.kid }
  match d.place lv .store va n true with
  | .error e => .error e
  | .ok p =>
    match d.releaseIf o sc with
    | .error e => .error e
    | .ok d1 =>
      match p with
      | .unit _ => d.refuse va .store
      | .held => (d1.hold (.red d.core.id d.owner d.core.kid lv r)).map Dev.advance
      | .pad c win off =>
        let old := leNat (windowRead (d1.coreAt c) d1.gen win off n)
        .ok (d1.padStore c win off va (leBytes n (redStep op ty old ((d.rd rb).toNat % 2 ^ ty.bits))) false).advance
      | .home e pa =>
        if pteDec e then d.cellTrap va 4
        else if d1.heldOver d.core.id va n then (d1.hold (.red d.core.id d.owner d.core.kid lv r)).map Dev.advance
        else (d1.homeRed d.cluster d.core.id lv e pa r).map Dev.advance

def execRedAdd (arr : Bool) (ty : Ty) (o : MemOrder) (sc : MemScope) (ra rb : SReg) (s : State) : Result State :=
  finish s (s.d.doRed .add arr ty o sc ra rb)
def execRedAnd (arr : Bool) (ty : Ty) (o : MemOrder) (sc : MemScope) (ra rb : SReg) (s : State) : Result State :=
  finish s (s.d.doRed .and arr ty o sc ra rb)
def execRedOr (arr : Bool) (ty : Ty) (o : MemOrder) (sc : MemScope) (ra rb : SReg) (s : State) : Result State :=
  finish s (s.d.doRed .or arr ty o sc ra rb)
def execRedXor (arr : Bool) (ty : Ty) (o : MemOrder) (sc : MemScope) (ra rb : SReg) (s : State) : Result State :=
  finish s (s.d.doRed .xor arr ty o sc ra rb)
def execRedMin (arr : Bool) (ty : Ty) (o : MemOrder) (sc : MemScope) (ra rb : SReg) (s : State) : Result State :=
  finish s (s.d.doRed .min arr ty o sc ra rb)
def execRedMax (arr : Bool) (ty : Ty) (o : MemOrder) (sc : MemScope) (ra rb : SReg) (s : State) : Result State :=
  finish s (s.d.doRed .max arr ty o sc ra rb)

-- Held and orphaned writes.

/-- A write of a cluster checked and applied again under the present entries: applied, still held, or refused (R156, R177). -/
inductive Replay where
  | applied (d : Dev)
  | held
  | refused
  deriving DecidableEq, Repr

/-- One write, given as bytes or as a reduction, checked again in a cluster. -/
def Dev.retryWrite (d : Dev) (k : Fin 32) (core owner : Nat) (kid : Origin) (lv : Level) (va : Word) (bs : List Byte)
    (red : Option RedRequest) : Replay :=
  match d.translateNow k owner lv .store va with
  | .held | .miss => .held
  | .fault _ _ => .refused
  | .ok e pa =>
    if pteDec e || remoteRefuses e then .refused
    else
      match red with
      | none => .applied (d.sliceStore k core owner kid lv va (leafDev e) pa (grainBytes e) bs)
      | some r =>
        match d.homeRed k core lv e pa r with
        | .ok d1 => .applied d1
        | .error _ => .held

/-- The parts of a held write; none of an entry whose core or engine tries the access again itself. -/
def HeldAccess.parts : HeldAccess → Option (Nat × Nat × Origin × Level × Word × List Byte × Option RedRequest)
  | .store c o kid lv va bs => some (c, o, kid, lv, va, bs, none)
  | .red c o kid lv r => some (c, o, kid, lv, r.va, [], some r)
  | .wait _ _ | .engine _ _ => none

/-- A held write whose replay faults, as an orphaned write (R177). -/
def heldOrphan (p : Nat × Nat × Origin × Level × Word × List Byte × Option RedRequest) : Orphan :=
  { owner := p.2.1, core := p.1, level := p.2.2.2.1, va := p.2.2.2.2.1, kid := p.2.2.1, red := p.2.2.2.2.2.2, bytes := p.2.2.2.2.2.1
    reported := false }

/-- HOLD_QUEUE_REPLAY of one access (R156): after the walk to its page it leaves the queue when it is applied, or becomes an orphan while there is room. What a core
or an engine waits for it tries again itself, and enters again if its page is still migrating. -/
def Dev.replayOne (k : Fin 32) (d : Dev) (h : HeldAccess) : Dev :=
  match h.parts with
  | none => d
  | some p =>
    let d := d.pageWalk k.val p.2.2.2.2.1
    let keep : Dev := d.setCluster k { d.clusters[k] with hold := d.clusters[k].hold ++ [h] }
    match d.retryWrite k p.1 p.2.1 p.2.2.1 p.2.2.2.1 p.2.2.2.2.1 p.2.2.2.2.2.1 p.2.2.2.2.2.2 with
    | .applied e => e
    | .held => keep
    | .refused =>
      if d.orphanRoom k then d.addOrphan k (heldOrphan p) else keep

/-- The held accesses of a cluster replay in their order (R156). -/
def Dev.replayHold (d : Dev) (k : Fin 32) : Dev :=
  let hs := d.clusters[k].hold
  hs.foldl (Dev.replayOne k) (d.setCluster k { d.clusters[k] with hold := [] })

/-- The clusters of an owner. -/
def Dev.clustersOf (d : Dev) (owner : Nat) : List (Fin 32) :=
  (List.range 32).filterMap fun k => if d.clusters[Fin.ofNat 32 k].owner = owner then some (Fin.ofNat 32 k) else none

end Sys2Proof.Machine
end

