-- ==== Sys2Proof/Machine/Alr.lean ====
section
/-! DEFINITION. Single-line atomic regions: ALRB with its body, ALRSW and ALRSD inside it, and ALRE (R178 to R180). -/
namespace Sys2Proof.Machine

/-- The ALU and immediate instructions that a region may hold (R179, reason 0x1), with the register that each writes and its
value. -/
def regionAlu (d : Dev) : Instr → Option (SReg × Word)
  | .add rd ra rb => some (rd, d.rd ra + d.rd rb)
  | .sub rd ra rb => some (rd, d.rd ra - d.rd rb)
  | .and rd ra rb => some (rd, d.rd ra &&& d.rd rb)
  | .or rd ra rb => some (rd, d.rd ra ||| d.rd rb)
  | .xor rd ra rb => some (rd, d.rd ra ^^^ d.rd rb)
  | .andn rd ra rb => some (rd, d.rd ra &&& ~~~ d.rd rb)
  | .orn rd ra rb => some (rd, d.rd ra ||| ~~~ d.rd rb)
  | .xnor rd ra rb => some (rd, ~~~ (d.rd ra ^^^ d.rd rb))
  | .sll rd ra rb => some (rd, aluSll (d.rd ra) (shamt (d.rd rb)))
  | .srl rd ra rb => some (rd, aluSrl (d.rd ra) (shamt (d.rd rb)))
  | .sra rd ra rb => some (rd, aluSra (d.rd ra) (shamt (d.rd rb)))
  | .ror rd ra rb => some (rd, aluRor (d.rd ra) (shamt (d.rd rb)))
  | .slt rd ra rb => some (rd, aluSlt (d.rd ra) (d.rd rb))
  | .sltn rd ra rb => some (rd, aluSltn (d.rd ra) (d.rd rb))
  | .min rd ra rb => some (rd, aluMin (d.rd ra) (d.rd rb))
  | .max rd ra rb => some (rd, aluMax (d.rd ra) (d.rd rb))
  | .minn rd ra rb => some (rd, aluMinn (d.rd ra) (d.rd rb))
  | .maxn rd ra rb => some (rd, aluMaxn (d.rd ra) (d.rd rb))
  | .mul rd ra rb => some (rd, d.rd ra * d.rd rb)
  | .mulh rd ra rb => some (rd, aluMulh (d.rd ra) (d.rd rb))
  | .mulhn rd ra rb => some (rd, aluMulhn (d.rd ra) (d.rd rb))
  | .clz rd ra => some (rd, aluClz (d.rd ra))
  | .ctz rd ra => some (rd, aluCtz (d.rd ra))
  | .popc rd ra => some (rd, aluPopc (d.rd ra))
  | .bswap rd ra => some (rd, aluBswap (d.rd ra))
  | .addw rd ra rb => some (rd, aluAddw (d.rd ra) (d.rd rb))
  | .subw rd ra rb => some (rd, aluSubw (d.rd ra) (d.rd rb))
  | .sllw rd ra rb => some (rd, aluSllw (d.rd ra) (shamtW (d.rd rb)))
  | .srlw rd ra rb => some (rd, aluSrlw (d.rd ra) (shamtW (d.rd rb)))
  | .sraw rd ra rb => some (rd, aluSraw (d.rd ra) (shamtW (d.rd rb)))
  | .mulw rd ra rb => some (rd, aluMulw (d.rd ra) (d.rd rb))
  | .adds rd ra rb => some (rd, aluAdds (d.rd ra) (d.rd rb))
  | .subs rd ra rb => some (rd, aluSubs (d.rd ra) (d.rd rb))
  | .addi rd ra imm => some (rd, d.rd ra + sext imm)
  | .andi rd ra imm => some (rd, d.rd ra &&& zext imm)
  | .ori rd ra imm => some (rd, d.rd ra ||| zext imm)
  | .xori rd ra imm => some (rd, d.rd ra ^^^ zext imm)
  | .slti rd ra imm => some (rd, aluSlt (d.rd ra) (sext imm))
  | .sltin rd ra imm => some (rd, aluSltn (d.rd ra) (zext imm))
  | .slli rd ra n => some (rd, aluSll (d.rd ra) n.toNat)
  | .srli rd ra n => some (rd, aluSrl (d.rd ra) n.toNat)
  | .srai rd ra n => some (rd, aluSra (d.rd ra) n.toNat)
  | .rori rd ra n => some (rd, aluRor (d.rd ra) n.toNat)
  | .slliw rd ra n => some (rd, aluSllw (d.rd ra) n.toNat)
  | .srliw rd ra n => some (rd, aluSrlw (d.rd ra) n.toNat)
  | .sraiw rd ra n => some (rd, aluSraw (d.rd ra) n.toNat)
  | .hwz rd k imm => some (rd, movHwz k imm)
  | .hwi rd k imm => some (rd, movHwi (d.rd rd) k imm)
  | .hws rd k imm => some (rd, movHws k imm)
  | _ => none

/-- An access of a region: store, base register, offset, bytes. -/
structure RegionAccess where
  store : Bool
  base : SReg
  off : Word
  n : Nat
  deriving DecidableEq, Repr

/-- The access that a body word makes, if it makes one. -/
def bodyAccess : BodyWord → Option RegionAccess
  | .instr (.ld k _ ra off) => some { store := false, base := ra, off := sext off, n := ldBytes k }
  | .instr (.st z _ ra off) => some { store := true, base := ra, off := sext off, n := sizeBytes z }
  | .alrsw _ ra off4 _ => some { store := true, base := ra, off := zext off4 * 4, n := 4 }
  | .alrsd _ ra off8 _ => some { store := true, base := ra, off := zext off8 * 8, n := 8 }
  | .instr _ | .late | .alre => none

/-- A body word is LD or ST (R179, reason 0x2). -/
def isPlainAccess : BodyWord → Bool
  | .instr (.ld _ _ _ _) | .instr (.st _ _ _ _) => true
  | .instr _ | .late | .alre | .alrsw _ _ _ _ | .alrsd _ _ _ _ => false

/-- The registers that a body word writes (R179, reasons 0x4 and 0x5). -/
def bodyWrites (d : Dev) : BodyWord → List SReg
  | .instr (.ld .q rd _ _) => [rd, rd + 1]
  | .instr (.ld _ rd _ _) => [rd]
  | .instr i => ((regionAlu d i).map (·.1)).toList
  | .late | .alre | .alrsw _ _ _ _ | .alrsd _ _ _ _ => []

/-- A body word is one that a region may hold (R179, reason 0x1). -/
def bodyAllowed (d : Dev) (ra : SReg) (b : BodyWord) : Bool :=
  match bodyAccess b with
  | some a => decide (a.base = ra)
  | none =>
    match b with
    | .instr i => (regionAlu d i).isSome
    | .late | .alre | .alrsw _ _ _ _ | .alrsd _ _ _ _ => false

/-- The position of the first word that satisfies a condition. -/
def firstAt {α : Type} (p : α → Bool) (l : List α) : Option Nat := l.findIdx? p

/-- Positions of the words that satisfy a condition. -/
def positionsOf {α : Type} (p : α → Bool) (l : List α) : List Nat :=
  (l.mapIdx fun i x => (i, x)).filterMap fun ix => if p ix.2 then some ix.1 else none

/-- The position at which more than four distinct registers other than s0 have been written (R179, reason 0x4). -/
def fifthWrite (d : Dev) (body : List BodyWord) : Option Nat :=
  (List.range body.length).find? fun i =>
    decide (4 < ((((body.take (i + 1)).flatMap (bodyWrites d)).filter fun r => decide (r ≠ 0)).eraseDups).length)

/-- The lowest offset of the body's accesses, as an integer (R179, reason 0x8); 0 for a body without any, whose line is that of S[ra] itself
(DESIGN CHOICE, log 11). -/
def lowestOffset (accs : List RegionAccess) : Int :=
  match accs with
  | [] => 0
  | a :: t => t.foldl (fun x b => min x b.off.toInt) a.off.toInt

/-- The base of the line of a region (R179). -/
def regionLine (base : Word) (accs : List RegionAccess) : Word :=
  (base + BitVec.ofInt 64 (lowestOffset accs)) &&& ~~~ 0x7F

/-- An access leaves the line (R179, reason 0x8). -/
def leavesLine (base line : Word) (a : RegionAccess) : Bool :=
  !(decide (line ≤ base + a.off) && decide ((base + a.off - line).toNat + a.n ≤ 128))

/-- The reason, the position and FADDR of the ALR trap that the form of a body raises, if it raises one (R179). With ra = s0 no body word
writes ra, since a write of s0 writes nothing (DESIGN CHOICE, log 11). -/
def Dev.regionReason (d : Dev) (ra : SReg) (body : List BodyWord) : Option (Nat × Nat × Word) :=
  let base := d.rd ra
  let accs := body.filterMap bodyAccess
  let line := regionLine base accs
  let acc (p : RegionAccess → Bool) : Option Nat :=
    firstAt (fun b => match bodyAccess b with | some a => p a | none => false) body
  match firstAt (fun b => !bodyAllowed d ra b) body with
  | some i => some (1, i, 0)
  | none =>
  match (positionsOf isPlainAccess body)[8]? with
  | some i => some (2, i, 0)
  | none =>
  match (positionsOf (fun b => !isPlainAccess b) body)[8]? with
  | some i => some (3, i, 0)
  | none =>
  match fifthWrite d body with
  | some i => some (4, i, 0)
  | none =>
  match firstAt (fun b => decide (ra ≠ 0) && (bodyWrites d b).contains ra) body with
  | some i => some (5, i, 0)
  | none =>
  match acc fun a => decide ((base + a.off).toNat % a.n ≠ 0) with
  | some i => some (7, i, base)
  | none =>
  match acc fun a => leavesLine base line a with
  | some i => some (8, i, base)
  | none =>
    if inLocalRange line then some (9, 0, base)
    else
      match d.leafFor d.cluster d.owner line with
      | .leaf e _ => if canonical line && pteRmt e then some (9, 0, base) else none
      | .fails _ => none

/-- The words of a region's body: up to 16 words are fetched and checked, ending at the first ALRE (R179). -/
def Dev.regionBody (d : Dev) : Nat → Word → List BodyWord → Except Stop (List BodyWord × Bool)
  | 0, _, acc => .ok (acc, false)
  | n + 1, addr, acc =>
    match d.fetchAt d.core.status.pl d.core.pc addr with
    | .error e => .error e
    | .ok w =>
      match decodeBody w with
      | .error r => illopAt addr w r
      | .ok .alre => .ok (acc, true)
      | .ok b => d.regionBody n (addr + 4) (acc ++ [b])

/-- The body performed on the bytes of its line (R180). -/
def runRegion (base line : Word) : List BodyWord → Dev × List Byte → Dev × List Byte
  | [], r => r
  | b :: t, (d, bytes) =>
    let at' (off : Word) : Nat := (base + off - line).toNat
    let put (off : Word) (bs : List Byte) : List Byte := patch bytes 0 (at' off) bs
    runRegion base line t
      (match b with
        | .instr (.ld k rd _ off) =>
          (d.wrLoaded rd (ldBytes k) (ldSigned k) ((bytes.drop (at' (sext off))).take (ldBytes k)), bytes)
        | .instr (.st z rs _ off) => (d, put (sext off) (d.storeData rs (sizeBytes z)))
        | .alrsw rs _ off4 rc => (d, if d.rd rc = 0 then bytes else put (zext off4 * 4) (leBytes 4 (d.rd rs).toNat))
        | .alrsd rs _ off8 rc => (d, if d.rd rc = 0 then bytes else put (zext off8 * 8) (leBytes 8 (d.rd rs).toNat))
        | .instr i =>
          match regionAlu d i with
          | some r => (d.wr r.1 r.2, bytes)
          | none => (d, bytes)
        | .late | .alre => (d, bytes))

/-- The region after its checks: one read-modify-write at the home of the line (R180). An uncorrectable error of the line is precise, at the ALRB,
for a body that only stores too: R164 and R98 defer what an ALR write meets, and R180 raises it at the ALRB (DEDUCED, log 5). -/
def Dev.performRegion (d : Dev) (o : MemOrder) (sc : MemScope) (ra : SReg) (body : List BodyWord) : Act :=
  let base := d.rd ra
  let accs := body.filterMap bodyAccess
  let line := regionLine base accs
  let stores := accs.any (·.store)
  let next : Word := d.core.pc + 4 * BitVec.ofNat 64 (body.length + 2)
  match d.translate d.cluster d.owner d.core.status.pl (if stores then .store else .load) line with
  | .held => .error (d.queued line)
  | .miss => .error (.left (d.walked line) 0xC)
  | .fault c fi => d.faults d.core.pc line c fi
  | .ok e pa =>
    if stores && pteDec e then d.cellTrap line 4
    else if d.heldOver d.core.id line 128 then .error (d.queued line)
    else
      match d.releaseIf o sc with
      | .error x => .error x
      | .ok d1 =>
        match d1.badAt none pa 128 with
        | some place => d1.trap 0x09 line (zext place)
        | none =>
        let d2 := d1.atHome none pa (max 128 (grainBytes e)) d.owner (if stores then some (pa, 128) else none)
        let r := runRegion base line body (d2, d2.homeRead none pa 128)
        let d3 := if r.2 = d2.homeRead none pa 128 then r.1 else r.1.homeUpdate none (some d.cluster.val) pa r.2
        .ok (d3.jump next)

/-- A region with the words of its body, and whether an ALRE ends them. An empty body acts as a FENCE of its order and scope (R179). -/
def Dev.regionOf (d : Dev) (o : MemOrder) (sc : MemScope) (ra : SReg) : List BodyWord × Bool → Act
  | (_, false) => d.trap 0x0C 0 6
  | ([], true) => if o = .none then .ok (d.jump (d.core.pc + 8)) else (d.fenceAt o sc).map fun d1 => d1.jump (d.core.pc + 8)
  | (body, true) =>
    match d.regionReason ra body with
    | some (r, i, fa) => d.trap 0x0C fa (BitVec.ofNat 64 (i * 16 + r))
    | none => d.performRegion o sc ra body

/-- ALRB (R178 to R180). -/
def Dev.doAlrb (d : Dev) (o : MemOrder) (sc : MemScope) (ra : SReg) : Act :=
  match d.regionBody 16 (d.core.pc + 4) [] with
  | .error e => .error e
  | .ok r => d.regionOf o sc ra r

def execAlrb (o : MemOrder) (sc : MemScope) (ra : SReg) (s : State) : Result State := finish s (s.d.doAlrb o sc ra)

end Sys2Proof.Machine
end

