-- ==== Sys2Proof/Machine/DrawUnit.lean ====
section
/-! DEFINITION. The draw unit: the scalar DRAW instructions, reseeding with its sweep and windows, arbitration, weights, minima and
units out of service (R188 to R215). -/
namespace Sys2Proof.Machine

-- Compute streams (R211, R213).

def execDraw (rd : SReg) (ds : BitVec 4) (ra : SReg) (s : State) : Result State :=
  setS s rd (zext (fount (s.d.rdDs ds) ((s.d.rd ra).extractLsb' 0 32)))
def execDkey (ds : BitVec 4) (t : BitVec 10) (s : State) : Result State :=
  .next (s.withDev (s.d.wrDs ds (streamKey (s.d.ownerAt s.d.owner).oseed (0x100 + t.toNat))).advance)
def execDkset (ds : BitVec 4) (ra : SReg) (s : State) : Result State := .next (s.withDev (s.d.wrDs ds (s.d.rd ra)).advance)
def execDkrd (rd : SReg) (ds : BitVec 4) (s : State) : Result State := setS s rd (s.d.rdDs ds)

-- Seeds (R188, R198, R213).

/-- A new seed: every counter of the owner is 0, its parity flips and a window opens in every slice (R191, R198, R199). -/
def Owner.rekey (o : Owner) (seed : Word) : Owner :=
  { o with
    oldSeed := o.oseed, oseed := seed, parity := !o.parity
    window := (List.range 8).map fun st => (st, 0)
    wayCounters := [], arbCounters := [] }

/-- RESEED and SEEDSET: BUSY while a window is open. -/
def Dev.doRekey (d : Dev) (rd : SReg) (seed : Word) (draws : Nat) : Dev :=
  let o := d.ownerAt d.owner
  if o.window.isEmpty then (({ d.setOwner d.owner (o.rekey seed) with draws := d.draws + draws }).wr rd 0).advance
  else (d.wr rd 1).advance

def Dev.doReseed (d : Dev) (rd : SReg) : Act :=
  d.needSupervisor (encS 0x2C rd 0 4 0) (d.notInGang (.ok (d.doRekey rd (Config.trng d.draws) 1)))
def Dev.doSeedset (d : Dev) (rd ra : SReg) : Act :=
  d.needSupervisor (encS 0x2C rd ra 5 0) (d.notInGang (.ok (d.doRekey rd (d.rd ra) 0)))

def execReseed (rd : SReg) (s : State) : Result State := finish s (s.d.doReseed rd)
def execSeedset (rd ra : SReg) (s : State) : Result State := finish s (s.d.doSeedset rd ra)

/-- SEEDRD (R213). -/
def Dev.visibleSeed (d : Dev) : Word :=
  if (d.ownerAt d.owner).seedVisible then (d.ownerAt d.owner).oseed else 0
def execSeedrd (rd : SReg) (s : State) : Result State := setS s rd s.d.visibleSeed

/-- The report of CPLACE for a physical address (R214). -/
def Dev.placement (d : Dev) (pa : Nat) : Word :=
  let stack := homeStack pa
  if d.frameOwner pa = d.owner then
    match d.findBlock stack d.owner (lineOf pa) with
    | none => 0
    | some b =>
      1#1 ++ boolBit (decide (b.parity ≠ (d.ownerAt d.owner).parity)) ++ 0#19 ++ BitVec.ofNat 3 stack ++ 0#4 ++ BitVec.ofNat 4 b.way
        ++ 0#20 ++ BitVec.ofNat 12 b.set
  else 0

/-- CPLACE (R214). DESIGN CHOICE (log 19): it reads no data, so a byte with an uncorrectable error raises no UNCORR; and at user level a page
with RMT = 1 and USR = 0 raises PROT, the faults of a load coming before the answer 0 that a remote page gives. -/
def Dev.doCplace (d : Dev) (rd ra : SReg) : Act :=
  let va := d.rd ra
  if inWindow va then .ok (d.wr rd 0).advance
  else
    match d.placeAny d.core.status.pl .load va 1 false with
    | .error e => .error e
    | .ok .held => .error (d.queued va)
    | .ok (.home e pa) => .ok (d.wr rd (if pteRmt e then 0 else d.placement pa)).advance
    | .ok (.pad _ _ _) => .ok (d.wr rd 0).advance
    | .ok (.unit _) => .ok (d.wr rd 0).advance

def execCplace (rd ra : SReg) (s : State) : Result State := finish s (s.d.doCplace rd ra)

-- Weights, capacity and minima (R204, R207, R209).

/-- W_live (R204). -/
def Dev.liveWeight (d : Dev) (c : Nat) : Nat :=
  ((List.range 64).map fun o => if (d.ownerAt o).live then d.weight o c else 0).sum

/-- Instances of a class that units out of service hold (R201, R210): a link holds one for each direction. -/
def Dev.lostInstances (d : Dev) (c : Nat) : Nat :=
  if c = 1 then 2 * (d.host.outOfService.filter fun u => match u with | .link _ => true | _ => false).length
  else if c = 3 then d.mem.retired.length
  else if c = 5 then (d.host.outOfService.filter fun u => match u with | .port _ => true | _ => false).length
  else if c = 7 then (d.clusters.toList.filter fun k => k.retired).length
  else 0

/-- A_c (R209). -/
def Dev.available (d : Dev) (c : Nat) : Nat := capacity (classInstances c - d.lostInstances c) (classInstances c)

/-- The minimum of an owner at a class as EXQM reports it (R213). -/
def Dev.minimum (d : Dev) (o c : Nat) : Nat := if o = 0 then 64 else (d.ownerAt o).minimaNow[Fin.ofNat 8 c]

def execExq (rd ra : SReg) (c : BitVec 3) (s : State) : Result State :=
  setS s rd (BitVec.ofNat 64 (exqBound (s.d.weight s.d.owner c.toNat) (s.d.liveWeight c.toNat) (s.d.rd ra).toNat))
def execExqm (rd : SReg) (c : BitVec 3) (s : State) : Result State :=
  setS s rd (BitVec.ofNat 32 (s.d.available c.toNat) ++ BitVec.ofNat 32 (s.d.minimum s.d.owner c.toNat))

/-- The sum of the unscaled minima of the tenants at a class (R209). -/
def Dev.minimaSum (d : Dev) (c : Nat) : Nat :=
  ((List.range 64).map fun o => if decide (o ≠ 0) && (d.ownerAt o).live then (d.ownerAt o).minima[Fin.ofNat 8 c] else 0).sum

/-- The minima of an owner as they are in force with the present capacity (R210). -/
def Dev.scaledMinima (d : Dev) (o : Nat) : Vector Nat 8 :=
  Vector.ofFn fun c =>
    let m := (d.ownerAt o).minima[c]
    let sum := d.minimaSum c.val
    let a := d.available c.val
    if 64 + sum ≤ a then m else m * (a - 64) / sum

/-- Tenants whose minima change, with the new ones. -/
def Dev.changedMinima (d : Dev) : List (Nat × Vector Nat 8) :=
  (List.range 64).filterMap fun o =>
    if o ≠ 0 ∧ (d.ownerAt o).live = true ∧ d.scaledMinima o ≠ (d.ownerAt o).minimaNow then some (o, d.scaledMinima o) else none

/-- The mask of the classes at which some tenant's minimum changes. -/
def Dev.changedMask (d : Dev) : BitVec 8 :=
  BitVec.ofNat 8 ((List.range 8).map fun c =>
    if d.changedMinima.any fun x => decide (x.2[Fin.ofNat 8 c] ≠ (d.ownerAt x.1).minimaNow[Fin.ofNat 8 c]) then 2 ^ c else 0).sum

/-- MINIMA posted to the notification core of an owner, and counted (R98, R210, R342). -/
def Dev.postMinima (mask : BitVec 8) (d : Dev) (x : Nat × Vector Nat 8) : Dev :=
  let d1 := (d.setOwner x.1 { d.ownerAt x.1 with minimaNow := x.2 }).count x.1 0x008 1
  d1.post x.1 fun c => { c with ipend := { c.ipend with minima := true }, minimaMask := c.minimaMask ||| mask }

/-- The minima recomputed after a retirement or a return (R210). -/
def Dev.rescale (d : Dev) : Dev := d.changedMinima.foldl (Dev.postMinima d.changedMask) d

def Dev.notice (d : Dev) (n : Notice) : Dev := { d with host := { d.host with notices := d.host.notices ++ [n] } }

/-- A unit taken out of service, or put back. -/
def Dev.setOut (d : Dev) (u : DevUnit) (out : Bool) : Dev :=
  match u with
  | .channel s c =>
    let rest := d.mem.retired.filter fun x => decide (x ≠ (s, c))
    d.setMem { d.mem with retired := if out then rest ++ [(s, c)] else rest }
  | .cluster n => d.setCluster (Fin.ofNat 32 n) { d.clusters[Fin.ofNat 32 n] with retired := out }
  | .port _ | .link _ | .galley _ | .control _ =>
    let rest := d.host.outOfService.filter fun x => decide (x ≠ u)
    { d with host := { d.host with outOfService := if out then rest ++ [u] else rest } }

/-- UNIT_RETIREMENT (R19, R210, R421). -/
def Dev.retireUnit (d : Dev) (u : DevUnit) : Dev :=
  if unitExists u && !d.isOut u then
    let d1 := d.setOut u true
    (d1.rescale).notice (.retirement u d1.changedMinima)
  else d

/-- UNIT_RETURN (R210). While other units stay retired the minima are scaled to the capacity that is then there (DESIGN CHOICE, log 19). -/
def Dev.returnUnit (d : Dev) (u : DevUnit) : Dev := if unitExists u && d.isOut u then (d.setOut u false).rescale else d

/-- WEIGHT_CHANGE (R204): owner 0 keeps its weight. -/
def Dev.changeWeights (d : Dev) (o : Nat) (ws : List Nat) : Dev :=
  if o ≠ 0 ∧ o < 64 ∧ (d.ownerAt o).live = true ∧ ws.length = 8 ∧ ws.all (fun w => decide (1 ≤ w ∧ w ≤ 8)) = true then
    d.setOwner o { d.ownerAt o with weights := Vector.ofFn fun i => ws.getD i.val 1 }
  else d

def execUnitRetirement (u : DevUnit) (s : State) : Result State := .next (s.withDev (s.d.retireUnit u))
def execUnitReturn (u : DevUnit) (s : State) : Result State := .next (s.withDev (s.d.returnUnit u))
def execWeightChange (owner : Nat) (weights : List Nat) (s : State) : Result State := .next (s.withDev (s.d.changeWeights owner weights))

def execArbitrationRound (cls inst : Nat) (accepts : Bool) (s : State) : Result State :=
  .next (s.withDev (s.d.arbitrate cls inst accepts))

-- The sweep and the windows (R199).

/-- The old blocks of an owner in one set, by way. -/
def Dev.oldBlocks (d : Dev) (stack o set : Nat) : List MscBlock :=
  (List.range Config.mscWays).filterMap fun w =>
    (d.mem.msc.get [] stack).find? fun b =>
      decide (b.owner = o) && decide (b.set = set) && decide (b.way = w) && decide (b.parity ≠ (d.ownerAt o).parity)

/-- One block moved to its set under the new key with all that it holds (R199). -/
def Dev.moveBlock (d : Dev) (stack o : Nat) (b : MscBlock) : Dev :=
  (d.dropBlock stack b).allocate stack o b.line b.valid b.dirty o

/-- SWEEP_MOVE: the sweep of a slice moves the next old block of the set that it visits, in ascending order of the ways, and with none left
it goes on to the next set. -/
def Dev.sweep (d : Dev) (o stack : Nat) : Dev :=
  match (d.ownerAt o).window.find stack with
  | none => d
  | some set =>
    if set < Config.mscSets then
      match d.oldBlocks stack o set with
      | b :: _ => d.moveBlock stack o b
      | [] => d.setOwner o { d.ownerAt o with window := (d.ownerAt o).window.set stack (set + 1) }
    else d

/-- WINDOW_CLOSE: once its sweep has ended a slice closes the window, and the old key is discarded when every slice has. -/
def Dev.closeWindow (d : Dev) (o stack : Nat) : Dev :=
  match (d.ownerAt o).window.find stack with
  | none => d
  | some set =>
    if set < Config.mscSets then d
    else
      let w := (d.ownerAt o).window.erase stack
      d.setOwner o { d.ownerAt o with window := w, oldSeed := if w.isEmpty then 0 else (d.ownerAt o).oldSeed }

def execSweepMove (owner stack : Nat) (s : State) : Result State := .next (s.withDev (s.d.sweep owner stack))
def execWindowClose (owner stack : Nat) (s : State) : Result State := .next (s.withDev (s.d.closeWindow owner stack))

end Sys2Proof.Machine
end

