-- ==== Sys2Proof/Machine/CopyEngine.lean ====
section
/-! DEFINITION. The copy engine: commands, their checks, their effect and their completion elements (R299 to R314). A command is
performed by a step of the engine as far as its pages let it, or by an instruction that waits for it (log 7). -/
namespace Sys2Proof.Machine

-- The fields of a command (R300, R301).
def Command.dw (c : Command) (i : Fin 4) : Word := c.words[i]
def Command.kind (c : Command) : Nat := bits (c.dw 0) 3 0
def Command.scopeCode (c : Command) : Nat := bits (c.dw 0) 6 4
def Command.cq (c : Command) : Fin 4 := Fin.ofNat 4 (bits (c.dw 0) 9 8)
def Command.nc (c : Command) : Bool := bit (c.dw 0) 10
def Command.len (c : Command) : Nat := bits (c.dw 0) 31 12
def Command.tag (c : Command) : BitVec 16 := (c.dw 0).extractLsb' 32 16
def Command.rows (c : Command) : Nat := bits (c.dw 0) 59 48 + 1
def Command.sstr (c : Command) : Nat := bits (c.dw 3) 31 0
def Command.dstr (c : Command) : Nat := bits (c.dw 3) 63 32
def Command.isMcast (c : Command) : Bool := decide (c.kind = 1)
def Command.isFill (c : Command) : Bool := decide (c.kind = 2)

/-- A scope code as a scope; a reserved one is .pod (R307). -/
def scopeOfCode (n : Nat) : MemScope :=
  if n = 0 then .core else if n = 1 then .cl else if n = 2 then .die else if n = 3 then .dev else .pod
def Command.scope (c : Command) : MemScope := scopeOfCode c.scopeCode

/-- A scratchpad-global operand (R302). -/
def isGlobal (x : Word) : Bool := decide (bits x 63 60 = 15)
/-- The address operands of a command: source and destination, where it has them (R301). -/
def Command.operands (c : Command) : List Word :=
  if c.isMcast then [c.dw 1] else if c.isFill then [c.dw 2] else [c.dw 1, c.dw 2]

-- The rectangle of MCAST (R301).
def rectFits (w : Word) : Bool :=
  decide (bits w 23 21 + bits w 26 24 ≤ 7) && decide (bits w 30 27 + bits w 34 31 ≤ 11)
/-- The core numbers of a rectangle, ascending (R13, R301). -/
def rectCores (w : Word) : List Nat :=
  (List.range (bits w 26 24 + 1)).flatMap fun i =>
    (List.range (bits w 34 31 + 1)).map fun j => (bits w 23 21 + i) * 12 + (bits w 30 27 + j)
def rectWin (w : Word) : Nat := bits w 20 18
def rectByte (w : Word) : Nat := bits w 17 0

-- The codes of R303 that are found before any byte moves.

/-- BADCMD. -/
def Command.malformed (c : Command) : Bool :=
  decide (2 < c.kind) || decide (4 < c.scopeCode) || decide (bits (c.dw 0) 63 60 ≠ 0) || bit (c.dw 0) 11 || bit (c.dw 0) 7
    || (c.isMcast && (decide (bits (c.dw 2) 63 35 ≠ 0) || !rectFits (c.dw 2)))
    || (c.isFill && decide (c.sstr ≠ 0))
    || c.operands.any fun x => isGlobal x && decide (bits x 47 21 ≠ 0)

/-- MISALIGNED. The rectangle word's BYTE counts with the addresses, where R303 names the operands, LEN and the strides alone (DESIGN CHOICE,
log 24). -/
def Command.misaligned (c : Command) : Bool :=
  c.operands.any (fun x => decide (x.toNat % 16 ≠ 0)) || decide (c.len % 16 ≠ 0) || decide (c.sstr % 16 ≠ 0)
    || decide (c.dstr % 16 ≠ 0) || (c.isMcast && decide (rectByte (c.dw 2) % 16 ≠ 0))

/-- NOCORE for one operand. -/
def namesNoCore (x : Word) : Bool :=
  if isGlobal x then decide (96 ≤ bits x 54 48)
  else inWindow x && decide (96 ≤ winCore x) && decide (winCore x ≠ 127)

/-- OWNER for one operand. -/
def Dev.foreignOperand (d : Dev) (x : Word) : Bool :=
  isGlobal x && decide (d.clusters[clusterIx (bits x 59 48)].owner ≠ d.owner)

/-- The code that a command takes before any byte moves; 0 when it takes none. -/
def Dev.commandCode (d : Dev) (c : Command) : Nat :=
  if c.malformed then 1
  else if c.misaligned then 2
  else if c.len = 0 then 0
  else if c.operands.any namesNoCore then 3
  else if c.operands.any d.foreignOperand then 4
  else 0

-- The places of a row.

/-- Where a row lies: a scratchpad, device memory, or nowhere, with the code of R303. -/
inductive RowPlace where
  | pad (core win off : Nat)
  | mem (va : Word)
  | bad (code : Nat)
  deriving DecidableEq, Repr

/-- Row r of an operand with a stride (R301, R302). -/
def Dev.rowPlace (d : Dev) (x : Word) (r stride : Nat) : RowPlace :=
  if isGlobal x then .pad (bits x 59 48) (bits x 20 18) (bits x 17 0 + r * stride)
  else
    let va := x + BitVec.ofNat 64 (r * stride)
    if inWindow va then
      match d.windowCore va with
      | some c => .pad c (winOf va) (winByte va)
      | none => .bad 5
    else if inWindow x then .bad 5
    else if inLocalRange va then .bad 7
    else .mem va

/-- The places to which a command writes row r, each with the address that a failure there reports (R306). -/
def Dev.rowTargets (d : Dev) (c : Command) (r : Nat) : List (RowPlace × Word) :=
  if c.isMcast then
    (rectCores (c.dw 2)).map fun n =>
      let off := rectByte (c.dw 2) + r * c.dstr
      (.pad (d.core.id / 128 * 128 + n) (rectWin (c.dw 2)) off,
        BitVec.ofNat 64 (clwBase + n * 2 ^ 21 + rectWin (c.dw 2) * 2 ^ 18 + off % 262144))
  else [(d.rowPlace (c.dw 2) r c.dstr, c.dw 2 + BitVec.ofNat 64 (r * c.dstr))]

/-- The place from which a command reads row r. -/
def Dev.rowSource (d : Dev) (c : Command) (r : Nat) : List (RowPlace × Word) :=
  if c.isFill then [] else [(d.rowPlace (c.dw 1) r c.sstr, c.dw 1 + BitVec.ofNat 64 (r * c.sstr))]

-- The checks of a row (R303).

/-- What the checks find: nothing, a migrating page, or a code and the address that failed. -/
inductive RowCheck where
  | ok
  | held
  | bad (code : Nat) (addr : Word)
  deriving DecidableEq, Repr

/-- The first bytes of the parts of a row that lie in one page of 4 KiB each. -/
def pageStarts (va : Word) (len : Nat) : List Word :=
  (List.range (ceilDiv' (va.toNat % 4096 + len) 4096)).map fun i =>
    if i = 0 then va else va - BitVec.ofNat 64 (va.toNat % 4096) + BitVec.ofNat 64 (4096 * i)

/-- What the engine meets from outside at a row: an uncorrectable error on its read, or the refusal of another device's home at an address of
it (R303). -/
inductive EngineFault where
  | none
  | uncorr (row : Nat)
  | refused (va : Word)
  deriving DecidableEq, Repr

/-- A refusal at an address meets the row that lies there, in a page of another device (R133, R303). -/
def Dev.refusedIn (d : Dev) (c : Command) (store : Bool) (f : EngineFault) (p : RowPlace) : RowCheck :=
  match f, p with
  | .refused x, .mem va =>
    match d.translateNow d.cluster d.owner c.level (if store then .store else .load) x with
    | .ok e _ => if pteRmt e && decide ((x - va).toNat < c.len) then .bad 7 x else .ok
    | .held | .miss | .fault _ _ => .ok
  | .refused _, .pad _ _ _ | .refused _, .bad _ | .none, _ | .uncorr _, _ => .ok

/-- The check of one page of a row in device memory (R152, R157, R303, R399). -/
def Dev.enginePage (d : Dev) (lv : Level) (store : Bool) (va : Word) : RowCheck :=
  match d.translateNow d.cluster d.owner lv (if store then .store else .load) va with
  | .held | .miss => .held
  | .fault code _ => .bad (if code = 0x04 then 6 else if code = 0x06 then 8 else 7) va
  | .ok e _ => if remoteRefuses e || (store && pteDec e) then .bad 7 va else .ok

/-- The first in the order of R303 of two findings; the left one where the codes agree. DESIGN CHOICE (log 24): a code comes before a page that is
migrating, and ends the command without a wait for that page. -/
def RowCheck.first : RowCheck → RowCheck → RowCheck
  | .bad c x, .bad e y => if e < c then .bad e y else .bad c x
  | .bad c x, .ok => .bad c x
  | .bad c x, .held => .bad c x
  | .ok, r => r
  | .held, .bad e y => .bad e y
  | .held, .ok => .held
  | .held, .held => .held

/-- What the pages of a row give: of those that do not pass, the one whose code comes first in R303. -/
def Dev.enginePages (d : Dev) (lv : Level) (store : Bool) (as : List Word) : RowCheck :=
  (as.map (d.enginePage lv store)).foldl RowCheck.first .ok

/-- The check of one place of a row. DESIGN CHOICE (log 24): a row that starts in translated memory and runs on into the local range (R135) is
placed by its first byte, and the pages of that range are translated with the others. -/
def Dev.checkPlace (d : Dev) (c : Command) (store : Bool) (p : RowPlace × Word) : RowCheck :=
  match p.1 with
  | .bad code => .bad code p.2
  | .pad core win off =>
    if 262144 < off + c.len then .bad 5 p.2
    else if c.level = .user ∧ ((rowParts (d.coreAt core) d.clusters[clusterIx core].gen win (off + c.len) c.len off).any fun x =>
        (d.coreAt core).inSaveArea d.clusters[clusterIx core].gen win x.1 x.2) = true then .bad 9 p.2
    else .ok
  | .mem va => d.enginePages c.level store (pageStarts va c.len)

/-- The read of a row meets an uncorrectable error (R303). -/
def Dev.rowBad (d : Dev) (c : Command) (p : RowPlace) : Bool :=
  match p with
  | .bad _ => false
  | .pad core win off =>
    let x := d.coreAt core
    x.pad.badIn (rowGranules x d.clusters[clusterIx core].gen win off c.len)
  | .mem va => (List.range (c.len / 16)).any fun i =>
      match d.translateNow d.cluster d.owner c.level .load (va + BitVec.ofNat 64 (16 * i)) with
      | .ok e pa => (d.badHere (leafDev e) pa 16 (pteDec e) none).isSome
      | .held | .miss | .fault _ _ => false

/-- The pages of a row are walked to before its check (R153, R154). -/
def Dev.rowWalked (d : Dev) (c : Command) (r : Nat) : Dev :=
  (d.rowSource c r ++ d.rowTargets c r).foldl (fun e p =>
    match p.1 with
    | .mem va => (pageStarts va c.len).foldl Dev.walked e
    | .pad _ _ _ | .bad _ => e) d

/-- The check of row r in full: source, then destinations. The address that failed is that of the row, or of its part in the page that fails;
R306 says which only for a target of MCAST (DESIGN CHOICE, log 24). -/
def Dev.checkRow (d : Dev) (c : Command) (r : Nat) (f : EngineFault) : RowCheck :=
  let src := (d.rowSource c r).map fun p => ((d.checkPlace c false p).first (d.refusedIn c false f p.1)).first
    (if decide (f = .uncorr r) || d.rowBad c p.1 then .bad 10 p.2 else .ok)
  let dst := (d.rowTargets c r).map fun p => (d.checkPlace c true p).first (d.refusedIn c true f p.1)
  (src ++ dst).foldl RowCheck.first .ok

-- The effect of a row (R304, R305).

/-- n granules of device memory read from an address. -/
def Dev.engineRead (d : Dev) (lv : Level) : Nat → Word → List Byte → Dev × List Byte
  | 0, _, acc => (d, acc)
  | n + 1, va, acc =>
    match d.translateNow d.cluster d.owner lv .load va with
    | .ok e pa =>
      let r := d.sliceLoad d.cluster none (leafDev e) pa (grainBytes e) 16 (!pteSl e) (pteDec e) (pteDec e)
      r.2.engineRead lv n (va + 16) (acc ++ r.1)
    | .held | .miss | .fault _ _ => (d, acc)

/-- Bytes stored to device memory from an address, granule by granule. -/
def Dev.engineWrite (d : Dev) (c : Command) : Nat → Word → List Byte → Dev
  | 0, _, _ => d
  | n + 1, va, bs =>
    match d.translateNow d.cluster d.owner c.level .store va with
    | .ok e pa =>
      (d.sliceStore d.cluster d.core.id d.owner c.kid c.level va (leafDev e) pa (grainBytes e) (bs.take 16)).engineWrite c n (va + 16) (bs.drop 16)
    | .held | .miss | .fault _ _ => d

/-- The granules that a write of the engine touches (R138, R272). -/
def LateWrite.granules (l : LateWrite) (d : Dev) : List Nat :=
  windowGranules (d.coreAt l.core) d.clusters[clusterIx l.core].gen l.win l.off l.bytes.length

/-- A write of the engine performed as one access: its granules become full with it (R68, R272, R305). -/
def Dev.performWrite (d : Dev) (l : LateWrite) : Dev :=
  let x := d.coreAt l.core
  let g := d.clusters[clusterIx l.core].gen
  d.setCore { x with pad := (windowWrite x g l.win l.off l.bytes).setFull g (l.granules d) }

/-- Bytes that lie in no view cut at the borders of a granule: below it, in it and above it. -/
def LateWrite.cut (l : LateWrite) (gr : Nat) : List LateWrite :=
  let a := 16 * gr - l.off
  let b := 16 * gr + 16 - l.off
  [{ l with bytes := l.bytes.take a },
   { l with off := l.off + a, bytes := (l.bytes.take b).drop a },
   { l with off := l.off + b, bytes := l.bytes.drop b }].filter fun x => !x.bytes.isEmpty

/-- The bytes of a row as the writes that it is made of: those into one block are one write (R272, R304). -/
def Dev.rowWrites (d : Dev) (core win off : Nat) (bs : List Byte) : List LateWrite :=
  (rowParts (d.coreAt core) d.clusters[clusterIx core].gen win (off + bs.length) bs.length off).map fun y =>
    { core := core, win := win, off := y.1, bytes := (bs.drop (y.1 - off)).take y.2 }

/-- A row written to a scratchpad (R304). What touches the lowest granule that the command has written there so far waits, whole, until a lower
one is written or the command ends; the rest is performed (R68, R305). -/
def Dev.enginePad (d : Dev) (low : List LateWrite) (core win off : Nat) (bs : List Byte) : Dev × List LateWrite :=
  let back := low.filter fun l => decide (l.core = core)
  let row := d.rowWrites core win off bs
  let grs := (back ++ row).flatMap fun y => y.granules d
  let l := grs.foldl min (grs.headD 0)
  let plain (y : LateWrite) : Bool := (activeView (d.coreAt core) d.clusters[clusterIx core].gen win y.off).isNone
  let all := back ++ row.flatMap fun y => if plain y then y.cut l else [y]
  ((all.filter fun y => !(y.granules d).contains l).foldl Dev.performWrite d,
    (low.filter fun b => decide (b.core ≠ core)) ++ all.filter fun y => (y.granules d).contains l)

/-- An access of the engine to a scratchpad that is a coloured message: a write into another cluster, or an access through the cluster-local
window to another core (R331). -/
def Dev.engineCrossed (d : Dev) (store window : Bool) (core : Nat) : Dev :=
  if window || (store && decide (clusterIx core ≠ d.cluster)) then d.crossed core else d

/-- The bytes of row r. -/
def Dev.readRow (d : Dev) (c : Command) (r : Nat) : Dev × List Byte :=
  match d.rowSource c r with
  | [] => (d, (List.replicate (c.len / 8) (leBytes 8 (c.dw 1).toNat)).flatten)
  | p :: _ =>
    match p.1 with
    | .pad core win off =>
      (d.engineCrossed false (inWindow p.2) core, rowRead (d.coreAt core) d.clusters[clusterIx core].gen win off c.len)
    | .mem va => d.engineRead c.level (c.len / 16) va []
    | .bad _ => (d, [])

/-- Row r written to one place. -/
def Dev.writePlace (c : Command) (bs : List Byte) (x : Dev × List LateWrite) (p : RowPlace × Word) : Dev × List LateWrite :=
  match p.1 with
  | .pad core win off =>
    let y := x.1.enginePad x.2 core win off bs
    (y.1.engineCrossed true (!c.isMcast && inWindow p.2) core, y.2)
  | .mem va => (x.1.engineWrite c (c.len / 16) va bs, x.2)
  | .bad _ => x

/-- Row r performed, with what the command keeps back. -/
def Dev.performRow (d : Dev) (c : Command) (low : List LateWrite) (r : Nat) : Dev × List LateWrite :=
  let x := d.readRow c r
  let targets := x.1.rowTargets c r
  let y := targets.foldl (Dev.writePlace c x.2) (x.1, low)
  (y.1.event d.owner 0x0B (c.len / 16 * targets.length), y.2)

/-- How far rows of a command have come: the device, the rows done, what is kept back, the code and address of R306 once the work has ended,
and whether a row is held (R156). -/
structure RowRun where
  dev : Dev
  done : Nat
  low : List LateWrite
  ended : Option (Nat × Word)
  held : Bool
  deriving DecidableEq, Repr

/-- The rows of a command in ascending order from row r, n of them at most. -/
def Dev.performRows (d : Dev) (c : Command) (low : List LateWrite) (f : EngineFault) : Nat → Nat → RowRun
  | 0, r => { dev := d, done := r, low := low, ended := if c.rows ≤ r then some (0, c.dw 2) else none, held := false }
  | n + 1, r =>
    let w := d.rowWalked c r
    match w.checkRow c r f with
    | .held => { dev := w, done := r, low := low, ended := none, held := true }
    | .bad code x => { dev := w, done := r, low := low, ended := some (code, x), held := false }
    | .ok =>
      let x := w.performRow c low r
      x.1.performRows c x.2 f n (r + 1)

/-- Every write of a command performed as its scope asks (R307). -/
def Dev.engineAcks (d : Dev) (c : Command) : Dev :=
  d.commitWhere fun r => decide (r.cluster = d.cluster.val) && (wideScope c.scope || r.dev.isSome)

/-- A command performed from the row that it has come to, for a number of rows at most (R303, R304, R330). -/
def Dev.performCommand (d : Dev) (c : Command) (f : EngineFault) (limit : Nat) : RowRun :=
  let code := d.commandCode c
  if code ≠ 0 then
    let bad := (c.operands.filter fun x => if code = 3 then namesNoCore x else d.foreignOperand x).headD (c.dw 2)
    { dev := d, done := 0, low := [], ended := some (code, if code ≤ 2 then c.dw 2 else bad), held := false }
  else if c.len = 0 then { dev := d, done := c.rows, low := [], ended := some (0, c.dw 2), held := false }
  else
    let r := d.performRows c c.low f (min limit (c.rows - c.rowsDone)) c.rowsDone
    if r.ended.isSome then { r with dev := (r.low.foldl Dev.performWrite r.dev).engineAcks c, low := [] } else r

-- Completion elements (R306).

/-- The element of a command. -/
def element (c : Command) (port : BitVec 2) (addr : Word) (code done : Nat) : Element :=
  { lo := addr, hi := BitVec.ofNat 16 done ++ c.tag ++ 0#22 ++ port ++ BitVec.ofNat 8 code }

/-- The piece of the task that runs on a core. -/
def Core.context (c : Core) : Option Nat := c.task.map (·.piece)

/-- A yielded task that pushed a command (R314). -/
def Yielded.pushed (y : Yielded) (c : Command) : Bool := decide (some y.task.piece = c.task)

/-- Slots that started commands have reserved where the element of a command goes, those of one port left out (R299). -/
def Core.reserved (x : Core) (c : Command) (skip : Option (BitVec 2)) : Nat :=
  ((List.range 4).filter fun p =>
    decide (skip ≠ some (BitVec.ofNat 2 p)) &&
      (x.port[Fin.ofNat 4 p].commands.head?.any fun y => y.started && !y.nc && decide (y.cq = c.cq) && decide (y.task = c.task))).length

/-- Where the element of a command of a port goes has a free slot (R299, R314). -/
def Core.slotFree (x : Core) (c : Command) (skip : Option (BitVec 2)) : Bool :=
  match x.yielded.find? fun y => y.pushed c with
  | some y => decide ((y.kept[c.cq]).length + x.reserved c skip < Config.portDepth)
  | none => decide (c.task ≠ x.context) || decide ((x.port[c.cq]).done.length + x.reserved c skip < Config.portDepth)

/-- An element delivered: to the completion FIFO, or to the context of the yielded task that pushed its command (R314). That of a task that has
ended is dropped, since a task that runs later finds empty ports (DESIGN CHOICE, log 24). -/
def Core.addElement (x : Core) (c : Command) (e : Element) : Core :=
  if x.yielded.any fun y => y.pushed c then
    { x with yielded := x.yielded.map fun y => if y.pushed c then { y with kept := y.kept.set c.cq (y.kept[c.cq] ++ [e]) } else y }
  else if c.task = x.context then { x with port := x.port.set c.cq { x.port[c.cq] with done := x.port[c.cq].done ++ [e] } }
  else x

/-- The oldest command of a port leaves it. -/
def Core.dropCommand (x : Core) (port : BitVec 2) : Core :=
  { x with port := x.port.set port.toFin { x.port[port.toFin] with commands := x.port[port.toFin].commands.tail } }

/-- The oldest command of a port as it now stands. -/
def Core.putCommand (x : Core) (port : BitVec 2) (c : Command) : Core :=
  { x with port := x.port.set port.toFin { x.port[port.toFin] with commands := c :: x.port[port.toFin].commands.tail } }

/-- A command whose work has ended ends, with its element unless it drops it; none while a slot is lacking (R299). -/
def Dev.endCommand (d : Dev) (port : BitVec 2) (c : Command) (x : Nat × Word) : Option Dev :=
  if c.nc ∧ x.1 = 0 then some { d with core := d.core.dropCommand port }
  else if d.core.slotFree c (some port) then
    some { d with core := (d.core.dropCommand port).addElement c (element c port x.2 x.1 c.rowsDone) }
  else none

/-- The engine of the current core has its entry of the hold queue for a row of a port, or the queue is full (R156). -/
def Dev.engineWaits (d : Dev) (port : BitVec 2) : Bool :=
  let q := d.clusters[d.cluster].hold
  q.contains (.engine d.core.id port) || decide (Config.holdDepth ≤ q.length)

/-- The oldest command of a port goes on, for a number of rows at most, and ends if it can (R299); none where nothing can be done at
present: no slot for its element, or a row that is held still. -/
def Dev.runPort (d : Dev) (port : BitVec 2) (f : EngineFault) (limit : Nat := 4096) : Option Dev :=
  match d.core.port[port.toFin].commands with
  | [] => none
  | c :: _ =>
    match c.result with
    | some x => d.endCommand port c x
    | none =>
      if !c.started && !c.nc && !d.core.slotFree c (some port) then none
      else
        let r := d.performCommand c f limit
        let c1 := { c with started := true, rowsDone := r.done, low := r.low, result := r.ended }
        let e := { r.dev with core := r.dev.core.putCommand port c1 }
        match r.ended with
        | some x => some ((e.endCommand port c1 x).getD e)
        | none =>
          if !r.held then some e
          else if c.started && decide (r.done = c.rowsDone) && d.engineWaits port then none
          else some (if e.engineWaits port then e else e.enterHold e.cluster (.engine e.core.id port))

/-- A step of the engine on a command of some kinds. -/
def Dev.engineStep (d : Dev) (port : BitVec 2) (kind : Nat → Bool) (err : Option Nat) : Dev :=
  match d.core.port[port.toFin].commands with
  | [] => d
  | c :: _ => if kind c.kind then (d.runPort port ((err.map EngineFault.uncorr).getD .none)).getD d else d

-- The kinds of a command that a step performs; a reserved kind ends with BADCMD and is taken with COPY.
def kindCopy (k : Nat) : Bool := decide (k = 0) || decide (2 < k)
def kindMcast (k : Nat) : Bool := decide (k = 1)
def kindFill (k : Nat) : Bool := decide (k = 2)

-- Waiting for the engine: an instruction that waits performs what it waits for (log 7).

/-- One command performed: the oldest of the first port whose oldest command can be. -/
def Dev.runAny (d : Dev) : List (BitVec 2) → Option Dev
  | [] => none
  | p :: t =>
    match d.runPort p .none with
    | some e => some e
    | none => d.runAny t

/-- Commands of some ports performed until a condition holds or nothing can be performed; n bounds them. -/
def Dev.runUntil (d : Dev) (ports : List (BitVec 2)) (stop : Dev → Bool) : Nat → Dev
  | 0 => d
  | n + 1 =>
    if stop d then d
    else
      match d.runAny ports with
      | none => d
      | some e => e.runUntil ports stop n

def allPorts : List (BitVec 2) := [0, 1, 2, 3]
/-- The commands that a core holds. -/
def Core.commandCount (x : Core) : Nat := (x.port.toList.map fun p => p.commands.length).sum

/-- Commands that the running task has in a port (R312, R314). -/
def Core.ownCommands (x : Core) (port : BitVec 2) : List Command :=
  x.port[port.toFin].commands.filter fun c => decide (c.task = x.context)

def Dev.portFull (port : BitVec 2) (d : Dev) : Bool := decide (Config.portDepth ≤ (d.core.ownCommands port).length)
def Dev.portEmpty (port : BitVec 2) (d : Dev) : Bool := d.core.port[port.toFin].done.isEmpty

/-- Every command performed as far as they can be. -/
def Dev.runPorts (d : Dev) : Dev := d.runUntil allPorts (fun _ => false) (2 * d.core.commandCount)

-- The instructions.

/-- The command that a push names (R310). -/
def Dev.pushed (d : Dev) (rd ra : SReg) : Command :=
  { words := Vector.ofFn fun i : Fin 4 =>
      if i.val = 0 then d.rd rd else if i.val = 1 then d.rd (rd + 1) else if i.val = 2 then d.rd ra else d.rd (ra + 1)
    level := d.core.status.pl, task := d.core.context, kid := d.core.kid, started := false, rowsDone := 0, low := [], result := none }

/-- QPUSH (R310). -/
def Dev.doQpush (d : Dev) (port : BitVec 2) (rd ra : SReg) : Act :=
  let c := d.pushed rd ra
  let e := d.runUntil [port] (fun x => !x.portFull port) (2 * d.core.commandCount)
  if e.portFull port then .error (.wait 0x9)
  else
    match e.release c.scope with
    | .error x => .error x
    | .ok f =>
      let q := f.core.port[port.toFin]
      .ok ({ f with core := { f.core with port := f.core.port.set port.toFin { q with commands := q.commands ++ [c] } } }).advance

/-- The oldest element of a port removed. -/
def Dev.popElement (d : Dev) (port : BitVec 2) : Dev :=
  let q := d.core.port[port.toFin]
  { d with core := { d.core with port := d.core.port.set port.toFin { q with done := q.done.tail } } }

/-- QPOP (R311): an element whose code is not OK is consumed and raises ENGINE, deferred. -/
def Dev.doQpop (d : Dev) (port : BitVec 2) (rd : SReg) : Act :=
  let e := d.runUntil allPorts (fun x => !x.portEmpty port) (2 * d.core.commandCount)
  match e.core.port[port.toFin].done with
  | [] => .error (.wait 0x9)
  | x :: _ =>
    let f := e.popElement port
    if bits x.hi 7 0 = 0 then .ok (f.wrPair rd (x.hi ++ x.lo)).advance
    else .ok (f.takeTrap { code := 0x0B, epc := d.core.pc, faddr := x.lo, finfo := x.hi, async := false, defer := true })

/-- QTRY (R311). -/
def Dev.doQtry (d : Dev) (port : BitVec 2) (rd : SReg) : Dev :=
  match d.core.port[port.toFin].done with
  | [] => (d.wrPair rd (0xFF#64 ++ 0#64)).advance
  | x :: _ => ((d.popElement port).wrPair rd (x.hi ++ x.lo)).advance

/-- QSTAT (R312). -/
def Dev.portStatus (d : Dev) (port : BitVec 2) : Word :=
  0#32 ++ BitVec.ofNat 8 Config.portDepth ++ BitVec.ofNat 8 Config.portDepth
    ++ BitVec.ofNat 8 (d.core.port[port.toFin].done.length) ++ BitVec.ofNat 8 ((d.core.ownCommands port).length)

/-- The commands of the running task that have not started end with ABORTED in order while slots are free (R312); others stay. -/
def Core.abortAll (x : Core) (port : BitVec 2) : List Command → List Command → Core
  | [], kept => { x with port := x.port.set port.toFin { x.port[port.toFin] with commands := kept } }
  | c :: t, kept =>
    if c.task = x.context ∧ c.started = false then
      (if x.slotFree c none then (x.addElement c (element c port (c.dw 2) 0x0B 0)).abortAll port t kept
       else { x with port := x.port.set port.toFin { x.port[port.toFin] with commands := kept ++ c :: t } })
    else x.abortAll port t (kept ++ [c])

/-- QABORT (R312): a waiting instruction while an element has no slot. DESIGN CHOICE (log 24): while it waits the engine may start, and end with
OK, a command with NC = 1 that had not started. -/
def Dev.doQabort (d : Dev) (port : BitVec 2) : Act :=
  d.needSupervisor (encS 0x28 0 0 4 (0#8 ++ port)) <|
    let x := d.core.abortAll port d.core.port[port.toFin].commands []
    let e := { d with core := x }
    if ((x.ownCommands port).filter fun c => !c.started).isEmpty then .ok e.advance else .ok { e with core := { x with stall := 0x9 } }

def execQpush (port : BitVec 2) (rd ra : SReg) (s : State) : Result State := finish s (s.d.doQpush port rd ra)
def execQpop (port : BitVec 2) (rd : SReg) (s : State) : Result State := finish s (s.d.doQpop port rd)
def execQtry (port : BitVec 2) (rd : SReg) (s : State) : Result State := .next (s.withDev (s.d.doQtry port rd))
def execQstat (port : BitVec 2) (rd : SReg) (s : State) : Result State := setS s rd (s.d.portStatus port)
def execQabort (port : BitVec 2) (s : State) : Result State := finish s (s.d.doQabort port)

-- The steps of the engine.

/-- A step of the engine of a core, which stops with its core (R330). -/
def Dev.copyStep (d : Dev) (core : Nat) (port : BitVec 2) (kind : Nat → Bool) (err : Option Nat) : Dev :=
  d.engineOf core fun e => e.engineStep port kind err

/-- At the halt of the current core the oldest command of a port has come to some row, which it finishes (R330). -/
def Dev.cutCommand (d : Dev) (port : BitVec 2) : Dev :=
  let n := Config.haltProgress d.draws
  let e := { d with draws := d.draws + 1 }
  if n = 0 then e else (e.runPort port .none n).getD e

def execCopy (core : Nat) (port : BitVec 2) (err : Option Nat) (s : State) : Result State :=
  .next (s.withDev (s.d.copyStep core port kindCopy err))
def execMcast (core : Nat) (port : BitVec 2) (err : Option Nat) (s : State) : Result State :=
  .next (s.withDev (s.d.copyStep core port kindMcast err))
def execFill (core : Nat) (port : BitVec 2) (s : State) : Result State :=
  .next (s.withDev (s.d.copyStep core port kindFill none))

end Sys2Proof.Machine
end

