-- ==== Sys2Proof/Machine/MemSys.lean ====
section
/-! DEFINITION. MEMSYS: fences, seals, translation-cache operations, remote copies and orphaned writes
(R62, R156 to R158, R177, R181 to R184). -/
namespace Sys2Proof.Machine

/-- FENCE (R62, R182). -/
def Dev.doFence (d : Dev) (o : MemOrder) (sc : MemScope) : Act := (d.fenceAt o sc).map Dev.advance

def execFence (o : MemOrder) (sc : MemScope) (s : State) : Result State := finish s (s.d.doFence o sc)

-- Translation-cache operations (R153, R184).

/-- The translation-cache entries of an owner that satisfy a condition are invalidated in every cluster of the owner, and the
accesses that they held replay (R156). -/
def Dev.invalidate (d : Dev) (owner : Nat) (p : TlbEntry → Bool) : Dev :=
  (d.clustersOf owner).foldl (fun e k =>
    (e.setCluster k { e.clusters[k] with tlb := e.clusters[k].tlb.filter fun t => !(decide (t.owner = owner) && p t) }).replayHold k) d

/-- The entries that translate an address. -/
def TlbEntry.covers (va : Word) (t : TlbEntry) : Bool := decide (t.va ≤ va.toNat) && decide (va.toNat < t.va + t.size)

/-- The entries of pages that overlap a region. -/
def TlbEntry.meets (base n : Nat) (t : TlbEntry) : Bool := overlap base n t.va t.size

/-- XINV and XINVA: the form that names an owner requires machine level, which no compute core holds (R184). -/
def Dev.doXinv (d : Dev) (w : Word32) (ro : SReg) (p : TlbEntry → Bool) : Act :=
  if ro ≠ 0 then d.priv w 2#2
  else d.needSupervisor w (.ok (d.invalidate d.owner p).advance)

def execXinv (ro ra : SReg) (s : State) : Result State :=
  finish s (s.d.doXinv (encS 0x17 ro ra 3 0) ro (TlbEntry.covers (s.d.rd ra)))
def execXinva (ro : SReg) (s : State) : Result State :=
  finish s (s.d.doXinv (encS 0x17 ro 0 4 0) ro fun _ => true)

-- Sealing (R157, R158, R183).

/-- The table entry that a walk ends at: its level, and the physical address of the entry (R149). -/
def Dev.walkEntry (d : Dev) (va : Word) : Nat → Nat → Nat → Option (Nat × Nat)
  | 0, _, _ => none
  | n + 1, table, level =>
    let a := table + 8 * walkIndex va level
    let e := d.entryAt a
    if !pteV e then none
    else if pteLeaf e then some (level, a)
    else d.walkEntry va n (pteAddr e) (level + 1)

/-- The physical addresses of every replica of the page that an address lies in (R151). -/
def Dev.replicas (d : Dev) (owner : Nat) (va : Word) : List Nat :=
  match (d.ownerAt owner).root with
  | none => []
  | some root =>
    match d.walkEntry va 4 root 1, d.walk owner va with
    | some (level, a), .leaf e _ =>
      let count := if level = 3 then 2 ^ (pteSize e - 11) else 2 ^ pteSize e
      let i := walkIndex va level
      (List.range count).map fun j => a - 8 * i + 8 * (i / count * count + j)
    | _, _ => []

/-- A region's check of one page (R183): FINFO is that of a store. An address of the local range is walked like any other, and a page with W = 0
reports that before RMT and DEC, two PROT values that R183 lists without an order (DESIGN CHOICES, log 11). -/
def Dev.sealCheck (d : Dev) (va : Word) : Except Stop Word :=
  if !canonical va then d.trap 0x04 va 0x50
  else
    match d.walk d.owner va with
    | .fails n => d.trap 0x04 va (0x10 ||| BitVec.ofNat 64 n)
    | .leaf e _ =>
      if pteMig e then .error (d.queued va)
      else if decide (d.core.status.pl = .user) && !pteUsr e then d.trap 0x05 va 0x12
      else if !pteW e then d.trap 0x05 va (if pteCow e then 0x11 else 0x10)
      else if pteRmt e || pteDec e then d.trap 0x05 va 0x12
      else .ok e

/-- The pages of a region in ascending order, each checked (R183): for each its lowest address in the region. n bounds the pages
that are left. -/
def Dev.sealPages (d : Dev) (limit : Nat) : Nat → Nat → Except Stop (List Nat)
  | 0, _ => .ok []
  | n + 1, a =>
    if a ≥ limit then .ok []
    else
      match d.sealCheck (BitVec.ofNat 64 a) with
      | .error e => .error e
      | .ok e =>
        match d.sealPages limit n ((a / pageBytes e + 1) * pageBytes e) with
        | .error x => .error x
        | .ok t => .ok (a :: t)

/-- The walks to the pages of a region, up to the first that fails its check (R154, R183). -/
def Dev.sealWalks (limit : Nat) : Nat → Nat → Dev → Dev
  | 0, _, d => d
  | n + 1, a, d =>
    if a ≥ limit then d
    else
      let w := d.walkSteps d.cluster (BitVec.ofNat 64 a)
      match w.sealCheck (BitVec.ofNat 64 a) with
      | .error _ => w
      | .ok e => Dev.sealWalks limit n ((a / pageBytes e + 1) * pageBytes e) w

/-- SL written into every replica of a page (R183). -/
def Dev.writeSl (d : Dev) (sl : Bool) (a : Nat) : Dev :=
  (d.replicas d.owner (BitVec.ofNat 64 a)).foldl (fun e pa =>
    let e1 := e.atHome none pa 32 d.owner (some (pa, 8))
    let old : Word := BitVec.ofNat 64 (leNat (e1.homeRead none pa 8))
    let new : Word := if sl then old ||| 0x400 else old &&& ~~~ 0x400
    e1.homeUpdate none (some d.cluster.val) pa (leBytes 8 new.toNat)) d

/-- The physical range of the page that an address of the region lies in. -/
def Dev.pageOf (d : Dev) (a : Nat) : Nat × Nat :=
  match d.walk d.owner (BitVec.ofNat 64 a) with
  | .leaf e _ => (pteAddr e, pageBytes e)
  | .fails _ => (0, 0)

/-- One page sealed (R183): SL set, stores to it acknowledged, its copies released from the directory. -/
def Dev.sealPage (d : Dev) (a : Nat) : Dev :=
  let p := d.pageOf a
  let d1 := ((d.writeSl true a).settleRange none p.1 p.2).combine none p.1 p.2
  let release (c : SliceCopy) : SliceCopy :=
    if c.dev = none ∧ overlap c.base c.size p.1 p.2 = true then { c with tracked := false } else c
  d1.setMem { d1.mem with copies := d1.mem.copies.map release }

/-- One page unsealed (R158): SL cleared, its copies invalidated in every cluster of the owner. -/
def Dev.unsealPage (d : Dev) (a : Nat) : Dev :=
  let p := d.pageOf a
  let d1 := d.writeSl false a
  d1.setMem { d1.mem with copies := d1.mem.copies.filter fun c =>
    !(decide (c.dev = none) && decide (c.owner = d.owner) && overlap c.base c.size p.1 p.2) }

/-- SEAL and UNSEAL (R183): every page is walked to and checked before the first changes; a length of 0 does nothing. -/
def Dev.doSeal (d : Dev) (act : Dev → Nat → Dev) (rl ra : SReg) : Act :=
  let base := (d.rd ra).toNat
  let len := (d.rd rl).toNat
  if base % 4096 ≠ 0 ∨ len % 4096 ≠ 0 then d.trap 0x03 (d.rd ra) 0x1C
  else if len = 0 then .ok d.advance
  else
    let w := Dev.sealWalks (base + len) (len / 4096) base d
    match w.sealPages (base + len) (len / 4096) base with
    | .error x => .error (x.after w)
    | .ok pages => .ok ((pages.foldl act w).invalidate d.owner (TlbEntry.meets base len)).advance

def execSeal (rl ra : SReg) (s : State) : Result State := finish s (s.d.doSeal Dev.sealPage rl ra)
def execUnseal (rl ra : SReg) (s : State) : Result State := finish s (s.d.doSeal Dev.unsealPage rl ra)

-- Copies (R64, R144, R184).

/-- RINV (R184), after the walk to its page (R154). -/
def Dev.doRinv (d : Dev) (ra : SReg) : Act :=
  let va := d.rd ra
  if inLocalRange va then .ok d.advance
  else if !canonical va then d.trap 0x04 va 0x40
  else
    let w := d.walked va
    match w.leafFor d.cluster d.owner va with
    | .fails n => d.faults d.core.pc va 0x04 (BitVec.ofNat 64 n)
    | .leaf e _ =>
      let pa := leafPa e va
      let g := grainBytes e
      if pteRmt e then
        .ok (w.setMem { w.mem with copies := w.mem.copies.filter fun c =>
          !(decide (c.cluster = d.cluster.val) && decide (c.dev = leafDev e)
            && overlap c.base c.size (grainBase pa g) g) }).advance
      else .ok w.advance

def execRinv (ra : SReg) (s : State) : Result State := finish s (s.d.doRinv ra)

/-- CPREF never faults and never waits (R184); its walk is made first (R154). A page of another device is not device memory of this one, and cells are never
filled by a load (R399): both are dropped (log 11). -/
def Dev.doCpref (d : Dev) (ra : SReg) : Dev :=
  let va := d.rd ra
  if inLocalRange va then d.advance
  else
    let w := d.walked va
    match w.translateNow d.cluster d.owner d.core.status.pl .load va with
    | .ok e pa =>
      if pteRmt e || pteDec e then w.advance
      else (w.fillGrain d.cluster none none pa (grainBytes e) (!pteSl e) false).advance
    | .held | .miss | .fault _ _ => w.advance

def execCpref (ra : SReg) (s : State) : Result State := .next (s.withDev (s.d.doCpref ra))

-- Orphaned writes (R177, R184).

/-- The grain that holds an address: that of its page, or 32 bytes where nothing is mapped (log 11). -/
def Dev.grainAt (d : Dev) (va : Word) : Nat :=
  match d.leafFor d.cluster d.owner va with
  | .leaf e _ => grainBytes e
  | .fails _ => 32

/-- One orphaned write retried: applied, or reported again (R177). One whose page is migrating is reported again and not held
(DESIGN CHOICE, log 11). -/
def Dev.retryOrphan (k : Fin 32) (d : Dev) (o : Orphan) : Dev :=
  let w := d.pageWalk k.val o.va
  match w.retryWrite k o.core o.owner o.kid o.level o.va o.bytes o.red with
  | .applied e => e
  | .held | .refused => w.addOrphan k { o with reported := false }

/-- One orphaned write abandoned: its kernel completes with REDUCTION_LOST (R177). -/
def Dev.loseKernel (d : Dev) (owner : Nat) (kid : Origin) : Dev :=
  match kid.launch with
  | none => d
  | some l =>
    d.setOwner owner { d.ownerAt owner with lost := if (d.ownerAt owner).lost.contains l then (d.ownerAt owner).lost
                                                    else (d.ownerAt owner).lost ++ [l] }

/-- An entry for an orphaned write has become free: held writes whose replay faulted before leave the hold queue as far as there is room (R177). -/
def Dev.orphanHeld (d : Dev) (k : Fin 32) : Dev :=
  let step (e : Dev) (h : HeldAccess) : Dev :=
    let keep : Dev := e.setCluster k { e.clusters[k] with hold := e.clusters[k].hold ++ [h] }
    match h.parts with
    | none => keep
    | some p =>
      match e.retryWrite k p.1 p.2.1 p.2.2.1 p.2.2.2.1 p.2.2.2.2.1 p.2.2.2.2.2.1 p.2.2.2.2.2.2 with
      | .refused => if e.orphanRoom k then e.addOrphan k (heldOrphan p) else keep
      | .applied _ | .held => keep
  if !d.orphanRoom k then d else d.clusters[k].hold.foldl step (d.setCluster k { d.clusters[k] with hold := [] })

/-- The orphaned writes of one cluster that satisfy a condition, retried or abandoned. -/
def Dev.resolveOrphans (d : Dev) (abandon : Bool) (p : Orphan → Bool) (k : Fin 32) : Dev :=
  let mine := d.clusters[k].orphans.filter p
  let d1 := d.setCluster k { d.clusters[k] with orphans := d.clusters[k].orphans.filter fun o => !p o }
  let e := mine.foldl (fun e o => if abandon then e.loseKernel o.owner o.kid else e.retryOrphan k o) d1
  if mine.isEmpty then e else e.orphanHeld k

/-- ORPH (R184), after the walk to the page that it names: the number of writes is written, and each is applied, abandoned or reported again. -/
def Dev.doOrph (d : Dev) (abandon : Bool) (rd ra : SReg) : Act :=
  d.needSupervisor (encS 0x17 rd ra 7 (0#9 ++ boolBit abandon)) <|
    let w := d.walked (d.rd ra)
    let va := (d.rd ra).toNat
    let g := w.grainAt (d.rd ra)
    let p (o : Orphan) : Bool := decide (o.owner = d.owner) && decide (o.va.toNat / g = va / g)
    let ks := d.clustersOf d.owner
    let n := (ks.map fun k => (d.clusters[k].orphans.filter p).length).sum
    .ok (((ks.foldl (fun e k => e.resolveOrphans abandon p k) w).postOrphan d.owner).wr rd (BitVec.ofNat 64 n)).advance

def execOrph (abandon : Bool) (rd ra : SReg) (s : State) : Result State := finish s (s.d.doOrph abandon rd ra)

end Sys2Proof.Machine
end

