-- ==== Sys2Proof/Machine/Coherence.lean ====
section
/-! DEFINITION. Steps of homes, slices, walkers and scrubs: a store at its home, its updates and commits, fills and evictions,
reductions, page walks, refusals of remote homes, and the scrub after an owner change (R133, R144 to R147, R154, R160, R174). -/
namespace Sys2Proof.Machine

def Dev.findStore (d : Dev) (id : Nat) : Option StoreRec := d.mem.stores.find? fun r => decide (r.id = id)

/-- The device with the phase of one store changed. -/
def Dev.setPhase (d : Dev) (id : Nat) (p : StorePhase) : Dev :=
  d.setMem { d.mem with stores := d.mem.stores.map fun r => if r.id = id then { r with phase := p } else r }

/-- A store's home sends messages for it: their number in the order of its messages (R146). -/
def Dev.sendOrder (d : Dev) (id : Nat) : Dev :=
  d.setMem { d.mem with
    stores := d.mem.stores.map fun r => if r.id = id then { r with order := d.mem.nextOrder } else r
    nextOrder := d.mem.nextOrder + 1 }

/-- No earlier message of a store's home to a slice is still on its way (R146). -/
def Dev.inOrder (d : Dev) (r : StoreRec) (k : Nat) : Bool :=
  !d.mem.stores.any fun x => x.messageTo k && decide (homeStack x.pa = homeStack r.pa) && decide (x.order < r.order)

/-- The device without one store. -/
def Dev.dropStore (d : Dev) (id : Nat) : Dev :=
  d.setMem { d.mem with stores := d.mem.stores.filter fun r => decide (r.id ≠ id) }

/-- The home can take a store: no store to the grain is uncommitted, and none of its own cluster's earlier ones to the grain is still
on its way (R55, R146). -/
def Dev.homeFree (d : Dev) (r : StoreRec) : Bool :=
  !d.mem.stores.any fun x =>
    x.sameGrain r && (x.isUncommitted || (x.isSent && decide (x.cluster = r.cluster) && decide (x.id < r.id)))

/-- STORE_AT_HOME (R145, R174). -/
def Dev.storeAtHome (d : Dev) (id : Nat) : Dev :=
  match d.findStore id with
  | none => d
  | some r =>
    if r.isSent && d.homeFree r then
      let d1 := d.storeLookup r
      (d1.setPhase id (.placed (d1.sharers r) [])).sendOrder id
    else d

/-- UPDATE (R145, R146): in its turn, pending at the sharer, but for bytes of its own later store, and acknowledged. -/
def Dev.updateAt (d : Dev) (id cluster : Nat) : Dev :=
  match d.findStore id with
  | none => d
  | some r =>
    match r.phase with
    | .placed unacked _ => if unacked.contains cluster && d.inOrder r cluster then d.setPhase id (r.heard (d.ownCovers cluster r) cluster) else d
    | .sent => d
    | .committed _ => d

/-- COMMIT (R145): with every sharer acknowledged, the bytes are in memory; the sharers with pending words have still to hear. -/
def Dev.commitAtHome (d : Dev) (id : Nat) : Dev :=
  match d.findStore id with
  | none => d
  | some r =>
    match r.phase with
    | .placed [] pending =>
      let d1 := d.homeCommit r
      if pending.isEmpty then d1.dropStore id else (d1.setPhase id (.committed pending)).sendOrder id
    | .placed (_ :: _) _ => d
    | .sent => d
    | .committed _ => d

/-- COMMIT_AT_SHARER (R145): the words are current there. -/
def Dev.commitAtSharer (d : Dev) (id cluster : Nat) : Dev :=
  match d.findStore id with
  | none => d
  | some r =>
    match r.phase with
    | .committed pending =>
      let rest := pending.filter fun k => decide (k ≠ cluster)
      if !d.inOrder r cluster then d
      else if rest.isEmpty then d.dropStore id else d.setPhase id (.committed rest)
    | .sent => d
    | .placed _ _ => d

def execStoreAtHome (id : Nat) (s : State) : Result State := .next (s.withDev (s.d.storeAtHome id))
def execUpdate (id cluster : Nat) (s : State) : Result State := .next (s.withDev (s.d.updateAt id cluster))
def execCommit (id : Nat) (s : State) : Result State := .next (s.withDev (s.d.commitAtHome id))
def execCommitAtSharer (id cluster : Nat) (s : State) : Result State := .next (s.withDev (s.d.commitAtSharer id cluster))

-- Fills and evictions (R143, R144, R147).

/-- The leaf through which a cluster's owner reaches a local physical address, if the cluster's translation cache holds one (log 11). -/
def Dev.leafOfPa (d : Dev) (k : Fin 32) (pa : Nat) : Option Word :=
  let hit (t : TlbEntry) : Bool :=
    decide (t.owner = d.clusters[k].owner) && decide (t.gen = d.clusters[k].gen) && !pteRmt t.leaf && decide (pteAddr t.leaf ≤ pa)
      && decide (pa < pteAddr t.leaf + pageBytes t.leaf)
  ((d.clusters[k].tlb).find? hit).map (·.leaf)

/-- LOAD_MISS (R144): a slice's miss served by the home, in a page that the cluster's translation cache maps, for its grain and its other
attributes stand in the leaf alone; cells are never filled by a load (R399). -/
def Dev.loadMiss (d : Dev) (cluster pa : Nat) : Dev :=
  let k := Fin.ofNat 32 cluster
  match d.leafOfPa k pa with
  | none => d
  | some e =>
    if !inHbm pa 1 || pteDec e || (d.copyFor k none pa 1).isSome then d
    else (d.event d.clusters[k].owner 0x02).fillGrain k none none pa (grainBytes e) (!pteSl e) false

/-- The grain of a local address as a cluster sees it; 32 bytes where its translation cache does not say (log 11). -/
def Dev.grainOfPa (d : Dev) (k : Fin 32) (pa : Nat) : Nat := ((d.leafOfPa k pa).map grainBytes).getD 32

/-- The home and address that the number of a copy's byte names: below 2^60 a physical address of this device, else 2^60 and a pod-global
address (R133; log 11). -/
def copyHome (n : Nat) : Option (BitVec 12) × Nat :=
  if n < 2 ^ 60 then (none, n) else (some (BitVec.ofNat 12 (n / 2 ^ 48)), n % 2 ^ 48)

/-- GRAIN_EVICTION (R147): a slice gives up a grain, of this device or of another. -/
def Dev.evictGrain (d : Dev) (cluster n : Nat) : Dev :=
  let h := copyHome n
  match d.mem.copies.find? fun c => c.core.isNone && decide (c.cluster = cluster) && decide (c.dev = h.1) && overlap c.base c.size h.2 1 with
  | none => d
  | some c => d.dropGrain c

/-- DIRECTORY_ENTRY_REUSE (R147): updates to the grain come first, and what the home has sent its sharers before (R146); then every sharer is
invalidated. -/
def Dev.reuseEntry (d : Dev) (pa : Nat) : Dev :=
  let hit (c : SliceCopy) : Bool := c.tracked && decide (c.dev = none) && overlap c.base c.size pa 1
  match d.mem.copies.find? hit with
  | none => d
  | some c =>
    let d1 := (d.mem.copies.filter hit).foldl (fun e x => e.hearAll x.cluster pa e.mem.nextOrder) (d.settleRange none c.base c.size)
    d1.setMem { d1.mem with copies := d1.mem.copies.filter fun x => !hit x }

def execLoadMiss (cluster pa : Nat) (s : State) : Result State := .next (s.withDev (s.d.loadMiss cluster pa))
def execGrainEviction (cluster pa : Nat) (s : State) : Result State := .next (s.withDev (s.d.evictGrain cluster pa))
def execDirectoryEntryReuse (pa : Nat) (s : State) : Result State := .next (s.withDev (s.d.reuseEntry pa))

-- Reductions (R172, R174).

/-- The operation, type and order forms that RED has (R172). -/
def redAllowed (op : RedOp) (ty : Ty) (arr : Bool) : Bool :=
  match ty with
  | .i32 | .i64 | .n32 | .n64 => !arr
  | .f32 =>
    match op with
    | .add => true
    | .min | .max => !arr
    | .and | .or | .xor => false
  | .i8 | .i16 | .n8 | .n16 | .f16 | .bf16 | .e4m3 | .e5m2 | .e2m1 => false

/-- RED_ACCEPTANCE (R174): a reduction of a cluster to local memory, behind the cluster's own stores to the word. -/
def Dev.acceptance (d : Dev) (cluster : Nat) (r : RedRequest) : Dev :=
  let n := r.ty.bits / 8
  if redAllowed r.op r.ty r.arr && inHbm r.pa n && decide (r.pa % n = 0) then
    let d1 := d.commitWhere fun x =>
      decide (x.cluster = cluster) && decide (x.dev = none) && overlap r.pa n x.pa x.bytes.length
    d1.acceptRed (128 * cluster) (some cluster) none (d1.grainOfPa (Fin.ofNat 32 cluster) r.pa) r
  else d

/-- A slice's own partials of a word in order of arrival as one contribution (R174, R176). -/
def foldArrivals : List PartialRec → List PartialRec
  | [] => []
  | p :: t =>
    [{ p with
      cluster := none
      request := { p.request with
        value := BitVec.ofNat 64 (t.foldl (fun x q => (Fmt.f32.fadd .rne x (q.request.value.toNat % 2 ^ 32)).1) (p.request.value.toNat % 2 ^ 32)) } }]

/-- PARTIAL_GIVE_UP (R174): the home keeps the partials of a slice for a grain with the same exactness. -/
def Dev.giveUp (d : Dev) (cluster pa : Nat) : Dev :=
  let mine (p : PartialRec) : Bool :=
    decide (p.cluster = some cluster) && decide (p.dev = none)
      && decide (p.base = grainBase pa (d.grainOfPa (Fin.ofNat 32 cluster) pa))
  let arr (p : PartialRec) : Bool := mine p && redIsArrival p.request
  let words := ((d.mem.partials.filter arr).map fun p => p.request.pa).eraseDups
  let kept := words.flatMap fun w => foldArrivals (d.mem.partials.filter fun p => arr p && decide (p.request.pa = w))
  let others := (d.mem.partials.filter fun p => !arr p).map fun p => if mine p then { p with cluster := none } else p
  d.setMem { d.mem with partials := others ++ kept }

def execRedAcceptance (cluster : Nat) (r : RedRequest) (s : State) : Result State := .next (s.withDev (s.d.acceptance cluster r))
def execPartialGiveUp (cluster pa : Nat) (s : State) : Result State := .next (s.withDev (s.d.giveUp cluster pa))

-- Page walks (R153, R154).

def execPageWalk (cluster : Nat) (va : Word) (s : State) : Result State := .next (s.withDev (s.d.pageWalk cluster va))

-- Refusals of remote homes (R133, R177, R408).

/-- A precise trap of the instruction that a core is executing, when its home's refusal returns. -/
def Dev.refusedAt (d : Dev) (core : Nat) (t : Core → Trap) : Dev :=
  if (d.coreAt core).run = .running then d.onCore core fun e => e.takeTrap (t e.core) else d

/-- An orphaned write enters a slice that has room (R177). -/
def Dev.orphaned (d : Dev) (k : Fin 32) (o : Orphan) : Dev := if d.orphanRoom k then d.addOrphan k o else d

/-- Some row of a command lies at an address of another device that refuses (R303). -/
def Dev.meetsRefusal (d : Dev) (c : Command) (va : Word) : Bool :=
  (List.range c.rows).any fun r => decide (c.rowsDone ≤ r) &&
    ((d.rowSource c r).any (fun p => decide (d.refusedIn c false (.refused va) p.1 ≠ .ok))
      || (d.rowTargets c r).any fun p => decide (d.refusedIn c true (.refused va) p.1 ≠ .ok))

/-- The oldest command of a port ends with PROT at the row that a remote home refused, with the rows below it written (R303). -/
def Dev.refuseRow (d : Dev) (port : BitVec 2) (va : Word) : Dev :=
  match d.core.port[port.toFin].commands with
  | [] => d
  | c :: _ => if c.result.isNone && d.meetsRefusal c va then (d.runPort port (.refused va)).getD d else d

/-- REMOTE_REFUSAL: a load, a fetch, an atomic and a CELL instruction trap; a retired write is an orphan; a command ends. -/
def Dev.remoteRefusal (d : Dev) : Refused → Dev
  | .fetch core va =>
    d.refusedAt core fun c => { code := 0x05, epc := c.pc, faddr := va, finfo := 0x22, async := false, defer := false }
  | .atomic core va =>
    d.refusedAt core fun c => { code := 0x05, epc := c.pc, faddr := va, finfo := 0x12, async := false, defer := false }
  | .row core port va => d.onCore core fun e => e.refuseRow port va
  | .load core va =>
    d.refusedAt core fun c => { code := 0x05, epc := c.pc, faddr := va, finfo := 2, async := false, defer := false }
  | .cell core va =>
    d.refusedAt core fun c => { code := 0x0D, epc := c.pc, faddr := va, finfo := 5, async := false, defer := false }
  | .write cluster pa va bytes owner kid =>
    let k := Fin.ofNat 32 cluster
    match d.mem.stores.find? fun r =>
        decide (r.cluster = cluster ∧ r.dev.isSome = true ∧ r.pa = pa ∧ r.va = va ∧ r.bytes = bytes ∧ r.owner = owner ∧ r.kid = kid) with
    | none => d
    | some r =>
      if d.orphanRoom k then
        (d.dropStore r.id).addOrphan k { owner := owner, core := r.core, level := r.level, va := va, kid := kid, red := none, bytes := bytes,
                                         reported := false }
      else d
  | .red cluster r =>
    let k := Fin.ofNat 32 cluster
    let hit (p : PartialRec) : Bool := decide (p.cluster = some cluster) && p.dev.isSome && decide (p.request = r)
    if d.orphanRoom k && d.mem.partials.any hit then
      (d.setMem { d.mem with partials := d.mem.partials.eraseP hit }).addOrphan k
        { owner := r.owner, core := 128 * cluster, level := .user, va := r.va, kid := r.kid, red := some r, bytes := [], reported := false }
    else d

def execRemoteRefusal (r : Refused) (s : State) : Result State := .next (s.withDev (s.d.remoteRefusal r))

-- The scrub (R159, R160).

/-- Stale rows of a scratchpad zeroed. -/
def Scratch.scrub (p : Scratch) (g : BitVec 8) : Scratch :=
  let fresh (row : Nat) : Bool := decide (p.gens.get 0 row = g)
  { bytes := p.bytes.filter fun c => fresh (c.1 / 64)
    gens := p.gens.filter fun r => decide (r.2 = g)
    full := p.full.filter fun gr => fresh (gr / 4)
    bad := p.bad }

/-- The cores of a cluster changed alike. -/
def Dev.mapCores (d : Dev) (k : Fin 32) (f : Core → Core) : Dev :=
  let g (c : Core) : Core := if clusterIx c.id = k then f c else c
  { d with core := g d.core, others := d.others.map fun x => (x.1, g x.2) }

/-- A stale register zeroed under a generation, so that none holds a tag that comes again (R102, R160). -/
def Tagged.scrub {α : Type} (zero : α) (g : BitVec 8) (t : Tagged α) : Tagged α := if t.gen = g then t else ⟨zero, g⟩

/-- The stale entries of a core cleared: the rows of its scratchpad, and its registers, which read as zero before and after (R102, R129, R159,
R160). -/
def Core.scrub (c : Core) (g : BitVec 8) : Core :=
  { c with
    pad := c.pad.scrub g
    s := c.s.map (Tagged.scrub 0 g)
    v := c.v.map (Tagged.scrub 0 g)
    p := c.p.map (Tagged.scrub 0 g)
    desc := c.desc.map (Tagged.scrub 0 g)
    stream := c.stream.map (Tagged.scrub 0 g)
    acc := c.acc.map fun a => { a with working := a.working.scrub Bank.zero.val g, visible := a.visible.scrub Bank.zero.val g } }

/-- The stale entries of a cluster cleared: scratchpad rows, registers, slice blocks with their directory entries, translations. -/
def Dev.clearStale (d : Dev) (k : Fin 32) : Dev :=
  let g := d.clusters[k].gen
  let d1 := d.mapCores k fun c => c.scrub g
  (d1.setMem { d1.mem with copies := d1.mem.copies.filter fun c => !(decide (c.cluster = k.val) && decide (c.gen ≠ g)) }).setCluster k
    { d.clusters[k] with tlb := d.clusters[k].tlb.filter fun t => decide (t.gen = g) }

/-- SCRUB (R160). -/
def Dev.scrub (d : Dev) (cluster : Nat) : Dev :=
  let k := Fin.ofNat 32 cluster
  if d.clusters[k].scrubbing then d.clearStale k else d

/-- SCRUB_END (R160): the scrub has cleared what is stale. The generation step of an owner change that came meanwhile follows, and the
scrub of that change begins. -/
def Dev.scrubEnd (d : Dev) (cluster : Nat) : Dev :=
  let k := Fin.ofNat 32 cluster
  if d.clusters[k].scrubbing then
    let d1 := d.clearStale k
    d1.setCluster k
      (match d1.clusters[k].next with
        | none => { d1.clusters[k] with scrubbing := false, former := 0 }
        | some o => { d1.clusters[k] with gen := d1.clusters[k].gen + 1, former := o, next := none })
  else d

def execScrub (cluster : Nat) (s : State) : Result State := .next (s.withDev (s.d.scrub cluster))
def execScrubEnd (cluster : Nat) (s : State) : Result State := .next (s.withDev (s.d.scrubEnd cluster))

end Sys2Proof.Machine
end

