-- ==== Sys2Proof/Machine/Mapping.lean ====
section
/-! DEFINITION. The compositor's work on a partition's page table: tables and roots, mapping and unmapping of pages, frame owners and the
unmappings that wait for a queue (R149 to R151, R161, R193, R365). -/
namespace Sys2Proof.Machine

/-- A range of local HBM zeroed. -/
def Memory.zeroRange (m : Memory) (a n : Nat) : Memory := m.filter fun c => !(decide (a ≤ c.1) && decide (c.1 < a + n))

/-- The next place below the compositor's frames for n bytes that hold no retired granule. -/
def Dev.tableFrame (d : Dev) (n : Nat) : Nat → Nat → Option Nat
  | 0, _ => none
  | fuel + 1, top =>
    if top < n then none
    else
      let a := (top - n) / n * n
      if d.touchesRetired a n then d.tableFrame n fuel a else some a

/-- A zeroed table of n bytes placed by the compositor (R149; log 8). -/
def Dev.newTable (d : Dev) (n : Nat) : Option (Nat × Dev) :=
  (d.tableFrame n 4096 d.host.tableTop).map fun a =>
    (a, { d with host := { d.host with tableTop := a }, mem := { d.mem with hbm := d.mem.hbm.zeroRange a n } })

/-- The granules of a page. -/
def granulesOfPage (e : Word) : List Nat := (List.range (pageBytes e / 4096)).map fun i => pteAddr e / 4096 + i

/-- Counts of granules changed. -/
def countGranules (f : Nat → Nat) (gs : List Nat) (m : Tbl Nat) : Tbl Nat := gs.foldl (fun t g => t.set g (f (t.get 0 g))) m

/-- The compositor's counts of the table entries that map each granule of a leaf of this device, and of those that map it as a cell frame,
changed (R193, R408). -/
def Dev.countMaps (d : Dev) (e : Word) (f : Nat → Nat) : Dev :=
  if pteV e && pteLeaf e && !pteRmt e then
    d.setMem { d.mem with
      maps := countGranules f (granulesOfPage e) d.mem.maps
      cellMaps := if pteDec e then countGranules f (granulesOfPage e) d.mem.cellMaps else d.mem.cellMaps }
  else d

/-- An entry of a table, read and written by the compositor at its home (R174, R193). -/
def Dev.readPte (d : Dev) (a : Nat) : Word × Dev := (d.entryAt a, d.atHome none a 32 0 none none)
def Dev.writePte (d : Dev) (a : Nat) (e : Word) : Dev :=
  let x := d.atHome none a 32 0 (some (a, 8)) none
  ((x.homeUpdate none none a (leBytes 8 e.toNat)).countMaps (x.entryAt a) (· - 1)).countMaps e (· + 1)

/-- The root of an owner, placed when it has none. -/
def Dev.withRoot (d : Dev) (o : Nat) : Option (Nat × Dev) :=
  match (d.ownerAt o).root with
  | some a => some (a, d)
  | none => (d.newTable 32768).map fun r => (r.1, r.2.setOwner o { r.2.ownerAt o with root := some r.1 })

/-- The table of a level that maps an address, with the tables above it, from a table of a level; n is the levels to go. -/
def Dev.tableFor (d : Dev) (va : Word) : Nat → Nat → Nat → Option (Nat × Dev)
  | 0, table, _ => some (table, d)
  | n + 1, table, level =>
    let a := table + 8 * walkIndex va level
    let x := d.readPte a
    if !pteV x.1 then
      match x.2.newTable 16384 with
      | none => none
      | some r => (r.2.writePte a (BitVec.ofNat 64 (r.1 + 1))).tableFor va n r.1 (level + 1)
    else if pteLeaf x.1 then none
    else x.2.tableFor va n (pteAddr x.1) (level + 1)

/-- The level at which a page of a size stands, and its replicas (R151). -/
def leafLevel (k : Nat) : Nat := if 11 ≤ k then 3 else 4
def leafCount (k : Nat) : Nat := if 11 ≤ k then 2 ^ (k - 11) else 2 ^ k

/-- The addresses of the replicas of a page of a size in its table. -/
def replicaSlots (table : Nat) (va : Word) (k : Nat) : List Nat :=
  let first := walkIndex va (leafLevel k) / leafCount k * leafCount k
  (List.range (leafCount k)).map fun j => table + 8 * (first + j)

-- Frames (R161, R193).

/-- A new frame owner recorded for a granule: what is on its way to it has reached it, its MSC blocks are written back and dropped, and a frame
that passes to another owner's use is zeroed, no cache keeping what it held. -/
def Dev.recordFrame (o : Nat) (zero : Bool) (d : Dev) (g : Nat) : Dev :=
  if d.mem.frames.get 0 g = o then d
  else
    let stack := homeStack (4096 * g)
    let x := (d.settleRange none (4096 * g) 4096).combine none (4096 * g) 4096
    let inside (b : MscBlock) : Bool := decide (b.line / 8 = g % 2 ^ 29)
    let e := ((x.mem.msc.get [] stack).filter inside).foldl (fun y b => y.moveSectors stack b.line b.dirty 0) x
    let blocks := (e.mem.msc.get [] stack).filter fun b => !inside b
    e.setMem { e.mem with
      frames := e.mem.frames.set g o
      msc := e.mem.msc.set stack blocks
      hbm := if zero then e.mem.hbm.zeroRange (4096 * g) 4096 else e.mem.hbm
      copies := if zero then e.mem.copies.filter fun c => c.dev.isSome || !overlap c.base c.size (4096 * g) 4096 else e.mem.copies }

/-- A page of an owner recorded at its home, zeroed when it was another's (R161, R193). -/
def Dev.recordPage (d : Dev) (o : Nat) (e : Word) : Dev :=
  if pteRmt e then d else (granulesOfPage e).foldl (Dev.recordFrame o true) d

/-- The granules of a leaf that no table entry maps any longer pass to owner 0 (R193). -/
def Dev.releasePage (d : Dev) (e : Word) : Dev :=
  if pteV e && pteLeaf e && !pteRmt e then
    ((granulesOfPage e).filter fun g => decide (d.mem.maps.get 0 g = 0)).foldl (Dev.recordFrame 0 false) d
  else d

/-- A table that no entry leads to any longer: its entries are cleared, and the frames that they alone mapped pass to owner 0 (R193). -/
def Dev.dropTable (d : Dev) (e : Word) : Dev :=
  let slots := (List.range 2048).map fun i => pteAddr e + 8 * i
  let olds := (slots.map d.entryAt).eraseDups
  olds.foldl Dev.releasePage (slots.foldl (fun y a => if pteV (y.entryAt a) then y.writePte a 0 else y) d)

/-- An entry that another one has replaced: a leaf's frames, or a table, mapped by nothing else (R193). -/
def Dev.releaseEntry (d : Dev) (e : Word) : Dev := if pteV e && !pteLeaf e then d.dropTable e else d.releasePage e

/-- The copies of a page's frame by another grain are given up once what was on its way has reached them: a block never holds grains of two
sizes (R143). -/
def Dev.regrain (d : Dev) (e : Word) : Dev :=
  let x := d.settleRange (leafDev e) (pteAddr e) (pageBytes e)
  x.setMem { x.mem with copies := x.mem.copies.filter fun c =>
    !(decide (c.dev = leafDev e) && overlap c.base c.size (pteAddr e) (pageBytes e) && decide (c.size ≠ grainBytes e)) }

/-- A page's bytes copied to a new frame by the compositor, cells and their epochs with them (R155, R193, R408). -/
def Dev.copyPage (d : Dev) (old new : Word) : Dev :=
  (List.range (pageBytes old / 512)).foldl (fun e i =>
    let a := pteAddr old + 512 * i
    let b := pteAddr new + 512 * i
    let f := (e.atHome none a 512 0 none none).mscAccess b 512 0 (some (b, 512))
    f.homeWrite none none b (f.homeRead none a 512)) d

/-- A page that was migrating has its data in its new frame before the new entry is written (R155). -/
def Dev.movePage (d : Dev) (o : Nat) (va e : Word) : Dev :=
  match d.walk o va with
  | .fails _ => d
  | .leaf old _ =>
    if pteMig old && !pteMig e && !pteRmt old && !pteRmt e && decide (pteSize old = pteSize e) && decide (pteAddr old ≠ pteAddr e) then
      (d.recordPage o e).copyPage old e
    else d

-- MAP (R419).

/-- The entry of page i of a request. -/
def mapEntry (b : MapBody) (i : Nat) : Word := b.pte + BitVec.ofNat 64 (i * pageBytes b.pte)
def mapAddr (b : MapBody) (i : Nat) : Word := b.va + BitVec.ofNat 64 (i * pageBytes b.pte)

/-- Another compositor says that a mapping on its device names a granule of this device as a cell frame, or that none does any longer (R408). -/
def Dev.nameCell (d : Dev) (granule : Nat) (named : Bool) : Dev :=
  d.setMem { d.mem with
    podCells := if named then setInsert granule d.mem.podCells else d.mem.podCells.filter fun g => decide (g ≠ granule) }

/-- The compositor refuses to migrate a page of cells, to begin it and to end it, while a mapping on another device names a frame of it
(R408). -/
def Dev.podKeeps (d : Dev) (o : Nat) (va e : Word) : Bool :=
  match d.walk o va with
  | .fails _ => false
  | .leaf old _ =>
    pteDec old && !pteRmt old && (pteMig e || (pteMig old && decide (pteAddr old ≠ pteAddr e)))
      && (granulesOfPage old).any fun g => d.mem.podCells.contains g

/-- A request whose pages can be mapped: leaves of their level, aligned, canonical, of devices in the pod table, and of frames that no other
tenant holds (R150, R151, R193, R416), and not to be kept for another device's sake (R408; log 8). -/
def Dev.mapOk (d : Dev) (o : Nat) (b : MapBody) : Bool :=
  pteV b.pte && pteLeaf b.pte && decide (b.va.toNat % pageBytes b.pte = 0)
    && (List.range b.pages).all fun i =>
      d.leafOk (mapEntry b i) (leafLevel (pteSize b.pte)) && canonical (mapAddr b i) && !inLocalRange (mapAddr b i)
        && !d.podKeeps o (mapAddr b i) (mapEntry b i)
        && (if pteRmt b.pte then d.host.podTable.any fun x => decide (x.1 = pteDev b.pte)
            else (granulesOfPage (mapEntry b i)).all fun g => decide (d.mem.frames.get 0 g = 0) || decide (d.mem.frames.get 0 g = o))

/-- One page mapped in its table: the data of one that was migrating first, then its entry in every replica; the frames of the leaves that it
replaces, and of the tables of the smaller pages that one of 8 MiB or more replaces, pass to owner 0 where nothing else maps them (R151, R155,
R193). -/
def Dev.mapPage (d : Dev) (o table : Nat) (va e : Word) : Dev :=
  let slots := replicaSlots table va (pteSize e)
  let olds := (slots.map d.entryAt).eraseDups
  let x := slots.foldl (fun y a => y.writePte a e) (d.movePage o va e)
  olds.foldl Dev.releaseEntry ((x.recordPage o e).regrain e)

/-- Pages i to the end of a request mapped; none where a table cannot be placed. -/
def Dev.mapPages (d : Dev) (o : Nat) (b : MapBody) : Nat → Nat → Option Dev
  | 0, _ => some d
  | n + 1, i =>
    let k := pteSize b.pte
    match d.withRoot o with
    | none => none
    | some r =>
      match r.2.tableFor (mapAddr b i) (leafLevel k - 1) r.1 1 with
      | none => none
      | some t =>
        (t.2.mapPage o t.1 (mapAddr b i) (mapEntry b i)).mapPages o b n (i + 1)

/-- MAP with its XINV (R153, R420). -/
def Dev.doMap (d : Dev) (o : Nat) (b : MapBody) : Option Dev :=
  if d.mapOk o b then
    (d.mapPages o b b.pages 0).map fun e => e.invalidate o (TlbEntry.meets b.va.toNat (b.pages * pageBytes b.pte))
  else none

-- UNMAP (R365, R419).

/-- The address of page i of a request. -/
def unmapAddr (b : UnmapBody) (i : Nat) : Word := b.va + BitVec.ofNat 64 (i * 4096 * 2 ^ b.k.toNat)
def unmapBytes (b : UnmapBody) : Nat := b.pages * 4096 * 2 ^ b.k.toNat

/-- Every page of a request is mapped with its size. -/
def Dev.unmapOk (d : Dev) (o : Nat) (b : UnmapBody) : Bool :=
  decide (b.va.toNat % (4096 * 2 ^ b.k.toNat) = 0) && (List.range b.pages).all fun i =>
    match d.walk o (unmapAddr b i) with
    | .leaf e _ => decide (pteSize e = b.k.toNat)
    | .fails _ => false

/-- One page unmapped: every replica cleared, and its frames given back to owner 0 where nothing else maps them (R193). -/
def Dev.unmapPage (o : Nat) (d : Dev) (va : Word) : Dev :=
  let w := d.tablesRead o va
  match w.walk o va with
  | .fails _ => w
  | .leaf e _ => ((w.replicas o va).foldl (fun x a => x.writePte a 0) w).releasePage e

/-- The pages of a request unmapped, with the XINV. -/
def Dev.unmapPages (d : Dev) (o : Nat) (b : UnmapBody) : Dev :=
  (((List.range b.pages).map (unmapAddr b)).foldl (Dev.unmapPage o) d).invalidate o (TlbEntry.meets b.va.toNat (unmapBytes b))

/-- The queues of the owner that are not CLOSED and keep a page of a request: the completion word, or the record of a launch that has not
completed (R365). -/
def Dev.unmapQueues (d : Dev) (o : Nat) (b : UnmapBody) : List Nat :=
  let inside (a : Word) (n : Nat) : Bool := overlap b.va.toNat (unmapBytes b) a.toNat n
  (d.queues.filter fun x =>
    let q := x.2
    decide (q.owner = o) && (decide (q.state = .opened) || decide (q.state = .closing))
      && (inside q.word 8 || q.pending.any fun l => inside l.addr 64)).map (·.1)

/-- A request is held for a queue (R365). -/
def Dev.unmapHeld (d : Dev) (o : Nat) (b : UnmapBody) : Bool := !(d.unmapQueues o b).isEmpty

/-- LENGTH of a response: no body without a result; a report is as many doublewords as its bytes fill; how many another result takes is the
series' (R418, R427; log 8). -/
def Reply.length (r : Reply) : BitVec 32 :=
  match r.body with
  | .empty => 0
  | .report bytes => BitVec.ofNat 32 (8 * ceilDiv' bytes.length 8)
  | .sequence _ | .cause _ _ _ => BitVec.ofNat 32 (8 * Config.bodyWords r.code.toNat)

/-- A response leaves at the port where its request came, header and body in beats of 64 bytes, in the system class (R202, R415; log 19). -/
def Dev.sendReply (d : Dev) (r : Reply) : Dev :=
  let n := r.header.port
  let e := if d.portUp n then d.askTimes 5 n 0 (ceilDiv' (32 + r.length.toNat) 64) else d
  { e with host := { e.host with sent := e.host.sent ++ [r] } }

/-- A request answered: sent, and stored in its session (R418, R420). -/
def Dev.reply (d : Dev) (code : BitVec 16) (h : ReqHeader) (st : ReplyStatus) (b : ReplyBody) : Dev :=
  let r : Reply := { code := code, header := h, status := st, body := b }
  let k := h.session.toNat
  let s := d.host.sessions.get { next := h.seq, replies := [], held := [], later := none } k
  ({ d with host := { d.host with sessions := d.host.sessions.set k { s with replies := s.replies ++ [r] } } }).sendReply r

/-- A queue for which an unmapping is held is CLOSED, or bound no more. -/
def Dev.queueClosed (d : Dev) (q : Nat) : Bool :=
  let s := (d.queues.get Queue.reset q).state
  decide (s = .closed) || decide (s = .unbound)

/-- One held unmapping: it takes effect, and is answered, once the queues for which it is held are CLOSED and no other keeps its pages
(R365, R420). -/
def Dev.retryUnmap (d : Dev) (x : HeldUnmap) : Dev :=
  let o := x.header.part.toNat
  let rest := (x.queues.filter fun q => !d.queueClosed q) ++ d.unmapQueues o x.body
  if rest.isEmpty then (d.unmapPages o x.body).reply 0x04 x.header .ok .empty
  else { d with host := { d.host with unmaps := d.host.unmaps ++ [{ x with queues := rest }] } }

/-- The held unmappings looked at again after a queue became CLOSED. -/
def Dev.retryUnmaps (d : Dev) : Dev :=
  d.host.unmaps.foldl Dev.retryUnmap { d with host := { d.host with unmaps := [] } }

end Sys2Proof.Machine
end

