-- ==== Sys2Proof/Machine/Records.lean ====
section
/-! DEFINITION. Launch records, kernel descriptors, spawn packets and frontier records: their fields, what makes them valid, and how
they are read (R349, R350, R360, R374, R376, R385 to R387). -/
namespace Sys2Proof.Machine

/-- n doublewords from their bytes (R4). -/
def wordsOf (n : Nat) (bs : List Byte) : Vector Word n :=
  Vector.ofFn fun i : Fin n => BitVec.ofNat 64 (leNat ((bs.drop (8 * i.val)).take 8))

-- The fields of a launch record (R349, R374).
def recKid (r : Vector Word 8) : BitVec 32 := r[0].extractLsb' 32 32
def recChn (r : Vector Word 8) : Bool := bit r[0] 4
def recFrontier (r : Vector Word 8) : Bool := decide (bits r[0] 3 0 = 1)
def recGrain (r : Vector Word 8) : Nat := bits r[6] 31 0
def recE0 (r : Vector Word 8) : Nat := bits r[4] 62 42
def recE1 (r : Vector Word 8) : Nat := bits r[4] 41 21
def recE2 (r : Vector Word 8) : Nat := bits r[4] 20 0
def recNv (r : Vector Word 8) : Nat := bits r[5] 62 60
def recSlot (r : Vector Word 8) (i : Nat) : Nat := bits r[5] (15 * i + 14) (15 * i)
def recRes (r : Vector Word 8) : Bool := bit r[6] 2
def recChained (r : Vector Word 8) : Bool := decide (bits r[6] 1 0 = 1)
/-- The address of the frontier record (R374). -/
def recRecord (r : Vector Word 8) : Word := r[6] &&& ~~~ 0x3F
/-- Rows of the space (R377). -/
def recRows (r : Vector Word 8) : Nat := recE0 r * recE1 r

/-- The components of a dependence vector (R374). -/
def slotVec (x : Nat) : Int × Int × Int := (twos 5 (field x 14 10), twos 5 (field x 9 5), twos 5 (field x 4 0))
/-- The dependence vectors of a record. -/
def recVecs (r : Vector Word 8) : List (Int × Int × Int) := (List.range (recNv r)).map fun i => slotVec (recSlot r i)

/-- The first nonzero component is positive, and there is one (R376). -/
def leadsForward (v : Int × Int × Int) : Bool :=
  if v.1 ≠ 0 then decide (0 < v.1) else if v.2.1 ≠ 0 then decide (0 < v.2.1) else decide (0 < v.2.2)
def smallVec (v : Int × Int × Int) : Bool :=
  let ok (c : Int) : Bool := decide (-8 ≤ c) && decide (c ≤ 8)
  ok v.1 && ok v.2.1 && ok v.2.2

/-- The frontier fields are valid (R376); last is the record that the queue appended last. -/
def frontierOk (last : Option (Vector Word 8)) (r : Vector Word 8) : Bool :=
  decide (recE0 r ≠ 0) && decide (recE1 r ≠ 0) && decide (recE2 r ≠ 0) && !bit r[4] 63 && !bit r[5] 63
    && decide (recNv r ≤ 4)
    && ((List.range 4).all fun i =>
      if i < recNv r then smallVec (slotVec (recSlot r i)) && leadsForward (slotVec (recSlot r i)) else decide (recSlot r i = 0))
    && decide (bits r[6] 5 3 = 0) && decide (bits r[6] 1 0 ≤ 1) && (recRes r || decide (recRecord r = 0))
    && decide (recChn r = recChained r)
    && (!recChained r ||
      match last with
      | none => false
      | some p => recFrontier p && decide (recE1 p = recE1 r) && decide (recE2 p = recE2 r))

/-- A launch record is valid (R349, R376). -/
def recordOk (last : Option (Vector Word 8)) (r : Vector Word 8) : Bool :=
  decide (bits r[0] 31 5 = 0) && decide (bits r[0] 3 0 ≤ 1) && decide (r[1].toNat % 32 = 0) && decide (r[7] = 0)
    && (if recFrontier r then frontierOk last r
        else !recChn r && decide (r[4].toNat ≤ r[5].toNat) && decide (bits r[6] 63 32 = 0) && decide (recGrain r ≠ 0))

-- Kernel descriptors (R350).
def usesBase (u : Word) : Nat := bits u 11 0
def usesRows (u : Word) : Nat := bits u 24 12
def usesAcc (u : Word) : BitVec 4 := u.extractLsb' 25 4

def kernelOk (k : Vector Word 4) : Bool :=
  decide (k[0].toNat % 4 = 0) && decide (bits k[1] 63 31 = 0) && decide (usesBase k[1] + usesRows k[1] ≤ 4096)
    && decide (bits k[2] 63 10 = 0) && decide (k[3] = 0)

/-- The descriptor that the loader builds from a kernel entry (R78, R350). -/
def entryDescriptor (k : KernelEntry) : List Word :=
  [k.entry,
    zext (boolBit k.fuse ++ boolBit k.frame ++ k.acc ++ BitVec.ofNat 13 k.count ++ BitVec.ofNat 12 k.first),
    zext (k.vhi ++ k.shi), 0]

/-- A kernel entry that has a descriptor: aligned, with rows in range (R78, R350). -/
def entryOk (k : KernelEntry) : Bool :=
  decide (k.desc.toNat % 32 = 0) && decide (k.entry.toNat % 4 = 0) && decide (k.first ≤ 4095) && decide (k.first + k.count ≤ 4096)

/-- Two declarations share no scratchpad row and no accumulator set (R362). DESIGN CHOICE (log 17): one with COUNT = 0 shares no row with any
other, the recorded whole scratchpad included, by the sets of R362, where R78 says that no other task can be judged disjoint from the whole. -/
def usesDisjoint (a b : Word) : Bool :=
  !(decide (usesRows a ≠ 0) && decide (usesRows b ≠ 0) && overlap (usesBase a) (usesRows a) (usesBase b) (usesRows b))
    && decide (usesAcc a &&& usesAcc b = 0)

-- Spawn packets (R360).

def redOpOf (c : BitVec 3) : Option RedOp :=
  if c = 0 then some .add else if c = 1 then some .and else if c = 2 then some .or else if c = 3 then some .xor
  else if c = 4 then some .min else if c = 5 then some .max else none

def packetIsRed (p : Vector Word 4) : Bool := decide (bits p[0] 3 0 = 1)
/-- The operation and type of a MEMRED packet, where RED permits them without .arr. -/
def packetRed (p : Vector Word 4) : Option (RedOp × Ty) :=
  match redOpOf (p[0].extractLsb' 8 3), Ty.ofCode (p[0].extractLsb' 11 4) with
  | some op, some ty => if redAllowed op ty false then some (op, ty) else none
  | _, _ => none

def packetOk (p : Vector Word 4) : Bool :=
  decide (bits p[0] 63 15 = 0) && decide (bits p[0] 7 4 = 0) && decide (bits p[0] 3 0 ≤ 1)
    && (if packetIsRed p then (packetRed p).isSome && decide (p[2] = 0) && decide (p[3] ≠ 0) else decide (bits p[0] 14 8 = 0))

-- Reading.

/-- n bytes read as a load and indivisibly at their home, which combines every grain that they lie in (R174); the address is a multiple of n, a power of two (R351, R361, R386). -/
def Dev.readWhole (d : Dev) (va : Word) (n : Nat) : Except Stop (List Byte × Dev) :=
  match d.placeAny d.core.status.pl .load va n false with
  | .error e => .error e
  | .ok .held => .error (d.queued va)
  | .ok (.unit _) => d.refuse va .load
  | .ok (.pad c win off) => d.padLoad c win off va n .none
  | .ok (.home e pa) =>
    if d.heldOver d.core.id va n then .error (d.queued va)
    else if remoteRefuses e then d.refuse va .load
    else
      match d.badAt (leafDev e) pa n with
      | some place => d.trap 0x09 va (zext place)
      | none =>
      let g := max (grainBytes e) n
      let d1 := (d.atHome (leafDev e) pa g).forgetRemote d.cluster (leafDev e) pa g
      .ok (d1.homeRead (leafDev e) pa n, d1)

/-- FRONT (R95, R389). -/
def Dev.frontTrap {α : Type} (d : Dev) (faddr : Word) (reason : BitVec 4) : Except Stop α := d.trap 0x0E faddr (zext reason)

/-- The kernel descriptor at an address, checked (R350, R351, R361): its address is where the reason that is given is reported. -/
def Dev.readKernel (d : Dev) (at' va : Word) : Except Stop (Vector Word 4 × Dev) :=
  if va.toNat % 32 ≠ 0 then d.taskTrap at' 5
  else
    match d.readWhole va 32 with
    | .error e => .error e
    | .ok r => if kernelOk (wordsOf 4 r.1) then .ok (wordsOf 4 r.1, r.2) else d.taskTrap at' 5

-- Frontier records (R385, R386).

/-- The highest bit that is set, plus one. -/
def bitLength (x : BitVec 64) : Nat := if x = 0 then 0 else x.toNat.log2 + 1

/-- A row entry is valid (R386). -/
def rowOk (e2 : Nat) (w : Vector Word 2) : Bool :=
  decide (bits w[0] 63 21 = 0) && decide (w[0].toNat ≤ e2) && decide (w[1] = 0 ∨ w[0].toNat + bitLength w[1] < e2)

/-- The row entries of a frontier record from entry k on, n of them, those with nothing complete left out. -/
def Dev.readRows (d : Dev) (base : Word) (row0 e2 : Nat) : Nat → Nat → Except Stop (Tbl (Nat × BitVec 64) × Dev)
  | 0, _ => .ok ([], d)
  | n + 1, k =>
    match d.readWhole (base + BitVec.ofNat 64 (64 + 16 * k)) 16 with
    | .error e => .error e
    | .ok r =>
      let w := wordsOf 2 r.1
      if rowOk e2 w then
        match r.2.readRows base row0 e2 n (k + 1) with
        | .error e => .error e
        | .ok t => .ok ((if w[0] = 0 ∧ w[1] = 0 then t.1 else (row0 + k, (w[0].toNat, w[1])) :: t.1), t.2)
      else d.frontTrap base 4

/-- The header of a frontier record is valid for a launch (R386, R387). -/
def headerOk (r h : Vector Word 8) : Bool :=
  decide (bits h[0] 63 42 = 0) && decide (bits h[1] 31 13 = 0) && decide (bits h[1] 12 0 ≤ Config.bandRows)
    && decide (h[2] = r[4]) && decide (h[3] = r[5]) && decide (h[4] = 0) && decide (h[5] = 0) && decide (h[6] = 0) && decide (h[7] = 0)
    && decide (bits h[0] 41 0 + bits h[1] 12 0 ≤ recRows r)

/-- Rows that are complete are left behind: ROW0 is the first that is not (R378, R380); fuel bounds them. -/
def Frontier.settle (e2 rows : Nat) : Nat → Frontier → Frontier
  | 0, f => f
  | n + 1, f =>
    if f.row0 < rows ∧ e2 ≤ (f.rows.get (0, 0) f.row0).1 then
      Frontier.settle e2 rows n { f with row0 := f.row0 + 1, rows := f.rows.erase f.row0 }
    else f

/-- The frontier of a launch that has done nothing (R378). -/
def Frontier.start : Frontier := { row0 := 0, rows := [], inFlight := [] }

/-- The frontier that a launch starts from (R386, R387). -/
def Dev.startFrontier (d : Dev) (r : Vector Word 8) : Except Stop (Frontier × Dev) :=
  if recFrontier r && recRes r then
    match d.readWhole (recRecord r) 64 with
    | .error e => .error e
    | .ok x =>
      let h := wordsOf 8 x.1
      if headerOk r h then
        match x.2.readRows (recRecord r) (bits h[0] 41 0) (recE2 r) (bits h[1] 12 0) 0 with
        | .error e => .error e
        | .ok t =>
          .ok (Frontier.settle (recE2 r) (recRows r) (bits h[1] 12 0) { row0 := bits h[0] 41 0, rows := t.1, inFlight := [] }, t.2)
      else d.frontTrap (recRecord r) 4
  else .ok (Frontier.start, d)

end Sys2Proof.Machine
end

