-- ==== Sys2Proof/Machine/Dispatcher.lean ====
section
/-! DEFINITION. The task dispatcher and the galley: placement, taking work, frontiers, counts and the completion of launches
(R348 to R364, R377 to R384, R391). -/
namespace Sys2Proof.Machine

def Dev.queueAt (d : Dev) (n : Nat) : Queue := d.queues.get Queue.reset n
def Dev.setQueue (d : Dev) (n : Nat) (q : Queue) : Dev := { d with queues := d.queues.set n q }

/-- A queue bound to an owner (R348). -/
def Queue.boundTo (q : Queue) (o : Nat) : Bool := decide (q.owner = o) && decide (q.state ≠ .unbound)

def Queue.findLaunch (q : Queue) (seq : Nat) : Option Launch := q.pending.find? fun l => decide (l.seq = seq)
def Queue.setLaunch (q : Queue) (l : Launch) : Queue :=
  { q with pending := q.pending.map fun x => if x.seq = l.seq then l else x }

/-- The cores that are not as after reset (R13). -/
def Dev.cores (d : Dev) : List Core := d.core :: d.others.map (·.2)

/-- The dispatcher does nothing for an owner whose state has been cut for a save, or is saved (R332, R366). -/
def Dev.frozen (d : Dev) (o : Nat) : Bool := (d.stops.find o).any (fun t => t.cut) || (d.contexts.find o).isSome

/-- A galley fires no point of an owner from its stop tick until it goes on (R396). -/
def Dev.firesNone (d : Dev) (o : Nat) : Bool := d.frozen o || (d.stops.find o).any fun t => t.due

-- Clusters and idle cores.

/-- The clusters of an owner on a die that are in service, ascending (R355). -/
def Dev.dieClusters (d : Dev) (o die : Nat) : List (Fin 32) :=
  (d.clustersOf o).filter fun k => decide (k.val / 8 = die) && !d.clusters[k].retired

/-- The die that takes the place of a die on which the owner holds no cluster (R355). -/
def Dev.placeDie (d : Dev) (o die : Nat) : Option Nat :=
  [die, die ^^^ 1, die ^^^ 2, die ^^^ 3].find? fun x => !(d.dieClusters o x).isEmpty

/-- A core that can take work: it runs none (R356). -/
def Core.free (c : Core) : Bool := decide (c.run = .idle) && c.task.isNone && c.gang.isNone && c.halt.isNone
/-- An idle core (R368): it also holds no yielded task and has no work of its own waiting. -/
def Core.isIdle (c : Core) : Bool := c.free && c.yielded.isEmpty && c.named.isEmpty

/-- The lowest-numbered idle core of a cluster (R355). -/
def Dev.idleCore (d : Dev) (k : Fin 32) : Option Nat :=
  ((List.range Config.coresPerCluster).find? fun i => (d.coreAt (128 * k.val + i)).isIdle).map fun i => 128 * k.val + i

/-- The first cluster of a list that has an idle core. -/
def Dev.idleCluster (d : Dev) (ks : List (Fin 32)) : Option (Fin 32) := ks.find? fun k => (d.idleCore k).isSome

-- Starting a task (R356).

/-- A core at the start of a task: ENTRY, user level, IE and CONS set, and the hand-over in s1 to s3; its ports hold no element that an earlier
task left (R314; log 24). -/
def Core.startTask (x : Core) (g : BitVec 8) (t : Task) : Core :=
  { (((x.writeS g 1 t.work.args).writeS g 2 t.work.anchor).writeS g 3 (zext t.work.kid)) with
    pc := t.work.entry, run := .running, task := some t, stall := 0
    status := { x.status with pl := .user, ie := true, cons := true }
    port := x.port.map fun p => { p with done := [] } }

/-- The current core starts on a piece. -/
def Dev.begin (d : Dev) (p : Piece) : Dev :=
  { d with
    core := d.core.startTask d.gen { piece := d.nextPiece, work := p.work }
    pieces := d.pieces.set d.nextPiece p
    nextPiece := d.nextPiece + 1 }

/-- A core starts on a piece. -/
def Dev.beginOn (d : Dev) (core : Nat) (p : Piece) : Dev := d.onCore core fun e => e.begin p

/-- A piece that holds no interval: a CORE task or a point (R361, R377). -/
def plainPiece (w : Work) : Piece := { work := w, cur := 0, hi := 0 }

/-- A cluster has received work of a launch, so that it and its die have again to report (R363). -/
def Launch.receive (l : Launch) (k : Nat) : Launch :=
  { l with
    clusters := setInsert k l.clusters
    reported := l.reported.filter fun c => decide (c ≠ k)
    dies := l.dies.filter fun x => decide (x ≠ k / 8) }

def Dev.receiveWork (d : Dev) (w : Work) (k : Nat) : Dev :=
  let q := d.queueAt w.queue
  match q.findLaunch w.seq with
  | none => d
  | some l => d.setQueue w.queue (q.setLaunch (l.receive k))

/-- A packet sent by a cluster's part of the dispatcher, in its colour (R331). -/
def Dev.sendOff (d : Dev) (k : Fin 32) (p : Packet) : Dev :=
  let c := d.clusters[k]
  { d.setCluster k { c with ends := c.ends.send 1 } with
    packets := d.packets.set d.nextPacket { p with colour := c.ends.colour }
    nextPacket := d.nextPacket + 1 }

/-- A piece of a launch that starts is sent to a cluster, which counts it from then on; its target's part counts it as sent (R331, R355,
R363; log 15). -/
def Dev.sendPiece (d : Dev) (k : Fin 32) (p : Piece) : Dev :=
  (d.receiveWork p.work k.val).sendOff k
    { colour := false, owner := (d.queueAt p.work.queue).owner, cluster := k.val, queue := p.work.queue, seq := p.work.seq
      body := .piece p k.val }

/-- A piece goes to the lowest-numbered idle core of a cluster, or waits there (R355). -/
def Dev.givePiece (d : Dev) (k : Fin 32) (p : Piece) : Dev :=
  let e := d.receiveWork p.work k.val
  match e.idleCore k with
  | some c => e.beginOn c p
  | none => e.setCluster k { e.clusters[k] with pending := e.clusters[k].pending ++ [p] }

/-- The work of a launch's pieces and points. -/
def Launch.work (l : Launch) (q : Nat) (kind : TaskKind) : Work :=
  { queue := q, seq := l.seq, kind := kind, kid := recKid l.record, entry := l.kernel[0], uses := l.kernel[1]
    args := l.record[2], anchor := l.record[3], lo := l.record[4].toNat, hi := l.record[5].toNat, grain := recGrain l.record }

/-- The die of a placement. -/
def Placement.dieOf : Placement → Nat
  | .die n => n
  | .cluster n => n / 8

-- The frontier (R377 to R381).

def Frontier.row (f : Frontier) (r : Nat) : Nat × BitVec 64 := f.rows.get (0, 0) r

/-- Done (R378). -/
def Frontier.isDone (f : Frontier) (r c : Nat) : Bool :=
  let x := f.row r
  decide (r < f.row0) || decide (c < x.1) || (decide (x.1 < c) && bit x.2 (c - x.1 - 1))

/-- The ones at the low end of a bitmap of 64; n bounds them. -/
def trailingOnes (x : BitVec 64) : Nat → Nat → Nat
  | 0, i => i
  | n + 1, i => if bit x i then trailingOnes x n (i + 1) else i

/-- A row with one more complete column (R380). -/
def completeColumn (x : Nat × BitVec 64) (c : Nat) : Nat × BitVec 64 :=
  if c = x.1 then
    let t := trailingOnes x.2 64 0
    (x.1 + t + 1, x.2 >>> (t + 1))
  else if x.1 < c then (x.1, x.2 ||| (1#64 <<< (c - x.1 - 1)))
  else x

/-- A point completes (R380). -/
def Frontier.complete (f : Frontier) (rec : Vector Word 8) (x0 x1 x2 : Nat) : Frontier :=
  let r := x0 * recE1 rec + x1
  let f1 := { f with rows := f.rows.set r (completeColumn (f.row r) x2)
                     inFlight := f.inFlight.filter fun p => decide (p ≠ (x0, x1, x2)) }
  Frontier.settle (recE2 rec) (recRows rec) (f1.rows.length + 1) f1

/-- Boundary (R381): before is the previous launch of the queue while it has not completed. -/
def boundary (rec : Vector Word 8) (before : Option Launch) (p0 p1 p2 : Int) : Bool :=
  if recChained rec && decide (p0 < 0) && decide (0 ≤ p1) && decide (p1 < recE1 rec) && decide (0 ≤ p2) && decide (p2 < recE2 rec) then
    match before with
    | none => true
    | some a =>
      let q0 := p0 + recE0 a.record
      decide (q0 < 0) || a.frontier.isDone (q0.toNat * recE1 a.record + p1.toNat) p2.toNat
  else true

/-- The predecessor of a point along a vector is complete or satisfied (R379). -/
def predecessorOk (rec : Vector Word 8) (f : Frontier) (before : Option Launch) (x0 x1 x2 : Nat) (v : Int × Int × Int) : Bool :=
  let p0 : Int := x0 - v.1
  let p1 : Int := x1 - v.2.1
  let p2 : Int := x2 - v.2.2
  if 0 ≤ p0 ∧ p0 < recE0 rec ∧ 0 ≤ p1 ∧ p1 < recE1 rec ∧ 0 ≤ p2 ∧ p2 < recE2 rec then
    f.isDone (p0.toNat * recE1 rec + p1.toNat) p2.toNat
  else boundary rec before p0 p1 p2

/-- Fireable (R379) of a point of the space. -/
def Launch.fireable (l : Launch) (before : Option Launch) (x0 x1 x2 : Nat) : Bool :=
  let r := x0 * recE1 l.record + x1
  let f := l.frontier
  decide (x0 < recE0 l.record) && decide (x1 < recE1 l.record) && decide (x2 < recE2 l.record)
    && !f.isDone r x2 && !f.inFlight.contains (x0, x1, x2)
    && decide (r < f.row0 + Config.bandRows) && decide (x2 ≤ (f.row r).1 + 64)
    && (recVecs l.record).all (predecessorOk l.record f before x0 x1 x2)

/-- Every point of a frontier launch is complete, or none is ever fired again (R364, R380). -/
def Queue.spaceDone (q : Queue) (l : Launch) : Bool :=
  !recFrontier l.record || (l.frontier.inFlight.isEmpty && (q.abort || decide (recRows l.record ≤ l.frontier.row0)))

/-- The previous launch of a queue, while it is pending. -/
def Queue.before (q : Queue) (seq : Nat) : Option Launch := if seq = 0 then none else q.findLaunch (seq - 1)

/-- The started, incomplete FRONTIER launches of a queue, in sequence order (R391). -/
def Queue.liveFrontiers (x : Queue) : List Launch := x.pending.filter fun l => l.started && recFrontier l.record

-- Taking work (R354, R356, R358, R362).

/-- Work may run beside the tasks that have yielded the current core (R362). -/
def Dev.fits (d : Dev) (w : Work) : Bool := d.core.yielded.all fun y => usesDisjoint y.task.work.uses w.uses

/-- The granule of a yielded task is full. -/
def Dev.ready (d : Dev) (y : Yielded) : Bool := d.core.pad.isFull d.gen y.granule

/-- A yielded task resumes: its registers, and the elements kept for it; those that an ended task left are gone (R314, R362; log 24). -/
def Core.resume (x : Core) (y : Yielded) (rest : List Yielded) : Core :=
  { x with
    pc := y.pc, run := .running, task := some y.task, stall := 0, status := y.status
    s := y.s, v := y.v, p := y.p, desc := y.desc, stream := y.stream, fflags := y.fflags, frst := y.frst, yielded := rest
    port := Vector.ofFn fun i : Fin 4 => { x.port[i] with done := y.kept[i] } }

def Dev.takeYielded (d : Dev) : Option Dev :=
  (d.core.yielded.find? d.ready).map fun y =>
    { d with core := d.core.resume y (d.core.yielded.erase y) }

/-- A CORE task spawned to this core by name, in the order of arrival. -/
def Dev.takeNamed (d : Dev) : Option Dev :=
  (d.core.named.find? d.fits).map fun w =>
    { d with core := { d.core with inbox := d.core.inbox.erase (.task w) } }.begin (plainPiece w)

/-- The queues of the highest priority among some, ascending. -/
def Dev.topQueues (d : Dev) (qs : List Nat) : List Nat :=
  let best := (qs.map fun q => (d.queueAt q).prio).foldl max 0
  (qs.filter fun q => decide ((d.queueAt q).prio = best)).foldl (fun l q => setInsert q l) []

/-- The queue that a cluster part serves next for its owner: one draw of class 7 where several of the highest priority are ready (R354). -/
def Dev.pickQueue (d : Dev) (k : Fin 32) (qs : List Nat) : Option (Nat × Dev) :=
  match d.topQueues qs with
  | [] => none
  | [q] => some (q, d)
  | q :: t =>
    let o := d.clusters[k].owner
    let r := (d.ownerAt o).drawArb 7 k.val
    some ((q :: t).getD (r.1.toNat * (q :: t).length / 2 ^ 32) q, d.setOwner o r.2)

/-- The pending piece of a queue that the current core may take is taken. -/
def Dev.takeFrom (d : Dev) (q : Nat) : Option Dev :=
  let k := d.cluster
  (d.clusters[k].pending.find? fun p => decide (p.work.queue = q) && d.fits p.work).map fun p =>
    (d.setCluster k { d.clusters[k] with pending := d.clusters[k].pending.erase p }).begin p

-- Firing a point (R354, R377, R379, R396).

/-- The core to which a point of a launch on a die goes: the lowest idle core of the lowest of the owner's clusters there that has one; a
core that asks for work counts as idle. -/
def Dev.pointCore (d : Dev) (o die : Nat) (asks : Option Nat) : Option Nat :=
  ((d.dieClusters o die).flatMap fun k => (List.range Config.coresPerCluster).map fun i => 128 * k.val + i).find? fun c =>
    decide (asks = some c) || (d.coreAt c).isIdle

/-- The first fireable point of a launch in row order. -/
def Launch.nextPoint (l : Launch) (before : Option Launch) : Option (Nat × Nat × Nat) :=
  let f := l.frontier
  (List.range (min Config.bandRows (recRows l.record - f.row0))).findSome? fun i =>
    let r := f.row0 + i
    (List.range 65).findSome? fun j =>
      let x := (r / recE1 l.record, r % recE1 l.record, (f.row r).1 + j)
      if l.fireable before x.1 x.2.1 x.2.2 then some x else none

/-- A task packet that passes from one cluster part to another within the step that sends it: it is counted as sent and as received
(R331; log 15). -/
def Dev.passes (d : Dev) (a b : Fin 32) : Dev :=
  let x := d.clusters[a].ends
  let e := d.setCluster a { d.clusters[a] with ends := x.send 1 }
  e.setCluster b { e.clusters[b] with ends := e.clusters[b].ends.receive x.colour 1 }

/-- The current core starts on a point of a launch, which is in flight from then on (R377, R379). -/
def Dev.firePoint (d : Dev) (q : Nat) (l : Launch) (x0 x1 x2 : Nat) : Dev :=
  let f := { l.frontier with inFlight := l.frontier.inFlight ++ [(x0, x1, x2)] }
  let e := (((d.ask 7 d.cluster.val d.owner).passes d.cluster d.cluster).event d.owner 0x0D)
  (e.setQueue q ((e.queueAt q).setLaunch ({ l with frontier := f }.receive d.cluster.val))).begin (plainPiece (l.work q (.point x0 x1 x2)))

/-- The points that the galley offers to the current core, one of each live launch of the owner on its die, while the core is the one to
which a point goes (R377). -/
def Dev.offers (d : Dev) : List (Nat × Launch × Nat × Nat × Nat) :=
  let o := d.owner
  let die := d.cluster.val / 8
  if d.firesNone o || decide (d.pointCore o die (some d.core.id) ≠ some d.core.id) then []
  else
    d.queues.flatMap fun q =>
      if q.2.boundTo o && !q.2.abort then
        (q.2.liveFrontiers.filter fun l => decide (l.place.dieOf = die) && d.fits (l.work q.1 .range)).filterMap fun l =>
          (l.nextPoint (q.2.before l.seq)).map fun x => (q.1, l, x)
      else []

/-- Queues with pending work of the current core's cluster that it may take. -/
def Dev.readyQueues (d : Dev) : List Nat := (d.clusters[d.cluster].pending.filter fun p => d.fits p.work).map fun p => p.work.queue

/-- The work of a queue that the part has picked: pending work, or else the point that the galley offers. -/
def Dev.serve (d : Dev) (os : List (Nat × Launch × Nat × Nat × Nat)) (q : Nat) : Option Dev :=
  d.takeFrom q <|> ((os.find? fun x => decide (x.1 = q)).map fun x => d.firePoint x.1 x.2.1 x.2.2.1 x.2.2.2.1 x.2.2.2.2)

/-- Pending work of the cluster or a point is taken, of the queue that the part picks (R354, R377). -/
def Dev.takePending (d : Dev) : Option Dev :=
  let os := d.offers
  match d.pickQueue d.cluster (d.readyQueues ++ os.map (·.1)) with
  | none => none
  | some r => r.2.serve os r.1

/-- A holder whose piece can be split: its core, the piece's number, the piece, and where it is split (R358). -/
structure Victim where
  core : Nat
  id : Nat
  piece : Piece
  mid : Nat
  deriving DecidableEq, Repr

/-- mid of R358. -/
def splitPoint (p : Piece) : Nat :=
  let m := p.cur + ceilDiv' (p.hi - p.cur) 2
  p.work.lo + (m - p.work.lo) / p.work.grain * p.work.grain

def Dev.victim (d : Dev) (core : Nat) (t : Task) : Option Victim :=
  match d.pieces.find t.piece with
  | none => none
  | some p =>
    let mid := splitPoint p
    if p.work.kind = .range ∧ (d.queueAt p.work.queue).abort = false ∧ p.cur < mid ∧ mid < p.hi ∧ d.fits p.work = true then
      some { core := core, id := t.piece, piece := p, mid := mid }
    else none

/-- The tasks that a core holds, running or yielded. -/
def Core.tasks (c : Core) : List Task := c.task.toList ++ c.yielded.map (·.task)

/-- The better of two victims: more iterations left, then the lower core. -/
def Victim.better (a b : Victim) : Victim :=
  let left (v : Victim) : Nat := v.piece.hi - v.piece.cur
  if left a < left b ∨ (left a = left b ∧ b.core < a.core) then b else a

/-- The victim of a steal in one cluster. -/
def Dev.victimIn (d : Dev) (k : Fin 32) : Option Victim :=
  (d.cores.filter fun c => decide (clusterIx c.id = k) && decide (c.id ≠ d.core.id)).foldl
    (fun best c => (c.tasks.filterMap (d.victim c.id)).foldl
      (fun b v => match b with | none => some v | some x => some (x.better v)) best) none

/-- What a steal takes from another cluster comes as a task packet (R331, R354). -/
def Dev.fetchPiece (d : Dev) (k : Fin 32) : Dev := if k = d.cluster then d else (d.ask 7 d.cluster.val d.owner).passes k d.cluster

/-- A steal (R358): in the own cluster, else in the owner's others of the die. -/
def Dev.steal (d : Dev) : Option Dev :=
  let ks := d.cluster :: (d.dieClusters d.owner (d.cluster.val / 8)).filter fun k => decide (k ≠ d.cluster)
  (ks.findSome? d.victimIn).map fun v =>
    ((({ d with pieces := d.pieces.set v.id { v.piece with hi := v.mid } }.event d.owner 0x0E).fetchPiece (clusterIx v.core)).receiveWork
      v.piece.work d.cluster.val).begin { v.piece with cur := v.mid }

/-- The current core, which is free, takes work in the order of R356. -/
def Dev.takeWork (d : Dev) : Option Dev :=
  (d.takeYielded <|> d.takeNamed) <|> (d.takePending <|> d.steal)

-- Launches (R351, R353, R355).

/-- Where an anchor places a launch or a task of the current core (R355, R361). -/
def Dev.anchorPlace (d : Dev) (anchor : Word) (p : Place) : Placement :=
  if anchor = 0 then .die (d.cluster.val / 8)
  else
    match p with
    | .home e pa => if pteRmt e then .die (d.cluster.val / 8) else .die (homeStack pa / 2)
    | .pad _ _ _ => .cluster d.cluster.val
    | .unit _ => .cluster d.cluster.val
    | .held => .die (d.cluster.val / 8)

/-- The pieces of a range over c clusters (R355), each with the index of its cluster; empty ones are dropped. -/
def rangePieces (lo hi grain c : Nat) : List (Nat × Nat × Nat) :=
  let b (i : Nat) : Nat := min hi (lo + i * ceilDiv' (hi - lo) grain / c * grain)
  ((List.range c).map fun i => (i, b i, b (i + 1))).filter fun x => decide (x.2.1 < x.2.2)

/-- The started frontier launches that a die's galley holds (R384); those of an owner whose state is saved are in its context (R388). -/
def Dev.galleyCount (d : Dev) (die : Nat) : Nat :=
  ((d.queues.filter fun q => (d.contexts.find q.2.owner).isNone).map fun q =>
    (q.2.liveFrontiers.filter fun l => decide (l.place.dieOf = die)).length).sum

/-- A function that has reported and is not retired (R19, R422). -/
def Dev.inService (d : Dev) (u : DevUnit) : Bool := !d.isOut u && !d.host.unreported.contains u

/-- Where a launch starts: its placement as the owner's clusters stand; a chained launch is placed where its predecessor, the launch of
the queue that started last, was (R355, R382). -/
def Dev.startPlace (d : Dev) (o : Nat) (l : Launch) (last : Option Placement) : Option Placement :=
  match if recChn l.record then last else none with
  | some p => some p
  | none =>
    match l.place with
    | .die n => (d.placeDie o n).map .die
    | .cluster n => if d.clusters[Fin.ofNat 32 n].owner = o then some (.cluster n) else (d.placeDie o (n / 8)).map .die

/-- The pieces of a RANGE launch sent to its clusters (R355). -/
def Dev.sendPieces (d : Dev) (q : Nat) (l : Launch) (ks : List (Fin 32)) : Dev :=
  (rangePieces l.record[4].toNat l.record[5].toNat (recGrain l.record) ks.length).foldl
    (fun e x => e.sendPiece (ks.getD x.1 0) { work := l.work q .range, cur := x.2.1, hi := x.2.2 }) d

/-- The clusters of a placement. -/
def Dev.placeClusters (d : Dev) (o : Nat) : Placement → List (Fin 32)
  | .die n => d.dieClusters o n
  | .cluster n => [Fin.ofNat 32 n]

-- Counts and completion (R352, R363, R364).

/-- The packets on their way, and those that a router has captured for a save (R332). -/
def Dev.flying (d : Dev) : List Packet := d.packets.map (·.2) ++ d.stops.flatMap fun t => t.2.packets.map (·.2)

/-- What still counts at a cluster for a launch. -/
def Dev.workCount (d : Dev) (q seq k : Nat) : Nat :=
  let mine (w : Work) : Bool := decide (w.queue = q) && decide (w.seq = seq)
  ((d.cores.filter fun c => decide ((clusterIx c.id).val = k)).map fun c =>
    (c.tasks.filter fun t => mine t.work).length + (c.named.filter mine).length + (c.spilled.filter mine).length).sum
  + (d.clusters[Fin.ofNat 32 k].pending.filter fun p => mine p.work).length
  + (d.flying.filter fun p => decide (p.queue = q) && decide (p.seq = seq) && decide (p.cluster = k)).length

/-- CLUSTER_REPORT. -/
def Dev.clusterReport (d : Dev) (q seq k : Nat) : Dev :=
  let x := d.queueAt q
  match x.findLaunch seq with
  | none => d
  | some l =>
    if l.started && l.clusters.contains k && !l.reported.contains k && decide (d.workCount q seq k = 0) && !d.frozen x.owner then
      d.setQueue q (x.setLaunch { l with reported := setInsert k l.reported })
    else d

/-- A packet is in flight to or from a die; a reduction on its way may be for any. -/
def Packet.touches (p : Packet) (die : Nat) : Bool :=
  decide (p.cluster / 8 = die) ||
    match p.body with
    | .core _ k _ => decide (k / 8 = die)
    | .piece _ k => decide (k / 8 = die)
    | .memred _ _ => true

/-- DIE_REPORT. -/
def Dev.dieReport (d : Dev) (q seq die : Nat) : Dev :=
  let x := d.queueAt q
  match x.findLaunch seq with
  | none => d
  | some l =>
    let mine := l.clusters.filter fun k => decide (k / 8 = die)
    if l.started && !mine.isEmpty && !l.dies.contains die && (mine.all fun k => l.reported.contains k) && !d.frozen x.owner
        && !(d.flying.any fun p => decide (p.queue = q) && decide (p.seq = seq) && p.touches die) then
      d.setQueue q (x.setLaunch { l with dies := setInsert die l.dies })
    else d

/-- Every die that received work has reported. -/
def Launch.allReported (l : Launch) : Bool := l.clusters.all fun k => l.reported.contains k && l.dies.contains (k / 8)

/-- An orphaned write of a launch is still held (R177). -/
def Dev.orphanOf (d : Dev) (q seq : Nat) : Bool :=
  d.clusters.toList.any fun c => c.orphans.any fun o => decide (o.kid.launch = some (q, seq))

/-- A store of the dispatcher or of a galley to device memory of an owner. None while the page is migrating; one that the page does
not accept is dropped (log 17). -/
def Dev.dispatchStore (d : Dev) (o : Nat) (va : Word) (bs : List Byte) : Option Dev :=
  let w := d.tablesRead o va
  match w.walk o va with
  | .fails _ => some w
  | .leaf e _ =>
    if pteMig e then none
    else if !pteW e || pteSl e || pteDec e || remoteRefuses e || inLocalRange va then some w
    else some ((w.atHome (leafDev e) (leafPa e va) (grainBytes e) o (some (leafPa e va, bs.length)) none).homeUpdate (leafDev e) none (leafPa e va) bs)

/-- The completion word (R352). -/
def completionWord (seq : Nat) (status : BitVec 8) : Word := BitVec.ofNat 48 seq ++ 0#8 ++ status

/-- STATUS of a launch that completes (R352, R363). -/
def Dev.completionStatus (d : Dev) (q : Nat) (x : Queue) (seq : Nat) : BitVec 8 :=
  if x.abort then 2 else if (d.ownerAt x.owner).lost.contains (q, seq) then 1 else 0

/-- A queue after its oldest launch has completed (R364). -/
def Queue.afterCompletion (x : Queue) : Queue :=
  let rest := x.pending.tail
  { x with pending := rest, state := if rest.isEmpty && decide (x.state = .closing) then .closed else x.state }

/-- The oldest launch of a queue completes: the release, the completion word, and what follows for the queue (R352, R364, R365).
None while the word's page is migrating. -/
def Dev.completeOldest (d : Dev) (q seq : Nat) : Option Dev :=
  let x := d.queueAt q
  let status := d.completionStatus q x seq
  let d1 := (d.clustersOf x.owner).foldl (fun e k => e.awaitAcks k .dev) d
  (d1.dispatchStore x.owner x.word (leBytes 8 (completionWord seq status).toNat)).map fun d2 =>
    let o := d2.ownerAt x.owner
    ((d2.setOwner x.owner { o with lost := o.lost.erase (q, seq) }).setQueue q x.afterCompletion).retryUnmaps

/-- The oldest launch of a queue can complete (R352, R363, R364, R391). -/
def Dev.canComplete (d : Dev) (q : Nat) (x : Queue) (l : Launch) : Bool :=
  !d.frozen x.owner && !d.orphanOf q l.seq
    && (if l.started then l.allReported && x.spaceDone l && (!recFrontier l.record || x.cut.isNone || x.cutDone) else x.abort)

/-- LAUNCH_COMPLETION. -/
def Dev.launchCompletion (d : Dev) (q seq : Nat) : Dev :=
  let x := d.queueAt q
  match x.pending with
  | [] => d
  | l :: _ => if l.seq = seq ∧ d.canComplete q x l = true then (d.completeOldest q seq).getD d else d

/-- The start of a launch is a request at the part of the first cluster of its placement (R201, R354; DESIGN CHOICE, log 19). -/
def Dev.askStart (d : Dev) (o : Nat) (p : Placement) : Dev :=
  match d.placeClusters o p with
  | [] => d
  | k :: _ => d.ask 7 k.val o

/-- LAUNCH_START (R353, R355, R364, R382, R384). -/
def Dev.launchStart (d : Dev) (q seq : Nat) : Dev :=
  let x := d.queueAt q
  match x.findLaunch seq with
  | none => d
  | some l =>
    let first := decide (x.pending.head?.map (·.seq) = some seq)
    let before := if first then none else x.before seq
    let mayStart := first || (recChn l.record && before.any fun a => a.started)
    if l.started || x.abort || d.frozen x.owner || !mayStart then d
    else
      match d.startPlace x.owner l x.lastPlace with
      | none => d
      | some place =>
        let y := { x.setLaunch { l with started := true, place := place } with lastPlace := some place }
        if recFrontier l.record then
          if d.galleyCount place.dieOf < Config.galleyLaunches ∧ d.inService (.galley place.dieOf) = true then
            (d.askStart x.owner place).setQueue q y
          else d
        else
          let d1 := (d.askStart x.owner place).setQueue q y
          if l.record[4] = l.record[5] then d1.launchCompletion q seq else d1.sendPieces q l (d1.placeClusters x.owner place)

-- Closing (R364, R391).

/-- Pending pieces and unstarted spawns of a queue discarded (R364); a packet on its way is discarded where it arrives. -/
def Dev.discardWork (d : Dev) (q : Nat) : Dev :=
  let keep (w : Work) : Bool := decide (w.queue ≠ q)
  let quit (c : Core) : Core := { c with inbox := c.inbox.filter fun x => x.work?.all keep, spilled := c.spilled.filter keep }
  { d with
    core := quit d.core
    others := d.others.map fun x => (x.1, quit x.2)
    clusters := d.clusters.map fun c => { c with pending := c.pending.filter fun p => keep p.work } }

/-- TCLOSE of a queue in a mode (R364): abort may be raised, never taken back. -/
def Dev.closeQueue (d : Dev) (q : Nat) (abort : Bool) : Dev :=
  let x := d.queueAt q
  let state := if x.state = QueueState.opened then QueueState.closing else x.state
  let y := { x with abort := x.abort || abort, state := if x.pending.isEmpty && decide (state = QueueState.closing) then QueueState.closed else state }
  ((if y.abort then d.discardWork q else d).setQueue q y).retryUnmaps

/-- The doublewords of a frontier record in its normal form (R385). -/
def Launch.recordWords (l : Launch) : List Word :=
  let f := l.frontier
  let r := l.record
  let last := f.rows.foldl (fun m x => if x.2 ≠ (0, 0) ∧ f.row0 ≤ x.1 then max m (x.1 + 1) else m) f.row0
  let n := if f.row0 = recRows r then 0 else last - f.row0
  [BitVec.ofNat 64 f.row0, recKid r ++ 0#19 ++ BitVec.ofNat 13 n, r[4], r[5], 0, 0, 0, 0]
    ++ (List.range n).flatMap fun k => [BitVec.ofNat 64 (f.row (f.row0 + k)).1, (f.row (f.row0 + k)).2]

/-- Doublewords stored by the galley from an address. -/
def Dev.writeWords (d : Dev) (o : Nat) : Word → List Word → Option Dev
  | _, [] => some d
  | a, x :: t => (d.dispatchStore o a (leBytes 8 x.toNat)).bind fun e => e.writeWords o (a + 8) t

/-- Records written one after another, each at a multiple of 64. -/
def Dev.writeRecords (d : Dev) (o : Nat) : Word → List Launch → Option Dev
  | _, [] => some d
  | a, l :: t =>
    (d.writeWords o a l.recordWords).bind fun e => e.writeRecords o (a + BitVec.ofNat 64 (ceilDiv' (8 * l.recordWords.length) 64 * 64)) t

/-- The records of a cut queue are written once no point of it is in flight (R391). -/
def Dev.writeCut (d : Dev) (q : Nat) : Dev :=
  let x := d.queueAt q
  match x.cut with
  | none => d
  | some a =>
    if x.cutDone || x.liveFrontiers.any (fun l => !l.frontier.inFlight.isEmpty) then d
    else
      match d.writeRecords x.owner a x.liveFrontiers with
      | none => d
      | some e => e.setQueue q { x with cutCount := x.liveFrontiers.length, cutDone := true }

/-- Nothing of a launch counts anywhere. -/
def Dev.quiet (d : Dev) (q seq : Nat) : Bool := (List.range 32).all fun k => decide (d.workCount q seq k = 0)

/-- The started frontier launches of a cut queue complete in order, n at most, each once nothing of it counts anywhere (R391). -/
def Dev.completeCut (d : Dev) (q : Nat) : Nat → Dev
  | 0 => d
  | n + 1 =>
    match (d.queueAt q).pending with
    | [] => d
    | l :: _ =>
      if l.started && d.quiet q l.seq && !d.orphanOf q l.seq then
        match d.completeOldest q l.seq with
        | none => d
        | some e => e.completeCut q n
      else d

/-- What the galley does by itself for a queue that has been cut (R391). -/
def Dev.finishCut (d : Dev) (q : Nat) : Dev :=
  let e := d.writeCut q
  if (e.queueAt q).cutDone then e.completeCut q (e.queueAt q).liveFrontiers.length else e

/-- LAUNCH_COMPLETION; of a cut queue the galley first writes the records that it could not write before (R391). -/
def Dev.completionStep (d : Dev) (q seq : Nat) : Dev :=
  let x := d.queueAt q
  (if x.cut.isSome && !x.cutDone && !d.frozen x.owner then d.finishCut q else d).launchCompletion q seq

end Sys2Proof.Machine
end

