-- ==== Sys2Proof/Machine/Tasks.lean ====
section
/-! DEFINITION. The TASK instructions and the steps of the dispatcher (R351 to R364, R367). -/
namespace Sys2Proof.Machine

/-- An instruction that needs a running task (R367). -/
def Dev.withTask (d : Dev) (k : Task → Act) : Act :=
  match d.core.task with
  | none => d.taskTrap 0 6
  | some t => k t

-- LAUNCH (R351).

/-- The anchor of a record checked as a load of one byte; what follows takes the placement. -/
def Dev.checkAnchor (d : Dev) (anchor : Word) : Except Stop Placement :=
  if anchor = 0 then .ok (d.anchorPlace 0 .held)
  else
    match d.placeAny d.core.status.pl .load anchor 1 false with
    | .error e => .error e
    | .ok .held => .error (d.queued anchor)
    | .ok p => .ok (d.anchorPlace anchor p)

/-- A launch appended to its queue (R351). -/
def Dev.appendTo (d : Dev) (q : Nat) (addr : Word) (r : Vector Word 8) (k : Vector Word 4) (p : Placement) (f : Frontier) : Dev :=
  let x := d.queueAt q
  let l : Launch :=
    { seq := x.nextSeq, addr := addr, record := r, kernel := k, place := p, started := false, clusters := [], reported := [], dies := []
      frontier := f }
  d.setQueue q { x with nextSeq := x.nextSeq + 1, last := some (addr, r), pending := x.pending ++ [l] }

/-- The store of the NEXT field of the record that a queue appended last (R351). It is dropped where its address no longer accepts a store, and
LAUNCH waits where the store has to (log 17). -/
def Dev.storeNext (d : Dev) (q : Nat) (addr : Word) : Act :=
  match (d.queueAt q).last with
  | none => .ok d
  | some b =>
    let w := d.walked (b.1 + 56)
    match w.store d.core.status.pl (b.1 + 56) (leBytes 8 addr.toNat) false with
    | .ok e => .ok e
    | .error (.trap _) | .error (.walkedTrap _ _) => .ok w
    | .error (.wait r) => .error (.left w r)
    | .error (.left e r) => .error (.left e r)

/-- A launch appended, and the NEXT field of the record before it stored (R351). -/
def Dev.appendLaunch (d : Dev) (q : Nat) (addr : Word) (r : Vector Word 8) (k : Vector Word 4) (p : Placement) (f : Frontier) : Act :=
  (d.storeNext q addr).map fun e => e.appendTo q addr r k p f

/-- A launch that passed its checks: the release, and a place in the queue (R351). -/
def Dev.enqueueLaunch (d : Dev) (rd : SReg) (q : Nat) (a : Word) (r : Vector Word 8) (k : Vector Word 4) (p : Placement) (f : Frontier) : Act :=
  let x := d.queueAt q
  if x.state ≠ .opened then d.taskTrap a 2
  else
    match d.release .dev with
    | .error s => .error s
    | .ok e =>
      if Config.launchDepth ≤ x.pending.length then .ok (e.wr rd 0).advance
      else (e.appendLaunch q a r k p f).map fun e1 => (e1.wr rd (BitVec.ofNat 64 x.nextSeq)).advance

/-- The checks of LAUNCH from the kernel descriptor on. -/
def Dev.launchRecord (d : Dev) (rd : SReg) (q : Nat) (a : Word) (r : Vector Word 8) : Act :=
  match d.readKernel a r[1] with
  | .error e => .error e
  | .ok k =>
    match k.2.checkAnchor r[3] with
    | .error e => .error e
    | .ok p =>
      match k.2.startFrontier r with
      | .error e => .error e
      | .ok f => f.2.enqueueLaunch rd q a r k.1 p f.1

def Dev.doLaunch (d : Dev) (rd ra : SReg) (q : Nat) : Act :=
  let a := d.rd ra
  let x := d.queueAt q
  if !x.boundTo d.owner then d.taskTrap 0 1
  else if a.toNat % 64 ≠ 0 then d.taskTrap a 3
  else
    match d.readWhole a 64 with
    | .error e => .error e
    | .ok b =>
      let r := wordsOf 8 b.1
      if recordOk (x.last.map (·.2)) r then b.2.launchRecord rd q a r else d.taskTrap a 4

def execLaunch (rd ra : SReg) (q : BitVec 10) (s : State) : Result State := finish s (s.d.doLaunch rd ra q.toNat)

-- TSPAWN (R360, R361).

/-- A packet sent within the launch of a task: a coloured message of the cluster's part (R331, R361, R363). -/
def Dev.sendPacket (d : Dev) (w : Work) (b : PacketBody) : Dev :=
  d.sendOff d.cluster { colour := false, owner := d.owner, cluster := d.cluster.val, queue := w.queue, seq := w.seq, body := b }

/-- The core that an anchor in the window names: CORE 127 is the spawner itself (R361). -/
def Dev.namedCore (d : Dev) (anchor : Word) : Nat :=
  if winCore anchor = 127 then d.core.id else 128 * d.cluster.val + winCore anchor

/-- The cluster to which a CORE task with an anchor in device memory goes (R361): of the chosen die the lowest with an idle core, else
the lowest. No access is checked. An anchor that does not translate is placed as ANCHOR = 0 places a launch (log 17). -/
def Dev.spawnCluster (d : Dev) (anchor : Word) : Nat :=
  let die :=
    if !canonical anchor then d.cluster.val / 8
    else
      match d.leafFor d.cluster d.owner anchor with
      | .leaf e _ => (d.anchorPlace anchor (.home e (leafPa e anchor))).dieOf
      | .fails _ => d.cluster.val / 8
  let ks := d.dieClusters d.owner ((d.placeDie d.owner die).getD die)
  ((d.idleCluster ks).getD (ks.headD d.cluster)).val

/-- The cluster and, where it is named, the core of a CORE task (R361). -/
def Dev.spawnTarget (d : Dev) (anchor : Word) : Nat × Option Nat :=
  if anchor = 0 then (d.cluster.val, none)
  else if inWindow anchor then (d.cluster.val, some (d.namedCore anchor))
  else (d.spawnCluster anchor, none)

/-- An anchor that a CORE packet may not have (R361). -/
def refusedAnchor (x : Word) : Bool := inLocalRange x && (!inWindow x || (decide (96 ≤ winCore x) && decide (winCore x ≠ 127)))

/-- A CORE packet. In a queue closed in abort mode it is discarded after its checks (log 17). -/
def Dev.spawnCore (d : Dev) (t : Task) (a : Word) (p : Vector Word 4) : Act :=
  if refusedAnchor p[3] then d.taskTrap a 7
  else
    match d.readKernel a p[1] with
    | .error e => .error e
    | .ok k =>
      (k.2.release .dev).map fun e =>
        if (e.queueAt t.work.queue).abort then e.advance
        else
          let w : Work := { t.work with kind := .core, entry := k.1[0], uses := k.1[1], args := p[2], anchor := p[3] }
          let x := if inLocalRange p[3] || decide (p[3] = 0) then e else e.walked p[3]
          let target := x.spawnTarget p[3]
          (x.sendPacket w (.core w target.1 target.2)).advance

/-- A MEMRED packet: its anchor is checked as a RED of its type (R361). -/
def Dev.spawnRed (d : Dev) (t : Task) (p : Vector Word 4) (op : RedOp) (ty : Ty) : Act :=
  let lv := d.core.status.pl
  let anchor := p[3]
  match d.place lv .store anchor (ty.bits / 8) true with
  | .error e => .error e
  | .ok x =>
    if (match x with | .unit _ => true | .pad _ _ _ => false | .home _ _ => false | .held => false) then d.refuse anchor .store
    else if (match x with | .home e _ => pteDec e | .pad _ _ _ => false | .unit _ => false | .held => false) then d.cellTrap anchor 4
    else
      let va : Word :=
        if inWindow anchor then BitVec.ofNat 64 (clwBase + d.namedCore anchor % 128 * 2 ^ 21 + anchor.toNat % 2 ^ 21) else anchor
      let r : RedRequest := { pa := 0, va := va, op := op, ty := ty, arr := false, value := p[1], owner := d.owner, kid := d.core.kid }
      (d.release .dev).map fun e => (e.sendPacket t.work (.memred lv r)).advance

def Dev.doTspawn (d : Dev) (ra : SReg) : Act :=
  d.withTask fun t =>
    let a := d.rd ra
    if a.toNat % 32 ≠ 0 then d.taskTrap a 3
    else
      match d.readWhole a 32 with
      | .error e => .error e
      | .ok b =>
        let p := wordsOf 4 b.1
        if !packetOk p then d.taskTrap a 7
        else
          match packetIsRed p, packetRed p with
          | true, some x => b.2.spawnRed t p x.1 x.2
          | true, none => d.taskTrap a 7
          | false, _ => b.2.spawnCore t a p

def execTspawn (ra : SReg) (s : State) : Result State := finish s (s.d.doTspawn ra)

-- TNEXT (R357).

/-- The chunk that a TNEXT claims of a piece: none where nothing is left, or where the queue was closed in abort mode (R364). -/
def Dev.nextChunk (d : Dev) (t : Task) : Option (Piece × Nat) :=
  match d.pieces.find t.piece with
  | none => none
  | some p =>
    if p.work.kind = .range ∧ p.cur < p.hi ∧ (d.queueAt p.work.queue).abort = false then some (p, min p.work.grain (p.hi - p.cur)) else none

def Dev.doTnext (d : Dev) (rd : SReg) : Act :=
  d.withTask fun t =>
    d.notInGang <|
      match d.nextChunk t with
      | none => .ok (d.wrPair rd 0).advance
      | some x =>
        .ok ({ d with pieces := d.pieces.set t.piece { x.1 with cur := x.1.cur + x.2 } }.wrPair rd
          (BitVec.ofNat 64 x.2 ++ BitVec.ofNat 64 x.1.cur)).advance

def execTnext (rd : SReg) (s : State) : Result State := finish s (s.d.doTnext rd)

-- TEND (R359, R377, R380).

/-- Cores that hold a piece, running or yielded (R371). -/
def Dev.holders (d : Dev) (piece : Nat) : Nat := (d.cores.map fun c => (c.tasks.filter fun t => decide (t.piece = piece)).length).sum

/-- What is left of a piece goes back as pending when its last holder ends (R359); in abort mode it is discarded (R364). -/
def Dev.returnRemainder (d : Dev) (t : Task) : Dev :=
  match d.pieces.find t.piece with
  | none => d
  | some p =>
    if p.cur < p.hi ∧ d.holders t.piece = 1 then
      let e := { d with pieces := d.pieces.set t.piece { p with hi := p.cur } }
      if (d.queueAt p.work.queue).abort then e
      else e.setCluster d.cluster { e.clusters[d.cluster] with pending := e.clusters[d.cluster].pending ++ [p] }
    else d

/-- The point of a task completes with its last holder's TEND (R377, R380). -/
def Dev.completePoint (d : Dev) (t : Task) : Dev :=
  match t.work.kind with
  | .range | .core => d
  | .point x0 x1 x2 =>
    let x := d.queueAt t.work.queue
    match x.findLaunch t.work.seq with
    | none => d
    | some l => d.setQueue t.work.queue (x.setLaunch { l with frontier := l.frontier.complete l.record x0 x1 x2 })

/-- The share of a task ends: with its last holder, the piece is gone and a point complete; the core runs no task, past its TEND. -/
def Dev.endShare (d : Dev) (t : Task) : Dev :=
  let e := if d.holders t.piece = 1 then { d.completePoint t with pieces := d.pieces.erase t.piece } else d
  ({ e with core := { e.core with task := none, run := .idle, pc := e.core.pc + 4 } }).finishCut t.work.queue

/-- Commands that the running task pushed and that have not ended. -/
def Core.commandsLeft (x : Core) : Bool := allPorts.any fun p => !(x.ownCommands p).isEmpty

def Dev.doTend (d : Dev) : Act :=
  d.withTask fun t =>
    d.notInGang <|
      let e := (d.returnRemainder t).runPorts
      if e.holdsAny e.core.id || e.core.commandsLeft then .ok { e with core := { e.core with stall := 0x4 } }
      else
        let f := (e.awaitAcks e.cluster .pod).endShare t
        .ok (f.takeWork.getD f)

def execTend (s : State) : Result State := finish s s.d.doTend

-- AWAIT (R362).

/-- The running task yields the core: what the yield saves, and the elements that have come for it (R314, R362). -/
def Dev.yieldTask (d : Dev) (t : Task) (granule : Nat) : Dev :=
  let c := d.core
  let y : Yielded :=
    { task := t, granule := granule, pc := c.pc + 4, status := c.status, s := c.s, v := c.v, p := c.p, desc := c.desc, stream := c.stream
      fflags := c.fflags, frst := c.frst, kept := c.port.map (·.done) }
  { d with core := { c with
      task := none, run := .idle, yielded := c.yielded ++ [y], port := c.port.map fun q => { q with done := [] } } }

def Dev.doAwait (d : Dev) (ra : SReg) : Act :=
  d.withTask fun t =>
    d.notInGang <|
      let gr := bits (d.rd ra) 17 4
      let waits : Dev := { d with core := { d.core with stall := 0xB, parked := true } }
      if d.core.pad.isFull d.gen gr then .ok ({ d with core := { d.core with parked := false } }).advance
      else if d.core.parked then .ok waits
      else if d.core.yielded.length < Config.yieldLimit then .ok ((d.yieldTask t gr).takeWork.getD waits)
      else .ok waits

def execAwait (ra : SReg) (s : State) : Result State := finish s (s.d.doAwait ra)

-- TINFO, TCLOSE and TQSTAT (R364, R367).

/-- LO, HI or GRAIN: a field of the launch where the task has an interval, else a free value (log 13). -/
def Dev.intervalField (d : Dev) (rd : SReg) (t : Task) (x : Nat) : Dev :=
  if t.work.kind = .range then d.wr rd (BitVec.ofNat 64 x)
  else { d.wr rd (Config.taskField d.draws) with draws := d.draws + 1 }

def Dev.doTinfo (d : Dev) (rd : SReg) (k : BitVec 3) : Act :=
  d.withTask fun t =>
    .ok (if k = 0 then d.wr rd (zext t.work.kid)
      else if k = 1 then d.wr rd t.work.args
      else if k = 2 then d.intervalField rd t t.work.lo
      else if k = 3 then d.intervalField rd t t.work.hi
      else if k = 4 then d.intervalField rd t t.work.grain
      else if k = 5 then d.wr rd (BitVec.ofNat 64 t.work.seq)
      else d.wr rd t.work.anchor).advance

def Dev.doTclose (d : Dev) (rd ra : SReg) (q : BitVec 10) : Act :=
  d.needSupervisor (encS 0x2A rd ra 6 q) <|
    let x := d.queueAt q.toNat
    if !x.boundTo d.owner then d.taskTrap 0 1
    else .ok ((d.closeQueue q.toNat (bit (d.rd ra) 0)).wr rd (BitVec.ofNat 64 (x.nextSeq - 1))).advance

def queueStateCode : QueueState → BitVec 2
  | .opened => 0 | .closing => 1 | .closed => 2 | .unbound => 3

/-- TQSTAT (R367): an unbound queue has no mode, no launches and no sequence number (log 17). -/
def Queue.status (x : Queue) : Word :=
  if x.state = .unbound then 3
  else BitVec.ofNat 48 x.nextSeq ++ BitVec.ofNat 8 x.pending.length ++ 0#5 ++ BitVec.ofBool x.abort ++ queueStateCode x.state

def Dev.doTqstat (d : Dev) (rd : SReg) (q : Nat) : Act :=
  let x := d.queueAt q
  if x.state ≠ .unbound ∧ x.owner ≠ d.owner then d.taskTrap 0 1 else .ok (d.wr rd x.status).advance

def execTinfo (rd : SReg) (k : BitVec 3) (s : State) : Result State := finish s (s.d.doTinfo rd k)
def execTclose (rd ra : SReg) (q : BitVec 10) (s : State) : Result State := finish s (s.d.doTclose rd ra q)
def execTqstat (rd : SReg) (q : BitVec 10) (s : State) : Result State := finish s (s.d.doTqstat rd q.toNat)

-- The steps of the dispatcher.

/-- A step of a core that is free. -/
def Dev.onFree (d : Dev) (core : Nat) (f : Dev → Option Dev) : Dev :=
  if coreExists core && (d.coreAt core).free && !d.clusters[clusterIx core].retired then d.onCore core fun e => (f e).getD e else d

def execLaunchStart (q : BitVec 10) (seq : Nat) (s : State) : Result State := .next (s.withDev (s.d.launchStart q.toNat seq))
def execTaskStart (core : Nat) (s : State) : Result State := .next (s.withDev (s.d.onFree core Dev.takeWork))
def execAwaitResume (core : Nat) (s : State) : Result State := .next (s.withDev (s.d.onFree core Dev.takeYielded))
def execClusterReport (q : BitVec 10) (seq cluster : Nat) (s : State) : Result State :=
  .next (s.withDev (s.d.clusterReport q.toNat seq cluster))
def execDieReport (q : BitVec 10) (seq die : Nat) (s : State) : Result State := .next (s.withDev (s.d.dieReport q.toNat seq die))
def execLaunchCompletion (q : BitVec 10) (seq : Nat) (s : State) : Result State :=
  .next (s.withDev (s.d.completionStep q.toNat seq))

/-- The cluster whose router a packet goes through: its target's, or for a reduction its sender's (log 15). -/
def Packet.target (p : Packet) : Fin 32 :=
  match p.body with
  | .core _ k _ => Fin.ofNat 32 k
  | .piece _ k => Fin.ofNat 32 k
  | .memred _ _ => Fin.ofNat 32 p.cluster

/-- A packet leaves the network and is counted as received (R331). -/
def Dev.takePacket (d : Dev) (id : Nat) (p : Packet) (k : Fin 32) : Dev :=
  { d.setCluster k { d.clusters[k] with ends := d.clusters[k].ends.receive p.colour 1 } with packets := d.packets.erase id }

/-- A CORE task reaches its cluster: it waits for the named core, or as a spawned task of the cluster (R356, R361). -/
def Dev.arriveCore (d : Dev) (w : Work) (k : Fin 32) (named : Option Nat) : Dev :=
  let e := d.receiveWork w k.val
  match named with
  | some c => e.setCore { e.coreAt c with inbox := (e.coreAt c).inbox ++ [.task w] }
  | none => e.setCluster k { e.clusters[k] with pending := e.clusters[k].pending ++ [plainPiece w] }

/-- A reduction of a packet in the scratchpad that its anchor names (R175, R361). -/
def Dev.padRed (d : Dev) (k : Fin 32) (r : RedRequest) : Dev :=
  d.onCore (128 * k.val + winCore r.va) fun e =>
    let n := r.ty.bits / 8
    let old := leNat (windowRead e.core e.gen (winOf r.va) (winByte r.va) n)
    e.padStore e.core.id (winOf r.va) (winByte r.va) r.va (leBytes n (redStep r.op r.ty old (r.value.toNat % 2 ^ r.ty.bits))) false

/-- A MEMRED packet performed (R174, R177, R361); it stays in flight while its page is migrating. -/
def Dev.arriveRed (d : Dev) (id : Nat) (p : Packet) (lv : Level) (r : RedRequest) : Dev :=
  let k := Fin.ofNat 32 p.cluster
  if inWindow r.va then (d.takePacket id p k).padRed k r
  else
    let w := d.pageWalk k.val r.va
    match w.retryWrite k (128 * k.val) r.owner r.kid lv r.va [] (some r) with
    | .applied e => e.takePacket id p k
    | .held => w
    | .refused =>
      if w.orphanRoom k then
        (w.takePacket id p k).addOrphan k
          { owner := r.owner, core := 128 * k.val, level := lv, va := r.va, kid := r.kid, red := some r, bytes := [], reported := false }
      else w

/-- A task or spawned task accepted by a cluster's part (R201, R354), or discarded there in abort mode (R364). -/
def Dev.acceptTask (d : Dev) (id : Nat) (p : Packet) (k : Fin 32) (f : Dev → Dev) : Dev :=
  let e := (d.ask 7 k.val p.owner).takePacket id p k
  if (e.queueAt p.queue).abort then e else f e

/-- SPAWN_PACKET: a task or spawn packet reaches what it is for. -/
def Dev.spawnPacket (d : Dev) (id : Nat) : Dev :=
  match d.packets.find id with
  | none => d
  | some p =>
    if d.frozen p.owner || d.routerHolds p.owner p.target then d
    else
      match p.body with
      | .piece x k => d.acceptTask id p (Fin.ofNat 32 k) fun e => e.givePiece (Fin.ofNat 32 k) x
      | .core w k named => d.acceptTask id p (Fin.ofNat 32 k) fun e => e.arriveCore w (Fin.ofNat 32 k) named
      | .memred lv r => d.arriveRed id p lv r

def execSpawnPacket (id : Nat) (s : State) : Result State := .next (s.withDev (s.d.spawnPacket id))

end Sys2Proof.Machine
end

