-- ==== Sys2Proof/Machine/Galley.lean ====
section
/-! DEFINITION. The FRONT instructions and the firing of a point (R377, R379, R389 to R393). -/
namespace Sys2Proof.Machine

/-- The value that FPT writes for a point (R390). -/
def pointWord (x0 x1 x2 : Nat) : Word := 0#1 ++ BitVec.ofNat 21 x0 ++ BitVec.ofNat 21 x1 ++ BitVec.ofNat 21 x2

/-- The point of a task, if it is a frontier task. -/
def Task.point (t : Task) : Option Word :=
  match t.work.kind with
  | .range | .core => none
  | .point x0 x1 x2 => some (pointWord x0 x1 x2)

def Dev.doFpt (d : Dev) (rd : SReg) : Act :=
  match d.core.task.bind Task.point with
  | none => d.frontTrap 0 1
  | some x => .ok (d.wr rd x).advance

/-- The pages of a record area checked as a store, in ascending order (R391); a record lies in device memory (R385). -/
def Dev.areaCheck (d : Dev) : List Word → Except Stop Unit
  | [] => .ok ()
  | a :: t =>
    if inLocalRange a then d.refuse a .store
    else
      match d.translate d.cluster d.owner d.core.status.pl .store a with
      | .fault c fi => d.faults d.core.pc a c fi
      | .held => .error (d.queued a)
      | .miss => .error (.left (d.walked a) 0xC)
      | .ok e _ => if pteDec e then d.cellTrap a 4 else if remoteRefuses e then d.refuse a .store else d.areaCheck t

/-- FCUT on a cut queue: the count once the galley has finished, else the instruction waits (R391). -/
def Dev.awaitCut (d : Dev) (rd : SReg) (q : Nat) : Dev :=
  let e := d.finishCut q
  let x := e.queueAt q
  if x.cutDone && x.liveFrontiers.isEmpty then (e.wr rd (BitVec.ofNat 64 x.cutCount)).advance
  else { e with core := { e.core with stall := 0xB } }

/-- The queue closed in abort mode and marked as cut. -/
def Dev.markCut (d : Dev) (q : Nat) (a : Word) : Dev :=
  let e := d.closeQueue q true
  e.setQueue q { e.queueAt q with cut := some a, cutCount := 0, cutDone := false }

def Dev.doFcut (d : Dev) (rd ra : SReg) (q : BitVec 10) : Act :=
  d.needSupervisor (encS 0x2E rd ra 1 q) <|
    d.notInGang <|
      let x := d.queueAt q.toNat
      let a := d.rd ra
      if !x.boundTo d.owner then d.frontTrap 0 2
      else if x.cut.isSome then .ok (d.awaitCut rd q.toNat)
      else if a.toNat % 64 ≠ 0 then d.frontTrap a 3
      else
        match d.areaCheck (if x.liveFrontiers.isEmpty then [] else pageStarts a (65600 * x.liveFrontiers.length)) with
        | .error e => .error e
        | .ok _ => .ok ((d.markCut q.toNat a).awaitCut rd q.toNat)

/-- FPROG of a queue (R392). -/
def Queue.progress (x : Queue) : Word :=
  match x.liveFrontiers with
  | [] => BitVec.allOnes 64
  | l :: _ => BitVec.ofNat 16 (min 65535 l.frontier.inFlight.length) ++ 0#6 ++ BitVec.ofNat 42 l.frontier.row0

def Dev.doFprog (d : Dev) (rd : SReg) (q : Nat) : Act :=
  let x := d.queueAt q
  if !x.boundTo d.owner then d.frontTrap 0 2 else .ok (d.wr rd x.progress).advance

def execFpt (rd : SReg) (s : State) : Result State := finish s (s.d.doFpt rd)
def execFcut (rd ra : SReg) (q : BitVec 10) (s : State) : Result State := finish s (s.d.doFcut rd ra q)
def execFprog (rd : SReg) (q : BitVec 10) (s : State) : Result State := finish s (s.d.doFprog rd q.toNat)

/-- POINT_FIRE: a fireable point is offered to the lowest cluster with an idle core, where it contends with other ready work, the points
of other queues among it (R354, R377); where the part picks another queue, the core takes that queue's work. -/
def Dev.pointFire (d : Dev) (q seq x0 x1 x2 : Nat) : Dev :=
  let x := d.queueAt q
  match x.findLaunch seq with
  | none => d
  | some l =>
    if l.started && recFrontier l.record && !x.abort && !d.firesNone x.owner && l.fireable (x.before seq) x0 x1 x2 then
      match d.pointCore x.owner l.place.dieOf none with
      | none => d
      | some c =>
        d.onCore c fun e =>
          let os := e.offers
          match e.pickQueue e.cluster (q :: (e.readyQueues ++ os.map (·.1))) with
          | none => e
          | some r => if r.1 = q then r.2.firePoint q l x0 x1 x2 else (r.2.serve os r.1).getD r.2
    else d

def execPointFire (q : BitVec 10) (seq x0 x1 x2 : Nat) (s : State) : Result State :=
  .next (s.withDev (s.d.pointFire q.toNat seq x0 x1 x2))

end Sys2Proof.Machine
end

