-- ==== Sys2Proof/Machine/Gang.lean ====
section
/-! DEFINITION. Gangs: FUSE, SPLIT, GIDX, GSIZE and GRED, and how the members of a gang perform an instruction (R14, R368 to R372). -/
namespace Sys2Proof.Machine

/-- The chain position of a core number of the grid, and the core number of a chain position: the map is its own inverse (R14). -/
def chainPos (n : Nat) : Nat := n / 12 * 12 + if n / 12 % 2 = 0 then n % 12 else 11 - n % 12

/-- The cores of a gang by their leader, in member order. -/
def gangCores (leader size : Nat) : List Nat :=
  (List.range size).map fun k => leader / 128 * 128 + chainPos (chainPos (leader % 128) + k)

/-- The members of the current core's gang; the core alone outside one. -/
def Dev.members (d : Dev) : List Nat :=
  match d.core.gang with
  | none => [d.core.id]
  | some g => gangCores g.leader g.size

/-- Cores changed one after another. -/
def Dev.forCores (d : Dev) (cs : List Nat) (f : Core → Core) : Dev := cs.foldl (fun e c => e.setCore (f (e.coreAt c))) d

-- FUSE and SPLIT (R368, R371).

/-- A follower at the forming of a gang: the leader's scalar registers, level and task. Its ports hold no element that an earlier task left
(DESIGN CHOICE, log 24). -/
def Core.follow (x leader : Core) (index size : Nat) : Core :=
  { x with
    s := leader.s, status := { x.status with pl := leader.status.pl }, gang := some { leader := leader.id, index := index, size := size }
    run := .running, pc := leader.pc, task := leader.task, stall := 0
    port := x.port.map fun p => { p with done := [] } }

/-- The gang formed: the current core, past its FUSE, is the leader. -/
def Dev.formGang (d : Dev) (cs : List Nat) (size : Nat) : Dev :=
  let e := { d with core := { d.core with gang := some { leader := d.core.id, index := 0, size := size } } }
  (cs.zipIdx 1).foldl (fun f c => f.setCore ((f.coreAt c.1).follow e.core c.2 size)) e

def Dev.doFuse (d : Dev) (rd : SReg) (n : Nat) : Act :=
  d.notInGang <|
    if n < 2 ∨ 16 < n then d.gangTrap 3
    else
      let p := chainPos (d.core.id % 128)
      let followers := (gangCores d.core.id n).drop 1
      if 95 < p + n - 1 ∨ !(followers.all fun c => (d.coreAt c).isIdle) then .ok (d.wr rd (BitVec.allOnes 64)).advance
      else .ok ((d.wr rd 0).advance.formGang followers n)

def Dev.doSplit (d : Dev) : Act :=
  match d.core.gang with
  | none => d.gangTrap 2
  | some _ => .ok (d.forCores d.members fun c => { c with gang := none, pc := c.pc + 4 })

def execFuse (rd : SReg) (n : BitVec 5) (s : State) : Result State := finish s (s.d.doFuse rd n.toNat)
def execSplit (s : State) : Result State := finish s s.d.doSplit

-- GIDX, GSIZE and GRED (R370).

def execGidx (rd : SReg) (s : State) : Result State := setS s rd (BitVec.ofNat 64 ((s.d.core.gang.map (·.index)).getD 0))
def execGsize (rd : SReg) (s : State) : Result State := setS s rd (BitVec.ofNat 64 ((s.d.core.gang.map (·.size)).getD 1))

/-- The values of the members combined in ascending member order. -/
def combineAll (f : Word → Word → Word) : List Word → Word
  | [] => 0
  | x :: t => t.foldl f x

/-- GRED: every member receives the result; outside a gang it is S[ra]. -/
def Dev.doGred (d : Dev) (f : Word → Word → Word) (rd ra : SReg) : Dev :=
  let x := combineAll f (d.members.map fun c => (d.coreAt c).readS d.gen ra)
  d.forCores d.members fun c => { c.writeS d.gen rd x with pc := c.pc + 4 }

def execGredAdd (rd ra : SReg) (s : State) : Result State := .next (s.withDev (s.d.doGred (· + ·) rd ra))
def execGredAnd (rd ra : SReg) (s : State) : Result State := .next (s.withDev (s.d.doGred (· &&& ·) rd ra))
def execGredOr (rd ra : SReg) (s : State) : Result State := .next (s.withDev (s.d.doGred (· ||| ·) rd ra))
def execGredXor (rd ra : SReg) (s : State) : Result State := .next (s.withDev (s.d.doGred (· ^^^ ·) rd ra))
def execGredMin (rd ra : SReg) (s : State) : Result State := .next (s.withDev (s.d.doGred aluMin rd ra))
def execGredMax (rd ra : SReg) (s : State) : Result State := .next (s.withDev (s.d.doGred aluMax rd ra))
def execGredMinn (rd ra : SReg) (s : State) : Result State := .next (s.withDev (s.d.doGred aluMinn rd ra))
def execGredMaxn (rd ra : SReg) (s : State) : Result State := .next (s.withDev (s.d.doGred aluMaxn rd ra))

-- A gang performs an instruction (R369, R372).

/-- What only puts an entry into the matrix queue, and uses no vector register at issue (R282). -/
def queuesOnly : Instr ⊕ Late → Bool
  | .inl (.mma _ _ _ _ _ _ _ _) | .inl (.mzero _) | .inl (.mlda _ _) | .inl (.msto _ _ _) | .inl (.mrow _ _ _) => true
  | .inl _ | .inr _ => false

/-- The event and the mutex that a word waits for. -/
def waitsFor : Instr ⊕ Late → Option Nat × Option Nat
  | .inl (.evwait _ e) => (some e.toNat, none)
  | .inl (.mlock m) => (none, some m.toNat)
  | .inl _ | .inr _ => (none, none)

/-- The machine as an instruction finds it: an MROW that waits has written its register, where the instruction may use one (R282); and what the
core, or its gang, waited for at the event unit with another word is given up (R324). -/
def State.settled (i : Instr ⊕ Late) (s : State) : State :=
  let d := if queuesOnly i then s.d else s.d.settleRows
  s.withDev (d.giveUpWaits d.members (waitsFor i).1 (waitsFor i).2)

/-- Instructions that a gang performs as one. -/
def asOne : Instr ⊕ Late → Bool
  | .inl _ => false
  | .inr l =>
    match l with
    | .split | .gredAdd _ _ | .gredAnd _ _ | .gredOr _ _ | .gredXor _ _ | .gredMin _ _ | .gredMax _ _ | .gredMinn _ _ | .gredMaxn _ _ => true
    | _ => false

/-- The members that have still to perform the instruction at hand: those that wait, and all when none does. -/
def Dev.toRun (d : Dev) : List Nat :=
  let w := d.members.filter fun c => decide ((d.coreAt c).stall ≠ 0)
  if w.isEmpty then d.members else w

/-- Cores perform an instruction one after another, each with its stall forgotten. -/
def runCores (run : State → Result State) : List Nat → State → Result State
  | [], s => .next s
  | c :: t, s =>
    let d := s.d.switchTo c
    match run (s.withDev { d with core := { d.core with stall := 0 } }) with
    | .next u => runCores run t u
    | .fault f => .fault f
    | .refused r => .refused r

/-- A member leaves a gang that another member's trap or cause dissolves: it takes GANG with reason 0x4 (R372). -/
def Dev.dissolve (epc : Word) (d : Dev) (core : Nat) : Dev :=
  d.onCore core fun e =>
    { e with core := { e.core with gang := none } }.takeTrap
      { code := 0x10, epc := epc, faddr := 0, finfo := 4, async := false, defer := false }

/-- What a gang does once its members have performed an instruction: the ones that wait keep the others waiting; a trap dissolves it;
else every member stands where the leader's decision leads. d0 is the device before. A member that still waits when another traps
completes its instruction outside the gang first (R372; log 20). -/
def Dev.afterMembers (d0 : Dev) (leader : Nat) (cs : List Nat) (pc : Word) (d : Dev) : Dev :=
  let trapped := cs.filter fun c => decide ((d.coreAt c).traps ≠ (d0.coreAt c).traps)
  let waits (c : Nat) : Bool := decide ((d.coreAt c).stall ≠ 0)
  if trapped.isEmpty then
    if cs.any waits then d
    else d.forCores cs fun c => { c with pc := (d.coreAt leader).pc }
  else
    let next := (((leader :: cs).find? fun c => !trapped.contains c && !waits c).map fun c => (d.coreAt c).pc).getD (pc + 4)
    let e := d.forCores trapped fun c => { c with gang := none }
    (cs.filter fun c => !trapped.contains c).foldl
      (fun f c => if waits c then f.forCores [c] fun x => { x with gang := none, leaving := true } else f.dissolve next c) e

/-- A core that another member's trap has put out of its gang takes GANG once its instruction is complete (R372); d0 is the device
before the instruction. -/
def Dev.afterLeaving (d0 d : Dev) : Dev :=
  if !d.core.leaving then d
  else if d.core.traps ≠ d0.core.traps then { d with core := { d.core with leaving := false } }
  else if d.core.stall ≠ 0 then d
  else { d with core := { d.core with leaving := false } }.takeTrap
    { code := 0x10, epc := d.core.pc, faddr := 0, finfo := 4, async := false, defer := false }

/-- The leader's core as it reads the word that the members have still to perform: at their pc, and in the FRAME that they stand in (R262,
R369). -/
def Dev.atWord (d : Dev) : Dev :=
  let leader := d.members.headD d.core.id
  let first := d.coreAt (d.toRun.headD leader)
  let l := d.switchTo leader
  { l with core := { l.core with pc := first.pc, frame := first.frame } }

/-- The device after what the leader's fetch has left with another agent. -/
def Dev.past (d : Dev) (leader : Nat) (e : Dev) : Dev :=
  (e.setCore { d.coreAt leader with uncorr := (e.coreAt leader).uncorr }).switchTo d.core.id

/-- The leader's trap dissolves its gang at the instruction that was not performed; what its members waited for is given up. -/
def Dev.gangTraps (d : Dev) (leader : Nat) (cs : List Nat) (pc : Word) (t : Trap) : Dev :=
  let e := d.onCore leader fun x => { x with core := { x.core with gang := none } }.takeTrap t
  ((cs.filter fun c => decide (c ≠ leader)).foldl (Dev.dissolve pc) e).giveUpWaits cs none none

/-- A gang whose leader cannot fetch or decode a word: the leader takes the trap, and the gang is dissolved at the instruction that was not
performed (R42, R372; log 20). -/
def Dev.gangFetchStop (d : Dev) (leader : Nat) (cs : List Nat) (pc : Word) : Stop → Dev
  | .wait r => d.forCores d.toRun fun c => { c with stall := r }
  | .left e r => (d.past leader e).forCores d.toRun fun c => { c with stall := r }
  | .trap t => d.gangTraps leader cs pc t
  | .walkedTrap e t => (d.past leader e).gangTraps leader cs pc t

/-- What the leader of a gang reads beside the word itself: the body of a FRAME or of a region, which it alone fetches and decodes (R42, R262,
R369). -/
inductive LeaderBody where
  | none
  | frame (body : List Captured)
  | region (body : List BodyWord) (ended : Bool)
  deriving DecidableEq, Repr

/-- The leader reads what belongs to a word, or is stopped before any member performs it: the word is no instruction, or a body cannot be fetched
or decoded (R42). The current core is the leader. -/
def Dev.leaderReads (d : Dev) : Instr ⊕ Late → Except Stop LeaderBody
  | .inl (.illop w r) => illopAt d.core.pc w r
  | .inl (.frame _ n1 _ _) =>
    if d.core.frame.isSome then .ok .none else (d.capture (n1.toNat + 1) (d.core.pc + 4)).map LeaderBody.frame
  | .inl (.alrb _ _ _) => (d.regionBody 16 (d.core.pc + 4) []).map fun r => .region r.1 r.2
  | .inl _ | .inr _ => .ok .none

/-- A member performs a word with what the leader has read; run performs one that has no body. -/
def runBody (run : Instr ⊕ Late → State → Result State) (i : Instr ⊕ Late) (b : LeaderBody) (s : State) : Result State :=
  let u := s.settled i
  match i, b with
  | .inl (.frame sv n1 k1 sp), .frame body => .next (u.withDev (u.d.takeFrame u.d.core.pc sv n1 k1 sp 0 0 (u.d.recapture body)))
  | .inl (.alrb o sc ra), .region body ended => finish u (u.d.regionOf o sc ra (body, ended))
  | _, _ => run i s

/-- The gang of the current core performs the instruction at its members' pc; run performs a decoded word on the current core. -/
def gangStep (run : Instr ⊕ Late → State → Result State) (s : State) : Result State :=
  let d := s.d
  let cs := d.members
  let leader := cs.headD d.core.id
  let todo := d.toRun
  let pc := d.atWord.core.pc
  match d.atWord.pick with
  | .error e => .next (s.withDev (d.gangFetchStop leader cs pc e))
  | .ok i =>
    match d.atWord.leaderReads i with
    | .error e => .next (s.withDev (d.gangFetchStop leader cs pc e))
    | .ok b =>
    if asOne i then run i (s.withDev (d.switchTo leader))
    else
      match runCores (runBody run i b) todo s with
      | .next u => .next (u.withDev ((Dev.afterMembers d leader cs pc u.d).switchTo d.core.id))
      | .fault f => .fault f
      | .refused r => .refused r

end Sys2Proof.Machine
end

