-- ==== Sys2Proof/Machine/Perf.lean ====
section
/-! DEFINITION. PC sampling, counters, time and proofs (R338 to R347), and the messages of IEEE 1588 (R417). -/
namespace Sys2Proof.Machine

-- Counters (R342, R343, R347).

/-- Event codes that count something (R343). -/
def eventAssigned (c : BitVec 8) : Bool := decide (1 ≤ c.toNat) && decide (c.toNat ≤ 14)

/-- CTSEL: the list position is written and its two counters are zeroed. -/
def Owner.select (o : Owner) (s : Fin 32) (code : BitVec 8) : Owner :=
  { o with
    events := o.events.set s (if eventAssigned code then code else 0)
    counters := (o.counters.set (0x100 + s.val) 0).set (0x120 + s.val) 0 }

/-- The positions that the slots take next: eight of the non-empty ones in cyclic order (R343). -/
def Owner.nextSlots (o : Owner) : List (Nat × BitVec 8) :=
  let full := (List.range 32).filter fun s => decide (o.events[Fin.ofNat 32 s] ≠ 0)
  let after := match o.counting.getLast? with
    | none => full
    | some l => (full.filter fun s => decide (l.1 < s)) ++ full.filter fun s => decide (s ≤ l.1)
  (after.take 8).map fun s => (s, o.events[Fin.ofNat 32 s])

/-- The rotation of an owner's slots. -/
def Owner.rotate (o : Owner) : Owner := { o with counting := o.nextSlots }

def Dev.doCtsel (d : Dev) (ra : SReg) (s : BitVec 5) : Act :=
  d.needSupervisor (encS 0x30 0 ra 1 (zext s |>.setWidth 10)) <|
    d.notInGang (.ok (d.setOwner d.owner ((d.ownerAt d.owner).select s.toFin ((d.rd ra).extractLsb' 0 8))).advance)

def execCtrd (rd : SReg) (n : BitVec 10) (s : State) : Result State :=
  setS s rd (BitVec.ofNat 64 ((s.d.ownerAt s.d.owner).counters.get 0 n.toNat))
def execCtsel (ra : SReg) (s' : BitVec 5) (s : State) : Result State := finish s (s.d.doCtsel ra s')

/-- COUNTER_SLOT_ROTATION: for each tick that is a multiple of 65,536 the slots rotate once; what the step has not done is done when time passes
on from the tick. -/
def Dev.rotateSlots (d : Dev) (now : Nat) : Dev :=
  if d.rotated < now / Config.periodTicks then { d with owners := d.owners.map Owner.rotate, rotated := now / Config.periodTicks } else d

def execCounterSlotRotation (s : State) : Result State := .next (s.withDev (s.d.rotateSlots s.gcycle))

-- Time (R344, R347, R417).

/-- PTP time in nanoseconds. -/
def State.ptp (s : State) : Nat := s.d.toff + s.gcycle

def execTstamp (rd : SReg) (s : State) : Result State :=
  .next (s.withDev (s.d.wrPair rd (BitVec.ofNat 64 (s.ptp % 10 ^ 9) ++ BitVec.ofNat 64 (s.ptp / 10 ^ 9 % 2 ^ 48))).advance)

/-- The servo may step: PTP is there, and no step lies within the window of 4,096 cycles (R344, R417). -/
def State.servoReady (s : State) : Bool :=
  s.d.host.ptpLocked &&
    match s.d.servo with
    | none => true
    | some t => decide (t + 4096 ≤ s.gcycle)

/-- GCYCLE_STEP: the cycle of this step counts twice, or not at all, and TOFF changes with it (R344). Where the servo may not step, the
cycle counts once. This step alone advances GCYCLE itself. -/
def execGcycleStep (extra : Bool) (toff : Nat) (s : State) : Result State :=
  if s.servoReady then
    .next { s with gcycle := s.gcycle + (if extra then 2 else 0), d := { s.d with toff := toff, servo := some s.gcycle } }
  else .next { s with gcycle := s.gcycle + 1 }

/-- PTP_MESSAGE: a port that is up receives IEEE 1588 messages, and the servo follows PTP again (R417). -/
def execPtpMessage (port : Nat) (s : State) : Result State :=
  .next (s.withDev
    (if s.d.portUp port then { s.d with host := { s.d.host with ptpLocked := true } } else s.d))

/-- PTP_LOSS (R417, R421). -/
def execPtpLoss (s : State) : Result State :=
  .next (s.withDev ({ s.d with host := { s.d.host with ptpLocked := false } }.notice .holdover))

-- PC sampling (R338 to R341).

/-- The tick at which a core number of a cluster is sampled in a period (R338). -/
def sampleTick (seed : Word) (period c : Nat) : Nat :=
  Config.periodTicks * period + (fount (streamKey seed 0x04FF) (BitVec.ofNat 32 (96 * period + c))).toNat / 65536

/-- The stall reason of a core (R340). -/
def Core.stallCode (c : Core) : BitVec 4 :=
  match c.run with
  | .idle => 0xB
  | .halted => 0xF
  | .running => c.stall
  | .escalated _ _ _ _ => c.stall

/-- Why the instruction at the pc of a core does not issue (R340): where the vector engine has earlier instructions to complete, it waits for a
place in the sequencer if it is one of the vector engine or a FRAME, else for what they write (DESIGN CHOICE, log 23). -/
def Dev.stallOf (d : Dev) (core : Nat) : BitVec 4 :=
  let c := d.coreAt core
  let e := d.switchTo core
  if c.run = .running ∧ c.stall = 0 ∧ c.vectorBusy = true then
    match e.pick, e.fetched with
    | .ok (.inl .frameReplay), .ok (.inl i) => if isVector e i || isFrame i then 0x6 else 0x2
    | .ok (.inl .frameReplay), .ok (.inr _) => 0x2
    | .ok (.inl .frameReplay), .error _ => 0x1
    | _, _ => 0
  else c.stallCode

/-- The sample record of a core (R339), with its stall reason. -/
def Core.sample (c : Core) (now : Nat) (stall : BitVec 4) : List Word :=
  [BitVec.ofNat 64 now, c.pc,
    c.kid.kid ++ 0#8 ++ BitVec.ofNat 12 c.id ++ levelCode c.status.pl ++ boolBit c.gang.isSome ++ boolBit c.frame.isSome ++ 0#4 ++ stall, 0]

/-- Doublewords written to local memory by the device itself (R341, R345). -/
def Dev.writeHome (d : Dev) (pa : Nat) (ws : List Word) : Dev :=
  (ws.zipIdx).foldl (fun e x => (e.atHome none (pa + 8 * x.2) 32 0 (some (pa + 8 * x.2, 8)) none).homeUpdate none none (pa + 8 * x.2) (leBytes 8 x.1.toNat)) d

/-- A doubleword of local memory as its home holds it. -/
def Dev.readHome (d : Dev) (pa : Nat) : Nat := leNat ((d.atHome none pa 32 0 none none).homeRead none pa 8)

/-- A sample written to the ring of its owner, WCOUNT last, or dropped (R341). -/
def Dev.writeSample (d : Dev) (o : Nat) (ws : List Word) : Dev :=
  match (d.ownerAt o).ring with
  | none => d.count o 0x003 1
  | some r =>
    let w := d.readHome r.1
    if (w + 2 ^ 64 - d.readHome (r.1 + 8)) % 2 ^ 64 = 2 ^ r.2 then d.count o 0x003 1
    else ((d.writeHome (r.1 + 64 + 32 * (w % 2 ^ r.2)) ws).writeHome r.1 [BitVec.ofNat 64 (w + 1)]).count o 0x002 1

/-- The cores that the sampler of a cluster has sampled at a tick. -/
def Cluster.sampledAt (x : Cluster) (now : Nat) : List Nat := if x.sampled.1 = now then x.sampled.2 else []

/-- A sampler takes a core at a tick: its tick of the period, once, in a cluster that is in service and clocked, unless the stop tree holds the core
or the cluster is changing owner (R338; log 23). -/
def Dev.samples (d : Dev) (now core : Nat) : Bool :=
  let x := d.clusters[clusterIx core]
  coreExists core && decide (now = sampleTick (d.ownerAt 0).oseed (now / Config.periodTicks) (core % 128)) && (d.coreAt core).halt.isNone
    && x.next.isNone && !x.retired && d.clocked && !(x.sampledAt now).contains core

/-- PC_SAMPLE (R338 to R341). -/
def Dev.pcSample (d : Dev) (now core : Nat) : Dev :=
  let k := clusterIx core
  if d.samples now core then
    (d.setCluster k { d.clusters[k] with sampled := (now, core :: d.clusters[k].sampledAt now) }).writeSample d.clusters[k].owner
      ((d.coreAt core).sample now (d.stallOf core))
  else d

def execPcSample (core : Nat) (s : State) : Result State := .next (s.withDev (s.d.pcSample s.gcycle core))

-- Proofs (R345, R347).

def Dev.doProof (d : Dev) (now : Nat) (rd ra : SReg) : Act :=
  d.needSupervisor (encS 0x30 rd ra 3 0) <|
    d.notInGang <|
      match d.trigger with
      | some _ => .ok (d.wr rd 0).advance
      | none =>
        let p := max (d.rd ra).toNat (now + 4096)
        .ok (({ d with trigger := some { owner := d.owner, tick := p, whole := false, latched := none } }).wr rd (BitVec.ofNat 64 p)).advance

def execProof (rd ra : SReg) (s : State) : Result State := finish s (s.d.doProof s.gcycle rd ra)

/-- What the entry of a core holds (R345). -/
def Core.proofValues (c : Core) (stall : BitVec 4) : List Nat :=
  [c.id, c.pc.toNat, stall.toNat, (levelCode c.status.pl).toNat, c.matrix.length]
    ++ c.port.toList.flatMap fun p => [p.commands.length, p.done.length]

/-- What the entry of a cluster slice holds: its uncommitted stores, partials and held accesses. -/
def Dev.sliceValues (d : Dev) (k : Fin 32) : List Nat :=
  let waits (r : StoreRec) : Bool :=
    match r.phase with
    | .sent | .placed _ _ => true
    | .committed _ => false
  [k.val, (d.mem.stores.filter fun r => decide (r.cluster = k.val) && waits r).length,
    (d.mem.partials.filter fun p => decide (p.cluster = some k.val)).length, d.clusters[k].hold.length]

/-- The block's part of an owner, or the whole of it (R345). -/
def isOf (owner : Option Nat) (o : Nat) : Bool := owner.all fun x => decide (x = o)

/-- What the entry of a home holds: the stores that it has placed and not committed, and the registered reducers. -/
def Dev.homeValues (d : Dev) (owner : Option Nat) (stack : Nat) : List Nat :=
  let mine (pa : Nat) : Bool := decide (homeStack pa = stack) && isOf owner (d.frameOwner pa)
  let placed (r : StoreRec) : Bool :=
    match r.phase with
    | .placed _ _ => true
    | .sent | .committed _ => false
  [stack, (d.mem.stores.filter fun r => r.dev.isNone && mine r.pa && placed r).length,
    ((d.mem.partials.filter fun p => p.dev.isNone && mine p.base).map fun p => (p.cluster, p.base)).eraseDups.length]

/-- What the entry of a router holds: the packets in its buffers, in flight or captured. -/
def Dev.routerValues (d : Dev) (owner : Option Nat) (n : Nat) : List Nat :=
  let here (k : Option (Fin 32)) : Bool := decide (k.map routerOf = some n)
  [n, (d.messages.filter fun f => isOf owner f.owner && here (d.localTarget f.msg)).length
      + (d.packets.filter fun p => isOf owner p.2.owner && here (some p.2.target)).length
      + ((d.stops.filter fun t => isOf owner t.1).map fun t =>
          (t.2.messages.filter fun m => decide (m.1 = n)).length + (t.2.packets.filter fun p => decide (p.1 = n)).length).sum]

/-- What the entry of a galley holds: the live band rows of frontier launches. -/
def Dev.galleyValues (d : Dev) (owner : Option Nat) (die : Nat) : List Nat :=
  die :: d.queues.flatMap fun q =>
    if isOf owner q.2.owner then
      (q.2.liveFrontiers.filter fun l => decide (l.place.dieOf = die)).map fun l =>
        min Config.bandRows (recRows l.record - l.frontier.row0)
    else []

/-- The proof registers of an owner's cores and slices, and of its part of homes, routers and galleys; without an owner those of the whole
device (R345). -/
def Dev.proofEntries (d : Dev) (owner : Option Nat) : List (BitVec 256) :=
  let ks := ((List.range 32).map (Fin.ofNat 32)).filter fun k => isOf owner d.clusters[k].owner
  let cores := ks.flatMap fun k => (List.range Config.coresPerCluster).map fun i => d.coreAt (128 * k.val + i)
  (cores.map fun c => Config.proofEntry 0 (c.proofValues (d.stallOf c.id)))
    ++ (ks.map fun k => Config.proofEntry 1 (d.sliceValues k))
    ++ ((List.range 8).map fun h => Config.proofEntry 2 (d.homeValues owner h))
    ++ ((List.range 192).map fun n => Config.proofEntry 3 (d.routerValues owner n))
    ++ (List.range 4).map fun g => Config.proofEntry 4 (d.galleyValues owner g)

/-- At the tick of the trigger every block latches its proof registers (R345). -/
def Dev.latchProof (d : Dev) (now : Nat) : Dev :=
  match d.trigger with
  | none => d
  | some t =>
    if t.tick ≤ now ∧ t.latched.isNone = true then
      { d with trigger := some { t with latched := some (d.proofEntries (if t.whole then none else some t.owner)) } }
    else d

/-- The compositor or the host arms the trigger, for a record of the whole device in an owner's proof buffer (R345). -/
def Dev.armProof (d : Dev) (now owner tick : Nat) : Dev :=
  if d.trigger.isNone && decide (owner < 64) then
    { d with trigger := some { owner := owner, tick := max tick (now + 4096), whole := true, latched := none } }
  else d

/-- The doublewords of an entry. -/
def entryWords (x : BitVec 256) : List Word := (List.range 4).map fun i => x.extractLsb' (64 * i) 64

/-- PROOF_TRIGGER: from the armed tick on, the record is written from the proof registers, the header's P last (R345). An owner without a
proof buffer gets no record (log 14). -/
def Dev.fireProof (d : Dev) (now : Nat) : Dev :=
  let d0 := d.latchProof now
  match d0.trigger with
  | none => d
  | some t =>
    match t.latched with
    | none => d
    | some es =>
      let e := { d0 with trigger := none }
      match (d.ownerAt t.owner).proofBuffer with
      | none => e
      | some a =>
        (((e.writeHome (a + 64) (es.flatMap entryWords)).writeHome (a + 8)
          [zext d.deviceId, BitVec.ofNat 64 t.owner, BitVec.ofNat 64 es.length]).writeHome a [BitVec.ofNat 64 t.tick])

def execProofTrigger (s : State) : Result State := .next (s.withDev (s.d.fireProof s.gcycle))

end Sys2Proof.Machine
end

