-- ==== Sys2Proof/Machine/StopTree.lean ====
section
/-! DEFINITION. The stop tree: synchronised stops, the cut, saves, commits and aborts, restores; and what a change of owner does
(R24, R103, R159, R160, R327 to R337, R366). -/
namespace Sys2Proof.Machine

-- A change of owner (R24, R103, R159, R160).

/-- A core whose cluster changes owner: control registers at reset, queues and engines discarded; register files and scratchpad stay, with
tags that become stale. -/
def Core.changeOwner (c : Core) : Core :=
  { Core.reset c.id with
    s := c.s, v := c.v, p := c.p, desc := c.desc, stream := c.stream, pad := c.pad, traps := c.traps
    acc := c.acc.map fun a => { a with rowNaN := 0, colNaN := 0, poison := none } }

def EventUnit.reset : EventUnit := { barriers := [], events := [], mutexes := [] }

/-- A cluster passes to an owner, and the scrub begins; while the scrub of an earlier change runs, the generation does not advance until
it has finished (R160). -/
def Dev.changeOwner (o : Nat) (d : Dev) (k : Fin 32) : Dev :=
  let c := d.clusters[k]
  let x := { c with owner := o, unit := EventUnit.reset, hold := [], orphans := [], pending := [], ends := Endpoint.reset }
  (d.mapCores k Core.changeOwner).setCluster k
    (if c.scrubbing then { x with next := some c.owner } else { x with gen := c.gen + 1, scrubbing := true, former := c.owner })

-- SYNCHRONISED_STOP (R329, R334, R335).

/-- The switch of the schedule that a stop of an owner at a tick begins. The ticks of a schedule are absolute: a late, deferred or aborted
switch moves no other, so that the slice of the owner that comes in ends at the tick of its own switch (R329, R334, R335). -/
def Dev.planOf (d : Dev) (o tick : Nat) : Option SwitchPlan :=
  (d.host.switches ++ d.host.deferred).find? fun x => decide (x.outgoing = o) && decide (x.tick = tick)

/-- A switch is no longer to come. -/
def Dev.dropPlan (d : Dev) : Option SwitchPlan → Dev
  | none => d
  | some p => { d with host := { d.host with switches := d.host.switches.erase p, deferred := d.host.deferred.erase p } }

/-- A counter of two owners of a switch. -/
def Dev.countBoth (d : Dev) (o : Nat) (i : Option Nat) (n : Nat) : Dev :=
  let e := d.count o n 1
  match i with
  | none => e
  | some x => e.count x n 1

/-- A switch is deferred while a cluster that it would hand over is scrubbing: once, it is counted and reported, and stays to come
(R335). -/
def Dev.deferSwitch (d : Dev) (o : Nat) (p : Option SwitchPlan) : Dev :=
  if p.any d.host.deferred.contains then d
  else
    let i := p.map fun x => x.incoming
    let e := (d.dropPlan p).countBoth o i 0x009
    ({ e with host := { e.host with deferred := e.host.deferred ++ p.toList } }).notice (.switchDeferred o i)

/-- SYNCHRONISED_STOP: the compositor stops an owner at a tick, or no sooner than 10,000 ticks from now, which it reports (R329); a switch
is deferred while one of its clusters is scrubbing. The switch of an owner that holds no cluster is void. -/
def Dev.startStop (d : Dev) (now o tick : Nat) : Dev :=
  let ks := d.clustersOf o
  let p := d.planOf o tick
  if o = 0 ∨ 64 ≤ o ∨ !(d.ownerAt o).live ∨ (d.stops.find o).isSome then d
  else if ks.isEmpty then d.dropPlan p
  else if ks.any fun k => d.clusters[k].scrubbing then d.deferSwitch o p
  else
    let t := max tick (now + Config.stopLead)
    let e := d.dropPlan p
    let x : StopTree :=
      { owner := o, incoming := p.map fun x => x.incoming, tick := t, due := false, colour := d.clusters[ks.headD 0].ends.colour, halted := []
        tokens := [], flushed := [], messages := [], packets := [], captured := 0, cut := false, saved := [] }
    let f := { e with stops := e.stops.set o x }
    if t = tick then f else f.notice (.stopMoved o t)

/-- The tick of this device at a PTP instant (R329, R344): the compositor converts an instant that the host has agreed for several devices. -/
def State.tickOfPtp (s : State) (instant : Nat) : Nat := instant - s.d.toff

def execSynchronisedStop (owner tick : Nat) (s : State) : Result State := .next (s.withDev (s.d.startStop s.gcycle owner tick))

-- CORE_HALT (R327, R328, R330, R331).

/-- A core halts: its waits are abandoned, a FRAME leaves its state in FRST, and its colour flips. -/
def Core.haltAt (c : Core) (cycle : Nat) : Core :=
  let x := { c.leaveFrame with pc := c.resumeAt c.pc }
  { x with halt := some cycle, ends := { x.ends with colour := !x.ends.colour } }

/-- A child that has not sent Arrive in its phase tells its parent that it goes (R328). -/
def absentee (b : Barrier) : Bool := b.pv && !b.relw

/-- A unit at its cluster's halt: timers stop, and Absent goes to the parents (R327, R328). -/
def EventUnit.halt (u : EventUnit) (self : UnitRef) (o : Nat) : EventUnit × List UnitMsg :=
  ({ u with barriers := u.barriers.map fun b => (b.1, { b.2 with timer := none, sentAbsent := absentee b.2 }) },
    (u.barriers.filter fun b => absentee b.2).map fun b =>
      .absent { owner := o, src := { unit := self, bar := BitVec.ofNat 8 b.1 }, dst := parentRef b.2.parent })

/-- A unit that goes on: Present for each Absent that it sent, and the timers of roots restart from zero (R327, R328). -/
def EventUnit.goOn (u : EventUnit) (self : UnitRef) (o now : Nat) : EventUnit × List UnitMsg :=
  let runs (b : Barrier) : Bool := b.en && !b.pv && decide (b.arrived ≠ 0) && decide (b.absent = 0)
  ({ u with barriers := u.barriers.map fun b => (b.1, { b.2 with sentAbsent := false, timer := if runs b.2 then some now else none }) },
    (u.barriers.filter fun b => b.2.sentAbsent).map fun b =>
      .present { owner := o, src := { unit := self, bar := BitVec.ofNat 8 b.1 }, dst := parentRef b.2.parent })

/-- The unit of a cluster halts with the last of its cores, and its colour flips. -/
def Dev.haltUnit (d : Dev) (k : Fin 32) : Dev :=
  if d.allHalted k then
    let c := d.clusters[k]
    let e := d.setCluster k { c with ends := { c.ends with colour := !c.ends.colour } }
    e.afterUnit k (c.unit.halt (d.unitRef k) c.owner)
  else d

/-- What the engines of the current core do at its halt (R330). -/
def Dev.cutEngines (d : Dev) : Dev := allPorts.foldl Dev.cutCommand d.cutMma

/-- CORE_HALT: a core of an owner whose stop tick has come halts at a cycle: its engines finish what they do, its waits at the event unit
and in the hold queue are given up, and with the last of its cluster's cores the unit halts. -/
def Dev.haltCore (d : Dev) (cycle core : Nat) : Dev :=
  let k := clusterIx core
  match d.stops.find d.clusters[k].owner with
  | none => d
  | some t =>
    if coreExists core && t.due && (d.coreAt core).halt.isNone then
      let e := (d.onCore core Dev.cutEngines).leaveHold k [core]
      ((e.setUnit k (e.clusters[k].unit.forget (core % 128))).setCore ((e.coreAt core).haltAt cycle)).haltUnit k
    else d

def execCoreHalt (core : Nat) (s : State) : Result State := .next (s.withDev (s.d.haltCore s.gcycle core))

-- ROUTER_HALT, FLUSH_TOKEN and CUT_CLOSE (R331, R332).

/-- The dies on which an owner holds clusters. -/
def Dev.diesOf (d : Dev) (o : Nat) : List Nat := ((d.clustersOf o).map fun k => k.val / 8).eraseDups

/-- A router captures the old-colour messages of the owner that it holds; each counts as received. -/
def Dev.captureAt (d : Dev) (t : StopTree) (r : Nat) : Dev × StopTree :=
  let mine (o : Nat) (colour : Bool) (k : Option (Fin 32)) : Bool :=
    decide (o = t.owner) && decide (colour = t.colour) && decide (k.map routerOf = some r)
  let here (f : Flight) : Bool := mine f.owner f.colour (d.localTarget f.msg)
  let held (p : Nat × Packet) : Bool := mine p.2.owner p.2.colour (some p.2.target)
  let ms := d.messages.filter here
  let ps := d.packets.filter held
  ({ d with messages := d.messages.filter fun f => !here f, packets := d.packets.filter fun p => !held p },
    { t with messages := t.messages ++ ms.map fun m => (r, m)
             packets := t.packets ++ ps.map fun p => (r, p.2)
             captured := t.captured + ms.length + ps.length })

/-- The inputs to which the outputs of a router lead, by 5 x router + input: those of its neighbours in the die's mesh of 8 columns of 6, and
its own from its tile, which sends the token back (log 15). -/
def routerOutputs (r : Nat) : List Nat :=
  let x := r % 48 / 6
  let y := r % 6
  (if y < 5 then [5 * (r + 1)] else []) ++ (if 0 < y then [5 * (r - 1) + 1] else []) ++ (if x < 7 then [5 * (r + 6) + 2] else [])
    ++ (if 0 < x then [5 * (r - 6) + 3] else []) ++ [5 * r + 4]

/-- The inputs of a router to which an output leads. -/
def routerInputs (r : Nat) : List Nat :=
  let x := r % 48 / 6
  let y := r % 6
  (if 0 < y then [5 * r] else []) ++ (if y < 5 then [5 * r + 1] else []) ++ (if 0 < x then [5 * r + 2] else [])
    ++ (if x < 7 then [5 * r + 3] else []) ++ [5 * r + 4]

def Dev.setStop (d : Dev) (t : StopTree) : Dev := { d with stops := d.stops.set t.owner t }

/-- ROUTER_HALT of a router of one of an owner's dies: it captures what it holds, and sends the flush token on its outputs. -/
def Dev.haltRouter (d : Dev) (o die router : Nat) : Dev :=
  match d.stops.find o with
  | none => d
  | some t =>
    let r := 48 * die + router
    if die < 4 ∧ router < 48 ∧ t.due = true ∧ (d.diesOf o).contains die = true ∧ t.halted.contains r = false then
      let x := d.captureAt t r
      x.1.setStop { x.2 with halted := x.2.halted ++ [r], tokens := x.2.tokens ++ routerOutputs r }
    else d

/-- FLUSH_TOKEN: a token on its way arrives at a router's input. What arrived there before it at a halted router is captured, and capture
ends there. -/
def Dev.flush (d : Dev) (o die router input : Nat) : Dev :=
  match d.stops.find o with
  | none => d
  | some t =>
    let r := 48 * die + router
    let i := 5 * r + input
    if router < 48 ∧ input < 5 ∧ t.tokens.contains i = true then
      let u := { t with tokens := t.tokens.erase i, flushed := t.flushed ++ [i] }
      let x := if t.halted.contains r then d.captureAt u r else (d, u)
      x.1.setStop x.2
    else d

/-- The stop ticks of the owners that have come by now. What has not halted by the last cycle of the window halts then (R330, R332). -/
def Dev.stopsDue (d : Dev) (now : Nat) : Dev :=
  d.stops.foldl (fun e x =>
    if x.2.tick ≤ now ∧ x.2.cut = false then
      let f := e.setStop { (e.stops.get x.2 x.1) with due := true }
      if x.2.tick + (Config.haltWindow - 1) ≤ now then
        let cores := (f.clustersOf x.1).flatMap fun k => (List.range Config.coresPerCluster).map fun i => 128 * k.val + i
        let g := cores.foldl (fun y c => y.haltCore (x.2.tick + (Config.haltWindow - 1)) c) f
        (g.diesOf x.1).foldl (fun y m => (List.range 48).foldl (fun z r => z.haltRouter x.1 m r) y) g
      else f
    else e) d

/-- The endpoints of a partition: its cores and the units and parts of its clusters. -/
def Dev.endpoints (d : Dev) (o : Nat) : List Endpoint :=
  ((d.cores.filter fun c => decide (d.clusters[clusterIx c.id].owner = o)).map fun c => c.ends)
    ++ (d.clustersOf o).map fun k => d.clusters[k].ends

def Endpoint.sent (e : Endpoint) (colour : Bool) : Nat := if colour then e.sent1 else e.sent0
def Endpoint.recv (e : Endpoint) (colour : Bool) : Nat := if colour then e.recv1 else e.recv0

/-- The sums of the old colour are equal, and everything has halted and been flushed (R332). -/
def Dev.cutReady (d : Dev) (t : StopTree) : Bool :=
  let es := d.endpoints t.owner
  ((d.clustersOf t.owner).all d.allHalted)
    && ((d.diesOf t.owner).all fun x => (List.range 48).all fun r => (routerInputs (48 * x + r)).all t.flushed.contains)
    && decide ((es.map fun e => e.sent t.colour).sum = (es.map fun e => e.recv t.colour).sum + t.captured)

/-- The memory accesses of a cluster are performed, and its partials go to their homes (R174, R330, R337). -/
def Dev.drainCluster (d : Dev) (k : Fin 32) : Dev :=
  let e := d.awaitAcks k .pod
  let mine := e.mem.partials.filter fun p => decide (p.cluster = some k.val)
  mine.foldl (fun f p => if p.dev.isNone then f.giveUp k.val p.base else f.combine p.dev p.request.pa (p.request.ty.bits / 8)) e

/-- CUT_CLOSE. -/
def Dev.closeCut (d : Dev) (o : Nat) : Dev :=
  match d.stops.find o with
  | none => d
  | some t => if !t.cut && d.cutReady t then (((d.clustersOf o).foldl Dev.drainCluster d).setStop { t with cut := true }).count o 0x005 1 else d

/-- The owner whose cut closes next: of those whose cut can, the lowest (log 15). -/
def Dev.nextCut (d : Dev) : Option Nat :=
  (List.range 64).find? fun o => (d.stops.find o).any fun t => !t.cut && d.cutReady t

def execRouterHalt (site : StopSite) (router : Nat) (s : State) : Result State :=
  .next (s.withDev (s.d.haltRouter site.owner site.die router))
def execFlushToken (site : StopSite) (at' : RouterInput) (s : State) : Result State :=
  .next (s.withDev (s.d.flush site.owner site.die at'.router at'.input))
def execCutClose (s : State) : Result State :=
  match s.d.nextCut with
  | none => .next s
  | some o => .next (s.withDev (s.d.closeCut o))

-- The save (R333, R334, R366).

/-- A register as it reads under a generation, and a register with a tag installed. -/
def Tagged.asRead {w : Nat} (g : BitVec 8) (t : Tagged (BitVec w)) : Tagged (BitVec w) := ⟨t.read g, g⟩
def Tagged.retag {α : Type} (g : BitVec 8) (t : Tagged α) : Tagged α := ⟨t.val, g⟩
def Bank.asRead (g : BitVec 8) (b : Bank) : Bank := if b.gen = g then b else ⟨Vector.replicate 512 0, g⟩

/-- The registers of a yielded task changed alike. -/
def Yielded.mapRegs (y : Yielded) (f : {w : Nat} → Tagged (BitVec w) → Tagged (BitVec w)) : Yielded :=
  { y with s := y.s.map f, v := y.v.map f, p := y.p.map f, desc := y.desc.map f, stream := y.stream.map f }

/-- The register files of a core changed alike (R29). -/
def Core.mapRegs (c : Core) (f : {w : Nat} → Tagged (BitVec w) → Tagged (BitVec w)) (b : Bank → Bank) : Core :=
  { c with
    s := c.s.map f, v := c.v.map f, p := c.p.map f, desc := c.desc.map f, stream := c.stream.map f
    acc := c.acc.map fun a => { a with working := b a.working, visible := b a.visible }
    yielded := c.yielded.map fun y => y.mapRegs f }

/-- A scratchpad with every row that holds something under one tag. -/
def Scratch.retag (p : Scratch) (g : BitVec 8) : Scratch :=
  let rows := (p.bytes.map fun c => c.1 / 64) ++ p.full.map fun r => r / 4
  { p with gens := rows.foldl (fun t r => t.set r g) [] }

/-- A core as the save keeps it: values as read (R102, R333). -/
def Core.saved (c : Core) (g : BitVec 8) : Core :=
  { c.mapRegs (Tagged.asRead g) (Bank.asRead g) with pad := c.pad.scrub g }

/-- The image of a cluster (R328, R333, R366). -/
def Dev.imageOf (d : Dev) (k : Fin 32) : ClusterImage :=
  let c := d.clusters[k]
  { number := k.val, unit := c.unit, hold := c.hold, orphans := c.orphans, pending := c.pending }

/-- The frontiers of an owner's live frontier launches, with the points in flight (R333, R388). -/
def Dev.frontiersOf (d : Dev) (o : Nat) : List ((Nat × Nat) × Frontier) :=
  (d.queues.filter fun q => q.2.boundTo o).flatMap fun q => q.2.liveFrontiers.map fun l => ((q.1, l.seq), l.frontier)

/-- The saved copy of a partition. -/
def Dev.contextOf (d : Dev) (t : StopTree) : Context :=
  let mine := d.cores.filter fun c => decide (d.clusters[clusterIx c.id].owner = t.owner)
  { tick := t.tick
    cores := mine.map fun c => c.saved d.clusters[clusterIx c.id].gen
    clusters := (d.clustersOf t.owner).map d.imageOf
    messages := t.messages.map (·.2)
    packets := t.packets.map (·.2)
    frontiers := d.frontiersOf t.owner
    queues := d.queues.filter fun q => q.2.boundTo t.owner
    pieces := d.pieces.filter fun p => (d.queueAt p.2.work.queue).boundTo t.owner
    nextPiece := d.nextPiece
    wayCounters := (d.ownerAt t.owner).wayCounters
    arbCounters := (d.ownerAt t.owner).arbCounters }

/-- The owner to which a switch hands the clusters: the one that comes in while it is a partition, else owner 0 (R23). -/
def Dev.incomingOf (d : Dev) (t : StopTree) : Nat := (t.incoming.filter fun i => (d.ownerAt i).live).getD 0

/-- The switch commits: the copy becomes the context, and every cluster of the owner passes on (R334). -/
def Dev.commitSwitch (d : Dev) (t : StopTree) : Dev :=
  let e := { d with contexts := d.contexts.set t.owner (d.contextOf t), stops := d.stops.erase t.owner }
  (d.clustersOf t.owner).foldl (Dev.changeOwner (d.incomingOf t)) e

/-- The last tick at which a die's save is in time: the deadline counts from T, one tick for a nanosecond (R334, R344). -/
def Dev.deadline (d : Dev) (t : StopTree) : Nat := t.tick + 1000 * d.host.deadlineUs

/-- DIE_SAVE_COMPLETE: with the fourth die in time, the switch commits. -/
def Dev.saveDie (d : Dev) (now o die : Nat) : Dev :=
  match d.stops.find o with
  | none => d
  | some t =>
    if die < 4 ∧ t.cut = true ∧ t.saved.contains die = false ∧ now ≤ d.deadline t then
      let t1 := { t with saved := t.saved ++ [die] }
      if t1.saved.length = 4 then d.commitSwitch t1 else d.setStop t1
    else d

def execDieSaveComplete (site : StopSite) (s : State) : Result State := .next (s.withDev (s.d.saveDie s.gcycle site.owner site.die))

-- Going on after a stop (R334, R336).

/-- A core that goes on: STOP is pending where it was running (R336). -/
def Core.goOn (c : Core) (tick : Nat) : Core :=
  let stops := match c.run with
    | .running => true
    | .halted => true
    | .idle => false
    | .escalated _ _ _ _ => false
  { c with
    halt := none
    ipend := { c.ipend with stop := c.ipend.stop || stops }
    stopTick := if stops then BitVec.ofNat 64 tick else c.stopTick }

/-- The counts of a colour forgotten, once they have been found equal. -/
def Endpoint.clear (colour : Bool) (e : Endpoint) : Endpoint :=
  if colour then { e with sent1 := 0, recv1 := 0 } else { e with sent0 := 0, recv0 := 0 }

/-- The units of an owner's clusters go on. -/
def Dev.unitsGoOn (d : Dev) (now : Nat) (ks : List (Fin 32)) : Dev :=
  ks.foldl (fun e k => e.afterUnit k (e.clusters[k].unit.goOn (e.unitRef k) e.clusters[k].owner now)) d

/-- A message of a save buffer sent on: its target's cluster counts it as sent, in its colour (R331, R336); one for another device leaves
uncounted (log 15). -/
def Dev.reinject (d : Dev) (f : Flight) : Dev :=
  match d.localTarget f.msg with
  | none => { d with messages := d.messages ++ [f] }
  | some k =>
    let c := d.clusters[k]
    { d.setCluster k { c with ends := c.ends.send 1 } with messages := d.messages ++ [{ f with colour := c.ends.colour }] }

/-- A packet of a save buffer sent on. -/
def Dev.reinjectPacket (d : Dev) (p : Packet) : Dev := d.sendOff p.target p

/-- Every router of the device gives up what it holds of the owner's old colour. -/
def Dev.captureAll (d : Dev) (t : StopTree) : Dev × StopTree := (List.range 192).foldl (fun x r => x.1.captureAt x.2 r) (d, t)

/-- The owner resumes from its on-chip state, its accesses performed first (R334, R336, R337). -/
def Dev.abortSwitch (d : Dev) (now : Nat) (t : StopTree) : Dev :=
  let ks := d.clustersOf t.owner
  let x := ({ (if t.cut then d else ks.foldl Dev.drainCluster d) with stops := d.stops.erase t.owner }).captureAll t
  let d1 := ks.foldl (fun e k => e.mapCores k fun c => { c.goOn t.tick with ends := c.ends.clear t.colour }) x.1
  let d2 := ks.foldl (fun e k => e.setCluster k { e.clusters[k] with ends := e.clusters[k].ends.clear t.colour }) d1
  ((x.2.packets.map (·.2)).foldl Dev.reinjectPacket ((x.2.messages.map (·.2)).foldl Dev.reinject d2)).unitsGoOn now ks

/-- SAVE_DEADLINE: a die has missed its deadline, and the switch is aborted on every die (R334). -/
def Dev.missDeadline (d : Dev) (now o die : Nat) : Dev :=
  match d.stops.find o with
  | none => d
  | some t =>
    if die < 4 ∧ t.saved.contains die = false ∧ d.deadline t < now ∧ (d.clustersOf t.owner).all d.allHalted = true then
      ((d.countBoth t.owner t.incoming 0x006).notice (.switchAborted t.owner t.incoming)).abortSwitch now t
    else d

def execSaveDeadline (site : StopSite) (s : State) : Result State := .next (s.withDev (s.d.missDeadline s.gcycle site.owner site.die))

/-- A saved core put back: the current tag is installed (R336). -/
def Core.restored (c : Core) (g : BitVec 8) (tick : Nat) : Core :=
  { (c.mapRegs (Tagged.retag g) (Tagged.retag g)).goOn tick with pad := c.pad.retag g, ends := Endpoint.reset }

/-- A saved cluster put back. -/
def Dev.restoreCluster (d : Dev) (x : ClusterImage) : Dev :=
  let k := Fin.ofNat 32 x.number
  d.setCluster k { d.clusters[k] with unit := x.unit, hold := x.hold, orphans := x.orphans, pending := x.pending }

/-- A saved frontier put back (R336, R388). -/
def Dev.restoreFrontier (d : Dev) (x : (Nat × Nat) × Frontier) : Dev :=
  match (d.queueAt x.1.1).findLaunch x.1.2 with
  | none => d
  | some l => d.setQueue x.1.1 ((d.queueAt x.1.1).setLaunch { l with frontier := x.2 })

/-- What a context holds of its owner besides cores and clusters put back: the frontiers (R388). The counters of its streams, its queues and its
pieces have stayed in place, or came with it (R191, R366). -/
def Dev.restoreOwner (d : Dev) (x : Context) : Dev := x.frontiers.foldl Dev.restoreFrontier d

/-- A saved context as a device saves it: its cores are cores of its clusters, their scratchpads are in canonical form, and its pieces are
numbered below its own bound. -/
def Context.whole (x : Context) : Bool :=
  (x.cores.all fun c => coreExists c.id && c.pad.bytes.wf && x.clusters.any fun k => decide (k.number = c.id / 128))
    && (x.pieces.all fun p => decide (p.1 < x.nextPiece))

/-- The numbers of the pieces that a core knows moved up: of its task, of the tasks that have yielded it, and of the commands that they pushed. -/
def Core.shiftPieces (c : Core) (n : Nat) : Core :=
  let command (x : Command) : Command := { x with task := x.task.map (· + n) }
  { c with
    task := c.task.map fun t => { t with piece := t.piece + n }
    yielded := c.yielded.map fun y => { y with task := { y.task with piece := y.task.piece + n } }
    port := c.port.map fun p => { p with commands := p.commands.map command } }

/-- A context under piece numbers that this device has not yet given (R366). -/
def Context.shiftPieces (x : Context) (n : Nat) : Context :=
  { x with cores := x.cores.map fun c => c.shiftPieces n, pieces := x.pieces.map fun p => (p.1 + n, p.2), nextPiece := x.nextPiece + n }

/-- The queues of a context can stand here under their numbers: each is its owner's, or no owner is bound to it (log 15). -/
def Dev.queuesFree (d : Dev) (o : Nat) (x : Context) : Bool :=
  x.queues.all fun q => q.2.boundTo o && decide (q.1 < 1024) && (decide ((d.queueAt q.1).state = .unbound) || (d.queueAt q.1).boundTo o)

/-- A saved context that is transferred from another device waits here for its owner's clusters; its counters, its queues and its pieces come with
it (R191, R366). -/
def Dev.installContext (d : Dev) (o : Nat) (x : Context) : Dev :=
  if x.whole = false ∨ o = 0 ∨ 64 ≤ o ∨ (d.ownerAt o).live = false ∨ (d.clustersOf o).isEmpty = false ∨ (d.stops.find o).isSome = true
      ∨ d.queuesFree o x = false then d
  else
    let y := x.shiftPieces d.nextPiece
    { d with
      contexts := d.contexts.set o y
      queues := y.queues.foldl (fun (t : Tbl Queue) (q : Nat × Queue) => Tbl.set t q.1 q.2) d.queues
      pieces := y.pieces.foldl (fun (t : Tbl Piece) (p : Nat × Piece) => Tbl.set t p.1 p.2) d.pieces
      nextPiece := y.nextPiece }.setOwner o { d.ownerAt o with wayCounters := x.wayCounters, arbCounters := x.arbCounters }

/-- A core's saved messages are delivered (R336). -/
def Core.takeAll (c : Core) : Core := c.messages.foldl Core.takeMessage { c with inbox := c.named.map .task }

/-- RESTORE: once the owner holds the clusters of its context again; the save buffers are sent on, and each core's messages delivered (R336). -/
def Dev.restore (d : Dev) (now o : Nat) : Dev :=
  match d.contexts.find o with
  | none => d
  | some x =>
    let ks := x.clusters.map fun c => Fin.ofNat 32 c.number
    if ks.all fun k => decide (d.clusters[k].owner = o) then
      let d1 := ({ d with contexts := d.contexts.erase o }).restoreOwner x
      let d2 := x.clusters.foldl Dev.restoreCluster d1
      let d3 := x.cores.foldl (fun e c => e.setCore (c.restored e.clusters[clusterIx c.id].gen x.tick)) d2
      let d4 := (x.packets.foldl Dev.reinjectPacket (x.messages.foldl Dev.reinject d3)).unitsGoOn now ks
      (x.cores.foldl (fun e c => e.setCore (e.coreAt c.id).takeAll) d4).postOrphan o
    else d

def execRestore (owner : Nat) (s : State) : Result State := .next (s.withDev (s.d.restore s.gcycle owner))

end Sys2Proof.Machine
end

