-- ==== Sys2Proof/Machine/HostPort.lean ====
section
/-! DEFINITION. The host port: sessions and requests, bring-up, power, firmware and attestation (R415 to R428). -/
namespace Sys2Proof.Machine

-- Headers (R418, R419, R421).

/-- The number of a STATUS (R419). -/
def ReplyStatus.code : ReplyStatus → BitVec 8
  | .ok => 0x00 | .badreq => 0x01 | .nopart => 0x02 | .nofit => 0x03 | .notready => 0x04 | .busy => 0x05 | .auth => 0x06 | .rollback => 0x07

/-- The four doublewords of a header (R418). -/
def headerWords (h : ReqHeader) (code : BitVec 16) : List Word :=
  [code ++ h.session ++ h.seq, h.length ++ h.rsv8 ++ h.status, h.rsv16 ++ h.part, h.rsv24]

/-- CODE and the header that four doublewords hold, from an endpoint at a port (R418). -/
def headerOfWords (endpoint port : Nat) (w0 w1 w2 w3 : Word) : BitVec 16 × ReqHeader :=
  (w0.extractLsb' 48 16,
    { session := w0.extractLsb' 32 16, seq := w0.extractLsb' 0 32, length := w1.extractLsb' 32 32, rsv8 := w1.extractLsb' 8 24
      status := w1.extractLsb' 0 8, rsv16 := w2.extractLsb' 6 58, part := w2.extractLsb' 0 6, rsv24 := w3, endpoint := endpoint, port := port })

/-- The header of a response (R418): the request's CODE, SESSION, SEQ and PART, with the result in STATUS. -/
def Reply.words (r : Reply) : List Word :=
  headerWords { session := r.header.session, seq := r.header.seq, part := r.header.part, length := r.length, status := r.status.code } r.code

/-- The header of the i-th notice (R421): SESSION is 0; its CODE, SEQ and LENGTH are not stated. -/
def Notice.words (i : Nat) : List Word :=
  let x := Config.noticeField i
  headerWords { session := 0, seq := x.extractLsb' 0 32, part := 0, length := x.extractLsb' 32 32 } (x.extractLsb' 64 16)

/-- A request with no content has LENGTH 0; any other has a body of whole doublewords (R427). -/
def lengthOk (h : ReqHeader) : HostReq → Bool
  | .destroy => decide (h.length = 0)
  | .create _ | .map _ | .unmap _ | .load _ | .bind _ | .launch _ | .sched _ | .core _ | .power _ | .attest _ | .firmware _ | .ptpcfg _ =>
    decide (h.length ≠ 0) && decide (h.length.toNat % 8 = 0)
  | .other _ => true

/-- A header that its request may have: STATUS and the reserved bits are 0, and LENGTH fits (R418, R427). -/
def headerFits (h : ReqHeader) (r : HostReq) : Bool :=
  decide (h.status = 0) && decide (h.rsv8 = 0) && decide (h.rsv16 = 0) && decide (h.rsv24 = 0) && lengthOk h r

-- Answers.

/-- What the compositor says to a request: an answer; none yet, while the request's effect is held (R365); or nothing at all, while the
request itself has to wait and nothing of it is done (R428). -/
inductive Verdict where
  | answer (st : ReplyStatus) (b : ReplyBody)
  | held
  | later
  deriving DecidableEq, Repr

/-- The device after a request, and what the compositor says. -/
abbrev Answer := Dev × Verdict

/-- A refusal changes nothing. -/
def Dev.refuseReq (d : Dev) (st : ReplyStatus) : Answer := (d, .answer st .empty)
def Dev.okReq (d : Dev) : Answer := (d, .answer .ok .empty)

/-- A request that addresses a partition (R419, R420). -/
def Dev.ofPartition (d : Dev) (o : Nat) (k : Answer) : Answer := if o = 0 ∨ !(d.ownerAt o).live then d.refuseReq .nopart else k

/-- A function has not reported since power-on (R422). -/
def Dev.notReady (d : Dev) (u : DevUnit) : Bool := d.host.unreported.contains u
/-- No control complex has reported. -/
def Dev.noControl (d : Dev) : Bool := (List.range 4).all fun i => d.notReady (.control i)

/-- A channel that holds a granule of n bytes of local memory from an address has not reported. -/
def Dev.rangeNotReady (d : Dev) (a n : Nat) : Bool :=
  (List.range (n / 4096)).any fun i => d.notReady (.channel (homeStack (a + 4096 * i)) (homeChannel (a + 4096 * i)))

/-- The answer to a request that placed tables: NOTREADY, with nothing changed, where they would lie in a channel that has not reported
(R422). -/
def Dev.okTables (d e : Dev) : Answer :=
  if d.rangeNotReady e.host.tableTop (d.host.tableTop - e.host.tableTop) then d.refuseReq .notready else e.okReq

-- CREATE and DESTROY (R23, R188, R204, R209, R419).

/-- A body of CREATE that can be meant. -/
def createOk (b : CreateBody) : Bool :=
  !b.clusters.isEmpty && decide b.clusters.Nodup && b.clusters.all (fun k => decide (k < 32))
    && decide (b.weights.length = 8) && b.weights.all (fun w => decide (1 ≤ w ∧ w ≤ 8))
    && decide (b.minima.length = 8) && b.minima.all (fun m => decide (m ≤ 1024))

/-- The minima of a new partition fit at every class (R209). -/
def Dev.minimaFit (d : Dev) (b : CreateBody) : Bool :=
  (List.range 8).all fun c => decide (64 + d.minimaSum c + b.minima.getD c 0 ≤ d.available c)

/-- A new partition: its seed from the true random number generator, its page-table root, sample ring and proof buffer placed by the
compositor, and its clusters (R23, R149, R188, R341, R345; log 8). -/
def Dev.newPartition (d : Dev) (o : Nat) (b : CreateBody) : Option Dev :=
  match d.newTable 131072 with
  | none => none
  | some p =>
    match p.2.newTable 32768 with
    | none => none
    | some r =>
      match r.2.newTable 4096 with
      | none => none
      | some s =>
        let x : Owner :=
          { Owner.reset with
            live := true, root := some r.1, ring := some (s.1, 6), proofBuffer := some p.1
            oseed := Config.trng d.draws, oldSeed := Config.trng d.draws, seedVisible := b.seedVisible
            weights := Vector.ofFn fun c : Fin 8 => b.weights.getD c.val 1
            minima := Vector.ofFn fun c : Fin 8 => b.minima.getD c.val 0
            minimaNow := Vector.ofFn fun c : Fin 8 => b.minima.getD c.val 0 }
        some ((b.clusters.map (Fin.ofNat 32)).foldl (Dev.changeOwner o) ({ s.2 with draws := d.draws + 1 }.setOwner o x))

/-- CREATE (R23, R160, R209, R419, R422). While the clusters are not clocked it is NOTREADY too, since no partition may exist then (R423; DESIGN
CHOICE, log 18). -/
def Dev.reqCreate (d : Dev) (o : Nat) (b : CreateBody) : Answer :=
  let ks := b.clusters.map (Fin.ofNat 32)
  if o = 0 || (d.ownerAt o).live || !createOk b then d.refuseReq .badreq
  else if d.noControl || !d.clocked || ks.any (fun k => d.notReady (.cluster k.val)) then d.refuseReq .notready
  else if d.clusters.toList.any fun c => c.scrubbing && (decide (c.former = o) || decide (c.next = some o)) then d.refuseReq .busy
  else if ks.any (fun k => decide (d.clusters[k].owner ≠ 0) || d.clusters[k].retired) || !d.minimaFit b then d.refuseReq .nofit
  else if ks.any fun k => d.clusters[k].scrubbing then d.refuseReq .busy
  else
    match d.newPartition o b with
    | none => d.refuseReq .nofit
    | some e => d.okTables e

/-- Every pending launch of a queue completes as aborted; n bounds them (R364, R419). A completion word whose page is migrating is
dropped (log 17). -/
def Dev.abortLaunches (d : Dev) (q : Nat) : Nat → Dev
  | 0 => d
  | n + 1 =>
    match (d.queueAt q).pending with
    | [] => d
    | l :: _ =>
      match d.completeOldest q l.seq with
      | some e => e.abortLaunches q n
      | none => (d.setQueue q (d.queueAt q).afterCompletion).abortLaunches q n

/-- A queue of a partition that ends: closed in abort mode, its launches completed, and unbound. -/
def Dev.endQueue (d : Dev) (q : Nat) : Dev :=
  let e := d.closeQueue q true
  let f := (e.abortLaunches q (e.queueAt q).pending.length).retryUnmaps
  f.setQueue q Queue.reset

/-- The frames of a partition that ends are owner 0's (R161, R193). -/
def Dev.freeFrames (d : Dev) (o : Nat) : Dev :=
  let gs := (d.mem.frames.filter fun x => decide (x.2 = o)).map (·.1)
  let e := gs.foldl (Dev.recordFrame 0 false) d
  e.setMem { e.mem with maps := e.mem.maps.filter fun x => !gs.contains x.1, cellMaps := e.mem.cellMaps.filter fun x => !gs.contains x.1 }

/-- What else is the partition's on the device is dropped, and with it the requests that wait at instances (DESIGN CHOICE, log 18). -/
def Dev.dropPartition (d : Dev) (o : Nat) : Dev :=
  { d with
    messages := d.messages.filter fun f => decide (f.owner ≠ o)
    packets := d.packets.filter fun p => decide (p.2.owner ≠ o)
    contexts := d.contexts.erase o
    pieces := d.pieces.filter fun p => decide ((d.queueAt p.2.work.queue).owner ≠ o)
    arbiters := d.arbiters.map fun a => (a.1, { a.2 with waiting := a.2.waiting.filter fun r => decide (r.owner ≠ o) })
    trigger := match d.trigger with
      | none => none
      | some t => if t.owner = o then none else some t
    stops := d.stops.erase o }

/-- The partition ends (R23, R24, R177, R364, R419). -/
def Dev.endPartition (d : Dev) (o : Nat) : Dev :=
  let ks := d.clustersOf o
  let d1 := ks.foldl (fun e k => (e.drainCluster k).resolveOrphans true (fun _ => true) k) d
  let qs := (d1.queues.filter fun q => q.2.boundTo o).map (·.1)
  let d2 := ks.foldl (Dev.changeOwner 0) (d1.dropPartition o)
  ((qs.foldl Dev.endQueue d2).freeFrames o).setOwner o Owner.reset

def Dev.reqDestroy (d : Dev) (o : Nat) : Answer := d.ofPartition o (d.endPartition o).okReq

-- MAP and UNMAP (R365, R419, R420, R422).

/-- A channel that holds granules of a page has not reported. -/
def Dev.pageNotReady (d : Dev) (e : Word) : Bool :=
  !pteRmt e && ((List.range (min 256 (pageBytes e / 4096))).any fun i =>
    let pa := pteAddr e + 4096 * i
    d.notReady (.channel (homeStack pa) (homeChannel pa)))

def Dev.reqMap (d : Dev) (o : Nat) (b : MapBody) : Answer :=
  d.ofPartition o <|
    if (List.range b.pages).any fun i => d.pageNotReady (mapEntry b i) then d.refuseReq .notready
    else
      match d.doMap o b with
      | none => d.refuseReq .badreq
      | some e => d.okTables e

def Dev.reqUnmap (d : Dev) (h : ReqHeader) (b : UnmapBody) : Answer :=
  let o := h.part.toNat
  d.ofPartition o <|
    if !d.unmapOk o b then d.refuseReq .badreq
    else if d.unmapHeld o b then
      ({ d with host := { d.host with unmaps := d.host.unmaps ++ [{ header := h, body := b, queues := d.unmapQueues o b }] } }, .held)
    else (d.unmapPages o b).okReq

-- LOAD (R103, R350, R419).

/-- Bytes written by the compositor at addresses of a partition; none where one is not mapped to memory that takes them. -/
def Dev.loadBytes (d : Dev) (o : Nat) : Word → List Byte → Option Dev
  | _, [] => some d
  | va, b :: t =>
    match d.walk o va with
    | .fails _ => none
    | .leaf e _ =>
      if pteMig e || pteDec e || remoteRefuses e || inLocalRange va then none
      else ((d.atHome (leafDev e) (leafPa e va) (grainBytes e) 0 (some (leafPa e va, 1)) none).homeUpdate (leafDev e) none (leafPa e va) [b]).loadBytes o (va + 1) t

/-- The pieces of a file loaded, each after the tables of its pages have been read (R193). -/
def Dev.loadAll (d : Dev) (o : Nat) : List (Word × List Byte) → Option Dev
  | [] => some d
  | x :: t =>
    (((pageStarts x.1 x.2.length).foldl (fun e a => e.tablesRead o a) d).loadBytes o x.1 x.2).bind fun e => e.loadAll o t

/-- The bytes that a LOAD places: those of the object file, and the descriptors built from its kernel entries (R350). -/
def loadWrites (b : LoadBody) : List (Word × List Byte) :=
  b.image ++ b.kernels.map fun k => (k.desc, (entryDescriptor k).flatMap fun w => leBytes 8 w.toNat)

/-- A byte of a partition lies in a channel that has not reported (R422). -/
def Dev.byteNotReady (d : Dev) (o : Nat) (va : Word) : Bool :=
  match d.walk o va with
  | .fails _ => false
  | .leaf e _ => !pteRmt e && d.notReady (.channel (homeStack (leafPa e va)) (homeChannel (leafPa e va)))

/-- A core of the partition that may be started: it is free and has never had work of its own. -/
def Dev.startOk (d : Dev) (o : Nat) (x : CoreStart) : Bool :=
  coreExists x.core && decide (d.clusters[clusterIx x.core].owner = o) && (d.coreAt x.core).isIdle

/-- The compositor writes TVEC, TSTACK, SAVEAREA and CTXBUF of a core and starts it at the entry (R103). -/
def Core.startAt (c : Core) (x : CoreStart) : Core :=
  { ((((c.writeCreg .tvec x.tvec).writeCreg .tstack x.tstack).writeCreg .savearea x.savearea).writeCreg .ctxbuf x.ctxbuf) with
    pc := x.entry, run := .running, status := Status.reset, stall := 0 }

def Dev.reqLoad (d : Dev) (o : Nat) (b : LoadBody) : Answer :=
  d.ofPartition o <|
    if !(b.kernels.all entryOk) || !(b.starts.all (d.startOk o)) then d.refuseReq .badreq
    else if (loadWrites b).any fun x => (List.range x.2.length).any fun i => d.byteNotReady o (x.1 + BitVec.ofNat 64 i) then d.refuseReq .notready
    else
      match d.loadAll o (loadWrites b) with
      | none => d.refuseReq .badreq
      | some e =>
        let f := e.setOwner o { e.ownerAt o with loaded := (e.ownerAt o).loaded ++ [Config.shake256 b.file] }
        (b.starts.foldl (fun g x => g.setCore ((g.coreAt x.core).startAt x)) f).okReq

-- BIND (R348, R364).

/-- An 8-byte completion word in a writable page (R348). -/
def Dev.wordOk (d : Dev) (o : Nat) (va : Word) : Bool :=
  decide (va.toNat % 8 = 0) && !inLocalRange va &&
    match d.walk o va with
    | .fails _ => false
    | .leaf e _ => pteW e && !pteDec e && !pteSl e

def Dev.reqBind (d : Dev) (o : Nat) (b : BindBody) : Answer :=
  d.ofPartition o <|
    let x := d.queueAt b.q
    if 1024 ≤ b.q ∨ 4 ≤ b.prio then d.refuseReq .badreq
    else if b.unbind then
      if !x.boundTo o then d.refuseReq .badreq
      else if x.state ≠ .closed then d.refuseReq .busy
      else (d.setQueue b.q Queue.reset).okReq
    else if !(decide (x.state = .unbound) || (x.boundTo o && decide (x.state = .closed))) || !d.wordOk o b.word then d.refuseReq .badreq
    else (d.setQueue b.q { Queue.reset with state := .opened, owner := o, prio := b.prio, word := b.word }).okReq

-- LAUNCH (R428).

/-- The number under which the compositor acts for a cluster: no core of the grid has it. -/
def hostCore (k : Fin 32) : Nat := 128 * k.val + 127

/-- An instruction of the current core tried again after each walk that it asks for, n of them at most. -/
def Dev.afterWalks (f : Dev → Act) : Nat → Dev → Act
  | 0, d => f d
  | n + 1, d =>
    match f d with
    | .error (.left e _) => Dev.afterWalks f n e
    | .error (.wait r) => .error (.wait r)
    | .error (.trap t) => .error (.trap t)
    | .error (.walkedTrap e t) => .error (.walkedTrap e t)
    | .ok e => .ok e

/-- LAUNCH performed as a core of a cluster of the owner would perform it at user level: rd is s2, ra is s1. Its record, descriptor, anchor
and frontier record lie in twenty-two pages at most. -/
def Dev.launchFor (d : Dev) (o : Nat) (k : Fin 32) (b : LaunchBody) : Except Stop (Dev × Nat) :=
  let c : Core := { Core.reset (hostCore k) with status := { Status.reset with pl := .user } }
  let was := d.clusters[k].owner
  let v := { d.setCluster k { d.clusters[k] with owner := o } with core := c, others := d.others.set d.core.id d.core }
  (Dev.afterWalks (fun e => e.doLaunch 2 1 b.q) 24 (v.wr 1 b.record)).map fun e =>
    let n := (e.rd 2).toNat
    let f := { e with core := e.coreAt d.core.id, others := e.others.erase d.core.id }
    (f.setCluster k { f.clusters[k] with owner := was }, n)

/-- The launch that a queue appended last needs a galley that has not reported (R422). -/
def Dev.galleyNotReady (d : Dev) (q : Nat) : Bool :=
  ((d.queueAt q).pending.getLast?).any fun l => recFrontier l.record && d.notReady (.galley l.place.dieOf)

/-- A LAUNCH that has to wait, as for a migrating page, is neither performed nor answered: it is tried again (R428). -/
def Dev.reqLaunch (d : Dev) (o : Nat) (b : LaunchBody) : Answer :=
  d.ofPartition o <|
    if 1024 ≤ b.q then d.refuseReq .badreq
    else
    match d.launchFor o ((d.clustersOf o).headD 0) b with
    | .ok r =>
      if r.2 = 0 then d.refuseReq .busy
      else if r.1.galleyNotReady b.q then d.refuseReq .notready
      else (r.1, .answer .ok (.sequence r.2))
    | .error (.wait _) | .error (.left _ _) => (d, .later)
    | .error (.trap t) | .error (.walkedTrap _ t) => (d, .answer .badreq (.cause t.code t.faddr t.finfo))

-- SCHED, CORE and PTPCFG (R94, R334, R417, R419).

/-- An owner that a schedule may name: the system class, or a partition that is there (R420). -/
def Dev.scheduled (d : Dev) (o : Nat) : Bool := decide (o = 0) || (d.ownerAt o).live

def Dev.reqSched (d : Dev) (b : SchedBody) : Answer :=
  if b.deadlineUs < 50 ∨ 1000 < b.deadlineUs ∨ !(b.switches.all fun x => decide (x.outgoing < 64) && decide (x.incoming < 64)) then
    d.refuseReq .badreq
  else if !(b.switches.all fun x => d.scheduled x.outgoing && d.scheduled x.incoming) then d.refuseReq .nopart
  else ({ d with host := { d.host with switches := b.switches, deadlineUs := b.deadlineUs } }).okReq

/-- A control register of a core rewritten by the compositor; none for a STATUS that a compute core cannot hold (R86). -/
def Core.rewrite (c : Core) (r : CReg) (x : Word) : Option Core :=
  match r with
  | .status =>
    match levelOf (x.extractLsb' 0 2), levelOf (x.extractLsb' 4 2) with
    | some pl, some ppl => some { c with status := { cons := bit x 6, ppl := ppl, pie := bit x 3, ie := bit x 2, pl := pl } }
    | _, _ => none
  | .fflags => some { c with fflags := Flags.ofWord x }
  | _ => some (c.writeCreg r x)

def Core.rewriteAll (c : Core) : List (CReg × Word) → Option Core
  | [] => some c
  | x :: t => (c.rewrite x.1 x.2).bind fun e => e.rewriteAll t

def Core.isEscalated (c : Core) : Bool :=
  match c.run with
  | .escalated _ _ _ _ => true
  | .idle | .running | .halted => false

/-- CORE: the core's state rewritten, a FRAME that was active left as a trap leaves it, and the core resumed (R94, R99; log 21). -/
def Dev.reqCore (d : Dev) (o : Nat) (b : CoreBody) : Answer :=
  d.ofPartition o <|
    let c := d.coreAt b.core
    let k := clusterIx b.core
    if !coreExists b.core || decide (d.clusters[k].owner ≠ o) || !c.isEscalated then d.refuseReq .badreq
    else
      match (b.regs.foldl (fun x r => x.writeS d.clusters[k].gen r.1 r.2) c.leaveFrame).rewriteAll b.ctrl with
      | none => d.refuseReq .badreq
      | some x => (d.setCore { x with run := .running, pc := b.pc.getD x.pc, stall := 0 }).okReq

def Dev.reqPtpcfg (d : Dev) (b : PtpcfgBody) : Answer :=
  if b.roles.length ≠ 12 then d.refuseReq .badreq
  else ({ d with host := { d.host with domain := b.domain, roles := b.roles, podTable := b.podTable } }).okReq

-- POWER (R423).

/-- A tenant partition exists. -/
def Dev.tenants (d : Dev) : Bool := (List.range 64).any fun o => decide (o ≠ 0) && (d.ownerAt o).live

/-- Clusters that lose power lose their state: cores, slices and units. What the slices had accepted is performed first. -/
def Dev.clustersOff (d : Dev) : Dev :=
  let e := ((List.range 32).map (Fin.ofNat 32)).foldl Dev.drainCluster d
  { e with
    core := Core.reset e.core.id, others := [], clusters := e.clusters.map fun c => { Cluster.reset with retired := c.retired }
    mem := { e.mem with copies := [] } }

/-- The clusters in service, as functions. -/
def Dev.clusterFunctions (d : Dev) : List DevUnit :=
  ((List.range 32).map DevUnit.cluster).filter fun u => !d.isOut u

def Dev.reqPower (d : Dev) (b : PowerBody) : Answer :=
  let off := decide (b.state = .standby) || decide (b.state = .sleep)
  if off && d.tenants then d.refuseReq .busy
  else if decide (b.state = .capped) && (decide (b.limit < 1000) || decide (1900 < b.limit)) then d.refuseReq .badreq
  else
    let e := if b.state = .sleep ∧ d.host.power ≠ .sleep then d.clustersOff else d
    let f := if d.host.power = .sleep ∧ b.state ≠ .sleep then
        { e with host := { e.host with unreported := e.host.unreported ++ d.clusterFunctions } } else e
    ({ f with host := { f.host with power := b.state, powerLimit := if decide (b.state = PowerState.capped) then b.limit else f.host.powerLimit } }).okReq

-- ATTEST and FIRMWARE (R425, R426).

/-- The report before its signature (R426; log 8). -/
def Dev.reportText (d : Dev) (o : Nat) (nonce : BitVec 256) : List Byte :=
  leBytes 32 nonce.toNat ++ leBytes 8 d.deviceId.toNat ++ leBytes 8 d.host.fused ++ leBytes 32 d.host.firmware.toNat
    ++ leBytes 32 Config.compositorDigest.toNat
    ++ (if o = 0 then [] else (d.ownerAt o).loaded.flatMap fun x => leBytes 32 x.toNat)

def Dev.reqAttest (d : Dev) (o : Nat) (b : AttestBody) : Answer :=
  if o ≠ 0 ∧ !(d.ownerAt o).live then d.refuseReq .nopart
  else
    let t := d.reportText o b.nonce
    (d, .answer .ok (.report (t ++ Config.identitySignature t)))

def Dev.reqFirmware (d : Dev) (b : FirmwareBody) : Answer :=
  let x := Config.shake256 b.image
  if !Config.firmwareSignatureOk x b.signature then d.refuseReq .auth
  else if b.version < d.host.fused then d.refuseReq .rollback
  else ({ d with host := { d.host with accepted := some (x, b.version) } }).okReq

-- Requests in their sessions (R418, R420, R427).

def HostReq.isCreate : HostReq → Bool
  | .create _ => true
  | _ => false
/-- A code that R419 does not assign. -/
def HostReq.isOther : HostReq → Bool
  | .other _ => true
  | _ => false

/-- A request performed. A code that is not assigned is BADREQ, whatever PART is; PART of any other request but CREATE names a partition that
is there, or is 0 (R418 to R420). -/
def Dev.answer (d : Dev) (h : ReqHeader) (r : HostReq) : Answer :=
  let o := h.part.toNat
  if d.noControl then d.refuseReq .notready
  else if !headerFits h r || r.isOther then d.refuseReq .badreq
  else if o ≠ 0 ∧ !(d.ownerAt o).live ∧ !r.isCreate then d.refuseReq .nopart
  else
    match r with
    | .create b => d.reqCreate o b
    | .destroy => d.reqDestroy o
    | .map b => d.reqMap o b
    | .unmap b => d.reqUnmap h b
    | .load b => d.reqLoad o b
    | .bind b => d.reqBind o b
    | .launch b => d.reqLaunch o b
    | .sched b => d.reqSched b
    | .core b => d.reqCore o b
    | .power b => d.reqPower b
    | .attest b => d.reqAttest o b
    | .firmware b => d.reqFirmware b
    | .ptpcfg b => d.reqPtpcfg b
    | .other _ => d.refuseReq .badreq

def Dev.setSession (d : Dev) (k : Nat) (x : Session) : Dev := { d with host := { d.host with sessions := d.host.sessions.set k x } }

/-- A request in its turn: performed, answered once, and the next SEQ is due; a LAUNCH that has to wait keeps the turn of its session. -/
def Dev.performReq (d : Dev) (h : ReqHeader) (r : HostReq) (x : Session) : Dev :=
  let a := (d.setSession h.session.toNat { x with next := h.seq + 1 }).answer h r
  match a.2 with
  | .held => a.1
  | .answer st b => a.1.reply r.code h st b
  | .later => d.setSession h.session.toNat { x with later := some (h, r) }

/-- The request of a session whose turn it is: the one that waits in its turn, or a held one (R420). -/
def Session.due (x : Session) : Option (ReqHeader × HostReq) := x.later.or (x.held.find? fun y => decide (y.1.seq = x.next))

/-- Held requests whose turn has come, n at most, until one has to wait. -/
def Dev.performHeld (d : Dev) (k : Nat) : Nat → Dev
  | 0 => d
  | n + 1 =>
    match d.host.sessions.find k with
    | none => d
    | some x =>
      match x.due with
      | none => d
      | some y =>
        let e := d.performReq y.1 y.2 { x with later := none, held := x.held.filter fun z => decide (z.1.seq ≠ x.next) }
        if ((e.host.sessions.find k).bind (·.later)).isSome then e else e.performHeld k n

/-- What a session has waiting is tried again: its LAUNCH, and then the held requests (R420). -/
def Dev.retrySession (d : Dev) (k : Nat) : Dev := d.performHeld k (Config.heldRequests + 1)

/-- Every session in which a LAUNCH waits tries it again: what it waits for may have come with another session's request, or with time. -/
def Dev.retryWaiting (d : Dev) : Dev :=
  ((d.host.sessions.filter fun x => x.2.later.isSome).map (·.1)).foldl Dev.retrySession d

/-- A request arrives (R420): performed in its turn with those that waited for it, held, answered again, or refused as BUSY. -/
def Dev.request (d : Dev) (h : ReqHeader) (r : HostReq) : Dev :=
  let k := h.session.toNat
  let x := (d.host.sessions.find k).getD { next := h.seq, replies := [], held := [], later := none }
  match x.replies.find? fun y => decide (y.header.seq = h.seq) with
  | some y => d.sendReply y
  | none =>
    if (x.held.any fun y => decide (y.1.seq = h.seq)) || (x.later.any fun y => decide (y.1.seq = h.seq))
        || (d.host.unmaps.any fun y => decide (y.header.session = h.session) && decide (y.header.seq = h.seq)) then d
    else if h.seq = x.next then ((d.performReq h r x).retrySession k).retryWaiting
    else if Config.heldRequests ≤ x.held.length then d.sendReply { code := r.code, header := h, status := .busy, body := .empty }
    else (d.setSession k { x with held := x.held ++ [(h, r)] }).retryWaiting

/-- The compositor takes a packet only from an endpoint of the host table (R416). -/
def Dev.fromEndpoint (d : Dev) (endpoint : Nat) (e : Dev) : Dev := if d.host.hostTable.contains endpoint then e else d

/-- The outcome of a request's arrival at a port: one that is not up takes no packet (R422, R423). -/
def hostRequest (h : ReqHeader) (r : HostReq) (s : State) : Result State :=
  .next (s.withDev (if s.d.portUp h.port then s.d.fromEndpoint h.endpoint (s.d.request h r) else s.d))

def execCreate (h : ReqHeader) (body : CreateBody) (s : State) : Result State := hostRequest h (.create body) s
def execDestroy (h : ReqHeader) (s : State) : Result State := hostRequest h .destroy s
def execMap (h : ReqHeader) (body : MapBody) (s : State) : Result State := hostRequest h (.map body) s
def execUnmap (h : ReqHeader) (body : UnmapBody) (s : State) : Result State := hostRequest h (.unmap body) s
def execLoad (h : ReqHeader) (body : LoadBody) (s : State) : Result State := hostRequest h (.load body) s
def execBind (h : ReqHeader) (body : BindBody) (s : State) : Result State := hostRequest h (.bind body) s
def execHostLaunch (h : ReqHeader) (body : LaunchBody) (s : State) : Result State := hostRequest h (.launch body) s
def execSched (h : ReqHeader) (body : SchedBody) (s : State) : Result State := hostRequest h (.sched body) s
def execCoreRequest (h : ReqHeader) (body : CoreBody) (s : State) : Result State := hostRequest h (.core body) s
def execPower (h : ReqHeader) (body : PowerBody) (s : State) : Result State := hostRequest h (.power body) s
def execAttest (h : ReqHeader) (body : AttestBody) (s : State) : Result State := hostRequest h (.attest body) s
def execFirmware (h : ReqHeader) (body : FirmwareBody) (s : State) : Result State := hostRequest h (.firmware body) s
def execPtpcfg (h : ReqHeader) (body : PtpcfgBody) (s : State) : Result State := hostRequest h (.ptpcfg body) s

/-- OTHER_REQUEST_CODE. With a code that R419 assigns it is a request whose LENGTH or fields break its series' layout, which is answered
BADREQ too and changes nothing (R427). -/
def execOtherRequestCode (h : ReqHeader) (code : BitVec 16) (s : State) : Result State := hostRequest h (.other code) s

-- Packets (R415, R416).

/-- PACKET_DROP: a packet that asks for an unsupported service is dropped and counted at its port. -/
def Dev.dropPacket (d : Dev) (port : Nat) : Dev :=
  if d.portUp port then { d with host := { d.host with portErrors := d.host.portErrors.set port (d.host.portErrors.get 0 port + 1) } }
  else d

def execPacketDrop (port : Nat) (s : State) : Result State := .next (s.withDev (s.d.dropPacket port))
/-- UNLISTED_ENDPOINT: what it sends is dropped, and nothing answered (R416). What an endpoint of the host table sends is another step's. -/
def execUnlistedEndpoint (endpoint : Nat) (s : State) : Result State := .next (s.withDev (s.d.fromEndpoint endpoint s.d))
/-- The host table written at provisioning (R416). -/
def Dev.provision (d : Dev) (endpoints : List Nat) : Dev := { d with host := { d.host with hostTable := endpoints } }
/-- DEVICE_IDENTIFIER_ASSIGNMENT (R416). -/
def execDeviceIdentifierAssignment (id : BitVec 12) (s : State) : Result State := .next (s.withDev { s.d with deviceId := id })

-- Bring-up (R422, R425).

/-- Every function of the device. -/
def allFunctions : List DevUnit :=
  (List.range 4).map DevUnit.control ++ (List.range 12).map DevUnit.port ++ (List.range 6).map DevUnit.link
    ++ ((List.range 8).flatMap fun s => (List.range 32).map fun c => DevUnit.channel s c)
    ++ (List.range 32).map DevUnit.cluster ++ (List.range 4).map DevUnit.galley

/-- What the device keeps without power, beside the other devices' memories: the host table, the fuses, an image that was accepted; and the
model's count of free draws. -/
def Dev.afterPowerLoss (d : Dev) : Dev :=
  { Dev.reset with
    core := Core.reset d.core.id, draws := d.draws, mem := { MemState.reset with pod := d.mem.pod }
    host := { HostPort.reset with
      hostTable := d.host.hostTable, fused := d.host.fused, firmware := d.host.firmware, accepted := d.host.accepted
      notices := d.host.notices, sent := d.host.sent } }

/-- POWER_ON: every function starts its checks; an accepted image takes effect and raises the counter (R422, R425). -/
def Dev.powerUp (d : Dev) : Dev :=
  let e := d.afterPowerLoss
  let h := match e.host.accepted with
    | none => e.host
    | some x => { e.host with firmware := x.1, fused := x.2, accepted := none }
  { e with host := { h with powered := true, unreported := allFunctions } }

/-- The dies that a link joins; that links are numbered by pair in ascending order is the model's choice (R10; log 18). -/
def linkDies (n : Nat) : List Nat := [[0, 1], [0, 2], [0, 3], [1, 2], [1, 3], [2, 3]].getD n []

/-- The dies whose control complexes report before a function (R422): a link is a function of both of its dies. -/
def functionDies : DevUnit → List Nat
  | .port n => [n / 3]
  | .link n => linkDies n
  | .channel s _ => [s / 2]
  | .cluster n => [n / 8]
  | .galley n => [n]
  | .control _ => []

/-- FUNCTION_CHECK_END: a ready or a retire notice, once the control complexes of its dies have reported (R19, R422). -/
def Dev.checkEnd (d : Dev) (f : DevUnit) (passed : Bool) : Dev :=
  let early := (functionDies f).any fun x => d.notReady (.control x)
  if !d.notReady f || early then d
  else
    let e := { d with host := { d.host with unreported := d.host.unreported.filter fun u => decide (u ≠ f) } }
    if passed then (e.setOut f false).notice (.ready f) else ((e.setOut f true).rescale).notice (.retired f)

def execPowerOn (s : State) : Result State := .next (s.withDev s.d.powerUp)
def execFunctionCheckEnd (f : DevUnit) (passed : Bool) (s : State) : Result State := .next (s.withDev (s.d.checkEnd f passed))

-- Thermal protection (R424).

def Dev.throttle (d : Dev) : Dev := { d with host := { d.host with throttled := true } }.notice .throttle
def Dev.recover (d : Dev) : Dev := { d with host := { d.host with throttled := false } }
/-- Module power goes: every state on the chip is lost. -/
def Dev.shutdown (d : Dev) : Dev :=
  let e := (d.notice .shutdown).afterPowerLoss
  { e with host := { e.host with powered := false } }

def execThermalThrottle (s : State) : Result State := .next (s.withDev s.d.throttle)
def execThermalRecovery (s : State) : Result State := .next (s.withDev s.d.recover)
def execThermalShutdown (s : State) : Result State := .next (s.withDev s.d.shutdown)

end Sys2Proof.Machine
end

