-- ==== Sys2Proof/Machine/Causes.lean ====
section
/-! DEFINITION. ILLOP, and asynchronous causes: what requests them and what takes them (R39, R40, R94 to R101, R324, R372). -/
namespace Sys2Proof.Machine

def execIllop (word : Word32) (reason : BitVec 4) (s : State) : Result State := finish s (illopAt s.d.core.pc word reason)

-- What requests a cause (R98).

/-- The compositor, or a supervisor of the owner, is the source of a pre-emption (R95). -/
def preemptSourceOk (x : BitVec 8) : Bool := decide (x = 1) || decide (x = 2)

/-- PREEMPT_REQUEST (R98). Of two requests that wait, PREEMPT reports the source of the later one, which the spec does not state (DESIGN CHOICE,
log 11). -/
def Dev.requestPreempt (d : Dev) (core : Nat) (source : BitVec 8) : Dev :=
  if coreExists core && preemptSourceOk source then
    let c := d.coreAt core
    d.setCore { c with ipend := { c.ipend with preempt := true }, preemptSource := source }
  else d

def execPreemptRequest (core : Nat) (source : BitVec 8) (s : State) : Result State := .next (s.withDev (s.d.requestPreempt core source))
def execUncorrRecord (core : Nat) (faddr : Word) (place : BitVec 3) (s : State) : Result State :=
  .next (s.withDev (s.d.recordUncorr core faddr place))

-- When a cause is taken (R98, R99, R324).

/-- The instruction at the pc of the current core, as it stands in its page. -/
def Dev.waitingInstr (d : Dev) : Option (Instr ⊕ Late) :=
  match (d.warmed d.core.status.pl d.core.pc).fetch with
  | .error _ => none
  | .ok w => (decodeWord w).toOption

/-- The current core waits in an instruction that no cause makes it give up: SEAL and UNSEAL (R183), PROPOSE, RECYCLE and CINIT (R404,
R407); a BARW whose phase has passed (R324); or, out of its gang, the instruction after which it takes GANG (R372; log 20). -/
def Dev.mustFinish (d : Dev) : Bool :=
  decide (d.core.stall ≠ 0) &&
    (d.core.leaving || !d.core.vectorBusy &&
      match d.waitingInstr with
      | some (.inr (.propose _ _ _ _ _)) => true
      | some (.inr (.recycleRetire _ _ _ _ _)) => true
      | some (.inr (.recycleOpen _ _ _ _ _)) => true
      | some (.inr (.cinit _ _ _ _)) => true
      | some (.inl (.seal _ _)) => true
      | some (.inl (.unseal _ _)) => true
      | some (.inl (.barw _ ra b)) => passed (d.clusters[d.cluster].unit.barrier b.toNat).gen ((d.rd ra).extractLsb' 0 32)
      | _ => false)

/-- A member of the current core's gang has an instruction to complete first: a grant, or one that is not given up (R324, R404). -/
def Dev.gangHolds (d : Dev) : Bool :=
  d.members.any fun c => d.clusters[d.cluster].unit.hasGrant (c % 128) || (d.switchTo c).mustFinish

/-- Vector instructions have first to complete: the sequencer holds some, behind no FRAME, and the oldest does not wait (R242). -/
def Core.vectorHolds (c : Core) : Bool := c.frame.isNone && !c.sequencer.isEmpty && decide (c.stall = 0)

/-- The current core takes a cause at this boundary: one is pending and enabled, and no grant, no operation of its gang and no vector instruction
has first to complete. -/
def Dev.causeDue (d : Dev) : Bool :=
  decide (d.core.run = .running) && d.core.status.ie && d.core.status.cons && d.core.anyPending && !d.gangHolds && !d.core.vectorHolds

-- Taking a cause.

/-- The trap of an asynchronous cause at the pc (R91, R98). -/
def Dev.takeCause (d : Dev) (code : BitVec 6) (faddr finfo : Word) (defer : Bool) : Dev :=
  d.takeTrap { code := code, epc := d.core.pc, faddr := faddr, finfo := finfo, async := true, defer := defer }

/-- Doublewords stored at supervisor level from an address; a store that does not pass its checks is dropped (log 11). -/
def Dev.storeWords (d : Dev) : Word → List Word → Dev
  | _, [] => d
  | a, x :: t =>
    (match (d.walked a).store .supervisor a (leBytes 8 x.toNat) false with
      | .ok e => e
      | .error _ => d.walked a).storeWords (a + 8) t

/-- MESSAGE_SPILL (R101): what fits goes to the buffer in arrival order with its count; the rest is refused back to its senders, and arrives anew
when they try again. An event message is a grant, which completes its instruction before the boundary (R324), so none is left to spill (DEDUCED,
log 21). The count, and the device. -/
def Dev.spill (d : Dev) : Nat × Dev :=
  if d.core.ctxbuf = 0 then (0, d)
  else
    let fits := d.core.inbox.take d.core.bufferRoom
    let ws := (fits.map Arrival.asMessage).flatMap fun m => (List.range 8).map fun i => m.extractLsb' (64 * i) 64
    let e := { d with core := { d.core with inbox := [], spilled := d.core.spilled ++ fits.filterMap Arrival.work? } }
    let f := ((d.core.inbox.drop d.core.bufferRoom).filterMap Arrival.work?).foldl (fun x w => x.sendOff d.cluster
      { colour := false, owner := d.owner, cluster := d.cluster.val, queue := w.queue, seq := w.seq
        body := .core w d.cluster.val (some d.core.id) }) e
    (fits.length, f.storeWords d.core.bufferBase (BitVec.ofNat 64 fits.length :: ws))

/-- The first orphaned write of an owner that waits for its report, marked as reported: of the lowest-numbered cluster the oldest, an order that
the spec leaves open (DESIGN CHOICE, log 11). -/
def Dev.reportOrphan (d : Dev) (o : Nat) : List (Fin 32) → Option (Orphan × Dev)
  | [] => none
  | k :: t =>
    let waits (x : Orphan) : Bool := decide (x.owner = o) && !x.reported
    match d.clusters[k].orphans.find? waits with
    | none => d.reportOrphan o t
    | some x =>
      some (x, d.setCluster k { d.clusters[k] with
        orphans := (d.clusters[k].orphans.takeWhile fun y => !waits y) ++ { x with reported := true }
          :: (d.clusters[k].orphans.dropWhile fun y => !waits y).tail })

/-- ORPHAN taken: one write is reported and counted, and the bit stays while more wait (R98, R342). -/
def Dev.takeOrphan (d : Dev) : Dev :=
  match d.reportOrphan d.owner ((List.range 32).map (Fin.ofNat 32)) with
  | none => { d with core := { d.core with ipend := { d.core.ipend with orphan := false } } }
  | some r => ((r.2.count d.owner 0x007 1).postOrphan d.owner).takeCause 0x17 r.1.va (zext r.1.kid.kid) false

/-- The highest pending cause taken, in the order UNCORR, STOP, PREEMPT, ORPHAN, MINIMA (R98). -/
def Dev.takePendingCause (d : Dev) : Dev :=
  let c := d.core
  match c.uncorr with
  | x :: t => ({ d with core := { c with uncorr := t } }).takeCause 0x09 x.faddr (zext (boolBit x.lost ++ 0#5 ++ x.place)) true
  | [] =>
    if c.ipend.stop then ({ d with core := { c with ipend := { c.ipend with stop := false } } }).takeCause 0x13 0 c.stopTick false
    else if c.ipend.preempt then
      let r := ({ d with core := { c with ipend := { c.ipend with preempt := false } } }).spill
      r.2.takeCause 0x14 0 (zext (BitVec.ofNat 16 r.1 ++ 0#24 ++ c.preemptSource)) false
    else if c.ipend.orphan then d.takeOrphan
    else if c.ipend.minima then
      ({ d with core := { c with ipend := { c.ipend with minima := false }, minimaMask := 0 } }).takeCause 0x16 0 (zext c.minimaMask) false
    else d

/-- The current core takes a cause: the waits of its gang are abandoned, in the hold queue too, and the gang is dissolved at the boundary (R99, R156, R324, R372). -/
def Dev.interrupt (d : Dev) : Dev :=
  let others := d.members.filter fun c => decide (c ≠ d.core.id)
  let e := (d.setUnit d.cluster (d.members.foldl (fun u c => u.forget (c % 128)) d.clusters[d.cluster].unit)).leaveHold d.cluster d.members
  let f := ({ e with core := { e.core with gang := none, stall := 0 } }).takePendingCause
  others.foldl (fun x c => x.dissolve (x.coreAt c).pc c) f

-- The network interface (R101), and the notification core (R98).

/-- A message reaches the interface of a core. -/
def Dev.messageArrives (d : Dev) (core : Nat) (m : BitVec 512) : Dev :=
  if coreExists core then
    let c := d.coreAt core
    d.setCore { c with inbox := c.inbox ++ [.message m] }
  else d

/-- The interface of a core delivers its oldest message. -/
def Dev.deliverMessage (d : Dev) (core : Nat) : Dev :=
  let c := d.coreAt core
  match c.messages with
  | [] => d
  | m :: _ => if coreExists core then d.setCore ({ c with inbox := c.inbox.erase (.message m) }.takeMessage m) else d

/-- The compositor names a core of an owner as its notification core (R98). -/
def Dev.nameNotify (d : Dev) (owner core : Nat) : Dev :=
  if coreExists core && decide (owner < 64) && decide (d.clusters[clusterIx core].owner = owner) then
    d.setOwner owner { d.ownerAt owner with notify := some core }
  else d

def execAsynchronousCause (s : State) : Result State := .next (s.withDev (if s.d.causeDue then s.d.interrupt else s.d))

end Sys2Proof.Machine
end

