-- ==== Sys2Proof/Machine/Cells.lean ====
section
/-! DEFINITION. The cell unit: decide-once cells (R398 to R411). -/
namespace Sys2Proof.Machine

/-- A cell: its value and word 1 (R398). -/
structure Cell where
  value : Word
  word1 : Word
  deriving DecidableEq, Repr

def Cell.epoch (c : Cell) : BitVec 24 := c.word1.extractLsb' 40 24
def Cell.state (c : Cell) : BitVec 2 := c.word1.extractLsb' 38 2
def Cell.tag (c : Cell) : BitVec 32 := c.word1.extractLsb' 0 32
/-- STATE 0b11 or a reserved bit (R400). -/
def Cell.reserved (c : Cell) : Bool := decide (c.state = 3) || decide (bits c.word1 37 32 ≠ 0)

/-- Word 1 and the result word, which adds the outcome (R398, R403). -/
def cellWord (epoch : BitVec 24) (state outcome : BitVec 2) (tag : BitVec 32) : Word := epoch ++ state ++ 0#4 ++ outcome ++ tag

def Cell.empty (epoch : BitVec 24) : Cell := { value := 0, word1 := cellWord epoch 0 0 0 }
def Cell.ofBytes (bs : List Byte) : Cell :=
  { value := BitVec.ofNat 64 (leNat (bs.take 8)), word1 := BitVec.ofNat 64 (leNat (bs.drop 8)) }
def Cell.bytes (c : Cell) : List Byte := leBytes 8 c.value.toNat ++ leBytes 8 c.word1.toNat

/-- The epoch that an operand names. -/
def epochOf (x : Word) : BitVec 24 := x.extractLsb' 40 24

-- The operations at the home (R400, R404, R405, R407).

/-- PROPOSE: the cell after it, and the pair that it writes. -/
def Cell.propose (c : Cell) (v x : Word) : Cell × Word × Word :=
  if c.epoch ≠ epochOf x then
    (c, if c.state = 0 then 0 else c.value, cellWord c.epoch c.state 2 c.tag)
  else if c.state = 0 then
    let n : Cell := { value := v, word1 := cellWord c.epoch 1 0 (x.extractLsb' 0 32) }
    (n, v, cellWord c.epoch 1 0 (x.extractLsb' 0 32))
  else (c, c.value, cellWord c.epoch c.state 1 c.tag)

/-- RECYCLE: the cell after it. -/
def Cell.recycle (c : Cell) (opening : Bool) (e : BitVec 24) : Cell :=
  if c.epoch ≠ e then c
  else if !opening && decide (c.state = 1) then { c with word1 := cellWord c.epoch 2 0 c.tag }
  else if opening && decide (c.state = 2) then Cell.empty (c.epoch + 1)
  else c

/-- What CREAD finds: 0 DECIDED, 1 EMPTY, 2 STALE (R403, R405). -/
def Cell.readOutcome (c : Cell) (e : BitVec 24) : BitVec 2 := if c.epoch ≠ e then 2 else if c.state = 0 then 1 else 0

/-- The pair that CREAD writes. -/
def Cell.readResult (c : Cell) (e : BitVec 24) : Word × Word :=
  (if c.readOutcome e = 0 ∨ c.state ≠ 0 then c.value else 0, cellWord c.epoch c.state (c.readOutcome e) c.tag)

-- Checks (R402).

/-- Where a cell lies: its leaf and physical address. -/
def Dev.cellPlace (d : Dev) (kind : AccessKind) (va : Word) : Except Stop (Word × Nat) :=
  if va.toNat % 16 ≠ 0 then d.trap 0x03 va (4 ||| kind.finfo)
  else
    match d.placeAny d.core.status.pl kind va 16 false with
    | .error e => .error e
    | .ok .held => .error (d.queued va)
    | .ok (.unit _) => d.refuse va kind
    | .ok (.pad _ _ _) => d.cellTrap va 1
    | .ok (.home e pa) => if pteDec e then .ok (e, pa) else d.cellTrap va 1

/-- A remote home refuses an operation on a page that is not its own (R133, R408), and an uncorrectable error of the cell is reported
(R164). -/
def Dev.cellHome (d : Dev) (va e : Word) (pa : Nat) (k : Act) : Act :=
  if remoteRefuses e then d.cellTrap va 5
  else
    match d.badAt (leafDev e) pa 16 with
    | some place => d.trap 0x09 va (zext place)
    | none => k

/-- The cell unit of a home takes an operation: one request of structure class 6, and earlier stores to the grain come first (R146, R148,
R201). -/
def Dev.atCells (d : Dev) (dev : Option (BitVec 12)) (pa : Nat) (by' : Nat := d.owner) : Dev :=
  (if dev.isNone then d.ask 6 (homeStack pa) by' else d).gathered dev pa 32

/-- The cell unit looks up the grain of a cell, which it may write (R195). -/
def Dev.cellLookup (d : Dev) (e : Word) (pa : Nat) (write : Bool) : Dev :=
  d.lookup (leafDev e) (grainBase pa 32) 32 d.owner (if write then some (pa, 16) else none)

/-- The cell at a home, with every earlier store to its grain committed (R146, R148). -/
def Dev.readCell (d : Dev) (e : Word) (pa : Nat) : Cell := Cell.ofBytes (d.homeRead (leafDev e) pa 16)

/-- A cell written as a store under R145, after its lookup. -/
def Dev.writeCell (d : Dev) (e : Word) (pa : Nat) (c : Cell) : Dev :=
  (d.cellLookup e pa true).homeUpdate (leafDev e) (some d.cluster.val) pa c.bytes

/-- A cell after an operation of the cell unit: written where it has changed (R400). -/
def Dev.updateCell (d : Dev) (e : Word) (pa : Nat) (old new : Cell) : Dev :=
  if new = old then d.cellLookup e pa false else d.writeCell e pa new

-- The instructions.

def Dev.doPropose (d : Dev) (o : MemOrder) (sc : MemScope) (rd ra rb : SReg) : Act :=
  let va := d.rd ra
  match d.cellPlace .store va with
  | .error e => .error e
  | .ok (e, pa) =>
    if bits (d.rd (rb + 1)) 39 32 ≠ 0 then d.cellTrap va 6
    else
      match d.releaseIf o sc with
      | .error x => .error x
      | .ok d1 =>
        d.cellHome va e pa <|
          let d2 := d1.atCells (leafDev e) pa
          let c := d2.readCell e pa
          if c.reserved then d.cellTrap va 2
          else
            let r := c.propose (d.rd rb) (d.rd (rb + 1))
            let d3 := (d2.updateCell e pa c r.1).event d.owner 0x0C
            .ok (d3.wrPair rd (r.2.2 ++ r.2.1)).advance

/-- The cell at an address in a copy. -/
def SliceCopy.cellAt (c : SliceCopy) (pa : Nat) : Cell := Cell.ofBytes (c.slice pa 16)

/-- A copy of the cell in one cache of the cluster that decides an epoch (R405, R406): of the core's L1, or of the slice. -/
def Dev.cellCopy (d : Dev) (core : Option Nat) (e : Word) (pa : Nat) (ep : BitVec 24) : Option SliceCopy :=
  d.mem.copies.find? fun c =>
    c.cell && decide (c.cluster = d.cluster.val) && decide (c.core = core) && decide (c.dev = leafDev e) && decide (c.gen = d.gen)
      && decide (c.base ≤ pa) && decide (pa + 16 ≤ c.base + c.size) && decide ((c.cellAt pa).epoch = ep)
      && (decide ((c.cellAt pa).state = 1) || decide ((c.cellAt pa).state = 2))

/-- The leaf and the copy that a CREAD of an epoch hits. It waits for nothing, not for a page that migrates either (R405, R408). -/
def Dev.cellHit (d : Dev) (va : Word) (ep : BitVec 24) : Option (SliceCopy × Nat) :=
  if va.toNat % 16 ≠ 0 ∨ canonical va = false ∨ inLocalRange va = true ∨ (d.tlbLookup d.cluster d.owner va).isNone = true then none
  else
    match d.leafFor d.cluster d.owner va with
    | .fails _ => none
    | .leaf e _ =>
      match leafCheck (e &&& ~~~ 0x40) d.core.status.pl .load va with
      | .ok x pa =>
        if pteDec x then ((d.cellCopy (some d.core.id) x pa ep).or (d.cellCopy none x pa ep)).map fun c => (c, pa) else none
      | .held | .miss | .fault _ _ => none

def Dev.doCread (d : Dev) (w : Bool) (rd ra rb : SReg) : Act :=
  let va := d.rd ra
  let ep := epochOf (d.rd rb)
  match d.cellHit va ep with
  | some (x, pa) =>
    let c := x.cellAt pa
    let d1 := if x.core.isNone then d.event d.owner 0x01 else d
    .ok ((d1.touch x).wrPair rd (cellWord c.epoch c.state 0 c.tag ++ c.value)).advance
  | none =>
    match d.cellPlace .load va with
    | .error e => .error e
    | .ok (e, pa) =>
      d.cellHome va e pa <|
        let d1 := (((d.event d.owner 0x01).event d.owner 0x02).atCells (leafDev e) pa).cellLookup e pa false
        let c := d1.readCell e pa
        if c.reserved then d.cellTrap va 2
        else if w && decide (c.readOutcome ep = 1) then .error (.wait 0x3)
        else
          let d2 := if c.readOutcome ep = 0 then d1.keepGrain d.cluster (some d.core.id) (leafDev e) (grainBase pa 32) 32 false true else d1
          .ok (d2.wrPair rd ((c.readResult ep).2 ++ (c.readResult ep).1)).advance

def Dev.doRecycle (d : Dev) (opening : Bool) (o : MemOrder) (sc : MemScope) (rd ra rb : SReg) : Act :=
  let va := d.rd ra
  match d.cellPlace .store va with
  | .error e => .error e
  | .ok (e, pa) =>
    match d.releaseIf o sc with
    | .error x => .error x
    | .ok d1 =>
      d.cellHome va e pa <|
        let d2 := d1.atCells (leafDev e) pa
        let c := d2.readCell e pa
        if c.reserved then d.cellTrap va 2
        else if c.epoch = BitVec.allOnes 24 then d.cellTrap va 3
        else
          let n := c.recycle opening (epochOf (d.rd rb))
          .ok ((d2.updateCell e pa c n).wr rd c.word1).advance

/-- The copies of a cell's grain that CINIT invalidates: those of the issuing owner's clusters, and on the home device those of the
frame owner's clusters (R406). -/
def Dev.dropCells (d : Dev) (e : Word) (pa : Nat) : Dev :=
  d.setMem { d.mem with copies := d.mem.copies.filter fun c =>
    let o := d.clusters[Fin.ofNat 32 c.cluster].owner
    !(decide (c.dev = leafDev e) && overlap c.base c.size (grainBase pa 32) 32
      && (decide (o = d.owner) || ((leafDev e).isNone && decide (o = d.frameOwner pa)))) }

def Dev.doCinit (d : Dev) (o : MemOrder) (sc : MemScope) (ra rb : SReg) : Act :=
  d.needSupervisor (encR 0x2D 0 ra rb (3#3 ++ 0#3 ++ o.code ++ sc.code)) <|
    let va := d.rd ra
    match d.cellPlace .store va with
    | .error e => .error e
    | .ok (e, pa) =>
      match d.releaseIf o sc with
      | .error x => .error x
      | .ok d1 =>
        d.cellHome va e pa <|
          let d2 := d1.atCells (leafDev e) pa
          .ok ((d2.writeCell e pa (Cell.empty (epochOf (d.rd rb)))).dropCells e pa).advance

def execPropose (o : MemOrder) (sc : MemScope) (rd ra rb : SReg) (s : State) : Result State := finish s (s.d.doPropose o sc rd ra rb)
-- What other devices do at a home (R64, R133, R174, R399, R408).

/-- A cell after another device's operation (R400): one that is reserved, or a RECYCLE of the last epoch, leaves it; CINIT does not ask. -/
def Cell.remote (c : Cell) : CellOp → Cell
  | .propose v x => if c.reserved then c else (c.propose v x).1
  | .retire e => if c.reserved || decide (c.epoch = BitVec.allOnes 24) then c else c.recycle false e
  | .openNext e => if c.reserved || decide (c.epoch = BitVec.allOnes 24) then c else c.recycle true e
  | .init e => Cell.empty e

/-- An operation that brings a cell back, whose copies are then dropped (R406). -/
def CellOp.isInit : CellOp → Bool
  | .init _ => true
  | .propose _ _ | .retire _ | .openNext _ => false

/-- The home takes an access of another device through its leaf: memory of another device; or local memory, where the whole page lies in HBM and
holds no granule of a retired channel (R131, R133). -/
def Dev.homeAccepts (d : Dev) (dev : Option (BitVec 12)) (leaf : Word) (pa n : Nat) : Bool :=
  match dev with
  | some x => decide (x ≠ d.deviceId)
  | none =>
    decide (pteAddr leaf ≤ pa) && decide (pa + n ≤ pteAddr leaf + pageBytes leaf) && inHbm (pteAddr leaf) (pageBytes leaf)
      && !d.touchesRetired (pteAddr leaf) (pageBytes leaf)

/-- A cell frame of this device (R408); of another device's frames this one does not know, and its home has answered. -/
def Dev.cellFrame (d : Dev) (dev : Option (BitVec 12)) (pa : Nat) : Bool := dev.isSome || decide (d.mem.cellMaps.get 0 (pa / 4096) ≠ 0)

/-- The home of a grain as another device's access finds it: here the access asks for its block, some of which it may write (R144, R174,
R195). -/
def Dev.remoteHome (d : Dev) (dev : Option (BitVec 12)) (pa grain : Nat) (written : Option (Nat × Nat)) : Dev :=
  let g := d.gathered dev pa grain
  if dev.isNone then g.lookup none (grainBase pa grain) grain (g.frameOwner pa) written none else g

/-- An operation of another device through a leaf of its own at a home of this device, or one that has been performed at a home of its own. It is
performed where the home does not refuse it; the result goes to the other device. A RED is kept in a partial (R175); no core of this device
hears of an error that it meets. -/
def Dev.remoteOp (d : Dev) (dev : Option (BitVec 12)) (leaf : Word) : RemoteOp → Dev
  | .store pa bs =>
    if d.homeAccepts dev leaf pa bs.length && (dev.isSome || !d.cellFrame dev pa) && (d.badAt dev pa bs.length).isNone then
      (d.remoteHome dev pa (grainBytes leaf) (some (pa, bs.length))).homeUpdate dev none pa bs
    else d
  | .red r =>
    if d.homeAccepts dev leaf r.pa (r.ty.bits / 8) && (dev.isSome || !d.cellFrame dev r.pa) then d.acceptRed 4096 none dev (grainBytes leaf) r
    else d
  | .cell pa op =>
    if pa % 16 = 0 ∧ d.homeAccepts dev leaf pa 16 = true ∧ d.cellFrame dev pa = true ∧ (d.badAt dev pa 16).isNone = true then
      let g := d.atCells dev pa (d.frameOwner pa)
      let c := Cell.ofBytes (g.homeRead dev pa 16)
      let e := g.remoteHome dev pa 32 (if c.remote op = c then none else some (pa, 16))
      let x := if c.remote op = c then e else e.homeUpdate dev none pa (c.remote op).bytes
      if op.isInit && dev.isNone then
        x.setMem { x.mem with copies := x.mem.copies.filter fun y =>
          !(decide (y.dev = none) && overlap y.base y.size (grainBase pa 32) 32
            && decide (x.clusters[Fin.ofNat 32 y.cluster].owner = x.frameOwner pa)) }
      else x
    else d

/-- The order of CREAD asks nothing more: a hit, or a read at the home, sees the winner's committed writes (R410). -/
def execCread (w : Bool) (_o : MemOrder) (_sc : MemScope) (rd ra rb : SReg) (s : State) : Result State :=
  finish s (s.d.doCread w rd ra rb)
def execRecycleRetire (o : MemOrder) (sc : MemScope) (rd ra rb : SReg) (s : State) : Result State :=
  finish s (s.d.doRecycle false o sc rd ra rb)
def execRecycleOpen (o : MemOrder) (sc : MemScope) (rd ra rb : SReg) (s : State) : Result State :=
  finish s (s.d.doRecycle true o sc rd ra rb)
def execCinit (o : MemOrder) (sc : MemScope) (ra rb : SReg) (s : State) : Result State := finish s (s.d.doCinit o sc ra rb)

end Sys2Proof.Machine
end

