-- ==== Sys2Proof/Machine/Control.lean ====
section
/-! DEFINITION. Branches, loops, jumps and calls (R113 to R116). -/
namespace Sys2Proof.Machine

/-- The target of a branch: PC + 4 x SExt(off13) (R35, R113). -/
def branchTarget (pc : Word) (off : BitVec 13) : Word := pc + (sext off <<< 2)
/-- The target of JMP and CALL (R115). -/
def jumpTarget (pc : Word) (off : BitVec 26) : Word := pc + (sext off <<< 2)

/-- NextPC is the target when the branch is taken, PC + 4 when it is not (R113). -/
def Dev.branch (d : Dev) (taken : Bool) (off : BitVec 13) : Dev :=
  if taken then d.jump (branchTarget d.core.pc off) else d.advance

/-- The outcome of BCMP. -/
def branchIf (s : State) (taken : Bool) (off : BitVec 13) : Result State := .next (s.withDev (s.d.branch taken off))

/-- The outcome of LOOP: the counter written, then the branch (R114). -/
def loopTo (s : State) (ra : SReg) (n : Word) (taken : Bool) (off : BitVec 13) : Result State :=
  .next (s.withDev ((s.d.wr ra n).branch taken off))

def execBeq (ra rb : SReg) (off : BitVec 13) (s : State) : Result State := branchIf s (s.d.rd ra == s.d.rd rb) off
def execBne (ra rb : SReg) (off : BitVec 13) (s : State) : Result State := branchIf s (s.d.rd ra != s.d.rd rb) off
def execBlt (ra rb : SReg) (off : BitVec 13) (s : State) : Result State := branchIf s ((s.d.rd ra).slt (s.d.rd rb)) off
def execBge (ra rb : SReg) (off : BitVec 13) (s : State) : Result State := branchIf s (!(s.d.rd ra).slt (s.d.rd rb)) off
def execBltn (ra rb : SReg) (off : BitVec 13) (s : State) : Result State := branchIf s ((s.d.rd ra).ult (s.d.rd rb)) off
def execBgen (ra rb : SReg) (off : BitVec 13) (s : State) : Result State := branchIf s (!(s.d.rd ra).ult (s.d.rd rb)) off
def execBany (ra rb : SReg) (off : BitVec 13) (s : State) : Result State := branchIf s ((s.d.rd ra &&& s.d.rd rb) != 0) off
def execBnone (ra rb : SReg) (off : BitVec 13) (s : State) : Result State := branchIf s ((s.d.rd ra &&& s.d.rd rb) == 0) off

def execLoop (ra : SReg) (off : BitVec 13) (s : State) : Result State :=
  loopTo s ra (s.d.rd ra - 1) (s.d.rd ra - 1 != 0) off
def execLoopn (ra rb : SReg) (off : BitVec 13) (s : State) : Result State :=
  loopTo s ra (s.d.rd ra + 1) ((s.d.rd ra + 1).ult (s.d.rd rb)) off
def execLoopd (ra rb : SReg) (off : BitVec 13) (s : State) : Result State :=
  loopTo s ra (s.d.rd ra - s.d.rd rb) ((0 : Word).slt (s.d.rd ra - s.d.rd rb)) off

def execJmp (off : BitVec 26) (s : State) : Result State := .next (s.withDev (s.d.jump (jumpTarget s.d.core.pc off)))
def execCall (off : BitVec 26) (s : State) : Result State :=
  .next (s.withDev ((s.d.wr 31 (s.d.core.pc + 4)).jump (jumpTarget s.d.core.pc off)))
/-- The target is read before the link is written (R116). -/
def execJreg (rd ra : SReg) (s : State) : Result State :=
  .next (s.withDev ((s.d.wr rd (s.d.core.pc + 4)).jump (s.d.rd ra)))

end Sys2Proof.Machine
end

