-- ==== Sys2Proof/Machine/Fpu.lean ====
section
/-! DEFINITION. Scalar floating point (R117 to R122). A FRAME is waited for, as every earlier vector instruction is (R128). -/
namespace Sys2Proof.Machine

/-- The operand of a format: the low bits of a scalar register (R117). -/
def Dev.rdF (d : Dev) (fmt : FFmt) (r : SReg) : Nat := (d.rd r).toNat % 2 ^ (fmtOf fmt).w

/-- The outcome of an FP instruction: a value with zero above it, and the flags (R117, R229). -/
def setF (s : State) (rd : SReg) (r : Nat × Flags) : Result State :=
  .next (s.withDev (((s.d.wr rd (BitVec.ofNat 64 r.1)).raise r.2).advance))

/-- The outcome of a comparison (R117). -/
def setCmp (s : State) (rd : SReg) (r : Bool × Flags) : Result State :=
  .next (s.withDev (((s.d.wr rd (boolWord r.1)).raise r.2).advance))

def execFadd (f : FFmt) (rm : Rm) (rd ra rb : SReg) (s : State) : Result State :=
  setF s rd ((fmtOf f).fadd (modeOf rm) (s.d.rdF f ra) (s.d.rdF f rb))
def execFsub (f : FFmt) (rm : Rm) (rd ra rb : SReg) (s : State) : Result State :=
  setF s rd ((fmtOf f).fsub (modeOf rm) (s.d.rdF f ra) (s.d.rdF f rb))
def execFmul (f : FFmt) (rm : Rm) (rd ra rb : SReg) (s : State) : Result State :=
  setF s rd ((fmtOf f).fmul (modeOf rm) (s.d.rdF f ra) (s.d.rdF f rb))
def execFdiv (f : FFmt) (rm : Rm) (rd ra rb : SReg) (s : State) : Result State :=
  setF s rd ((fmtOf f).fdiv (modeOf rm) (s.d.rdF f ra) (s.d.rdF f rb))
def execFsqrt (f : FFmt) (rm : Rm) (rd ra : SReg) (s : State) : Result State :=
  setF s rd ((fmtOf f).fsqrt (modeOf rm) (s.d.rdF f ra))
def execFmin (f : FFmt) (rd ra rb : SReg) (s : State) : Result State :=
  setF s rd ((fmtOf f).fmin (s.d.rdF f ra) (s.d.rdF f rb))
def execFmax (f : FFmt) (rd ra rb : SReg) (s : State) : Result State :=
  setF s rd ((fmtOf f).fmax (s.d.rdF f ra) (s.d.rdF f rb))
def execFcopysg (f : FFmt) (rd ra rb : SReg) (s : State) : Result State :=
  setF s rd ((fmtOf f).fcopysg (s.d.rdF f ra) (s.d.rdF f rb), Flags.none)
def execFneg (f : FFmt) (rd ra : SReg) (s : State) : Result State :=
  setF s rd ((fmtOf f).fneg (s.d.rdF f ra), Flags.none)
def execFabs (f : FFmt) (rd ra : SReg) (s : State) : Result State :=
  setF s rd ((fmtOf f).fabs (s.d.rdF f ra), Flags.none)
def execFeq (f : FFmt) (rd ra rb : SReg) (s : State) : Result State :=
  setCmp s rd ((fmtOf f).feq (s.d.rdF f ra) (s.d.rdF f rb))
def execFlt (f : FFmt) (rd ra rb : SReg) (s : State) : Result State :=
  setCmp s rd ((fmtOf f).flt (s.d.rdF f ra) (s.d.rdF f rb))
def execFle (f : FFmt) (rd ra rb : SReg) (s : State) : Result State :=
  setCmp s rd ((fmtOf f).fle (s.d.rdF f ra) (s.d.rdF f rb))
def execFkind (f : FFmt) (rd ra : SReg) (s : State) : Result State :=
  setF s rd ((fmtOf f).fkind (s.d.rdF f ra), Flags.none)
def execFcvt (f src : FFmt) (rm : Rm) (rd ra : SReg) (s : State) : Result State :=
  setF s rd ((fmtOf f).convert (fmtOf src) (modeOf rm) (s.d.rdF src ra))

/-- The integer that FCVTI writes, with its flags (R121). -/
def fcvtiResult (f : FFmt) (unsigned : Bool) (rm : Rm) (x : Nat) : Word × Flags :=
  let r := toIntegerType (!unsigned) 64 (modeOf rm) ((fmtOf f).decode x)
  (BitVec.ofInt 64 r.1, r.2)
def execFcvti (f : FFmt) (unsigned : Bool) (rm : Rm) (rd ra : SReg) (s : State) : Result State :=
  setF s rd ((fcvtiResult f unsigned rm (s.d.rdF f ra)).1.toNat, (fcvtiResult f unsigned rm (s.d.rdF f ra)).2)

/-- The code that FCVTF writes, with its flags (R121). -/
def fcvtfResult (f : FFmt) (unsigned : Bool) (rm : Rm) (x : Word) : Nat × Flags :=
  (fmtOf f).round (modeOf rm) (.ofInt (if unsigned then (x.toNat : Int) else x.toInt))
def execFcvtf (f : FFmt) (unsigned : Bool) (rm : Rm) (rd ra : SReg) (s : State) : Result State :=
  setF s rd (fcvtfResult f unsigned rm (s.d.rd ra))

def execFmadd (f : FFmt) (rm : Rm) (rd ra rb rc : SReg) (s : State) : Result State :=
  setF s rd ((fmtOf f).fmadd (modeOf rm) (s.d.rdF f ra) (s.d.rdF f rb) (s.d.rdF f rc))
def execFmsub (f : FFmt) (rm : Rm) (rd ra rb rc : SReg) (s : State) : Result State :=
  setF s rd ((fmtOf f).fmsub (modeOf rm) (s.d.rdF f ra) (s.d.rdF f rb) (s.d.rdF f rc))
def execFnmadd (f : FFmt) (rm : Rm) (rd ra rb rc : SReg) (s : State) : Result State :=
  setF s rd ((fmtOf f).fnmadd (modeOf rm) (s.d.rdF f ra) (s.d.rdF f rb) (s.d.rdF f rc))
def execFnmsub (f : FFmt) (rm : Rm) (rd ra rb rc : SReg) (s : State) : Result State :=
  setF s rd ((fmtOf f).fnmsub (modeOf rm) (s.d.rdF f ra) (s.d.rdF f rb) (s.d.rdF f rc))

end Sys2Proof.Machine
end

