-- ==== Sys2Proof/Machine/Late.lean ====
section
/-! DEFINITION. The instructions of the last families, run as their decoder answers them: what exec does with Late.toInstr. -/
namespace Sys2Proof.Machine

def execLate (l : Late) (s : State) : Result State :=
  match l with
  | .launch rd ra q => execLaunch rd ra q s
  | .tspawn ra => execTspawn ra s
  | .tnext rd => execTnext rd s
  | .tend => execTend s
  | .await ra => execAwait ra s
  | .tinfo rd k => execTinfo rd k s
  | .tclose rd ra q => execTclose rd ra q s
  | .tqstat rd q => execTqstat rd q s
  | .fuse rd n => execFuse rd n s
  | .split => execSplit s
  | .gidx rd => execGidx rd s
  | .gsize rd => execGsize rd s
  | .gredAdd rd ra => execGredAdd rd ra s
  | .gredAnd rd ra => execGredAnd rd ra s
  | .gredOr rd ra => execGredOr rd ra s
  | .gredXor rd ra => execGredXor rd ra s
  | .gredMin rd ra => execGredMin rd ra s
  | .gredMax rd ra => execGredMax rd ra s
  | .gredMinn rd ra => execGredMinn rd ra s
  | .gredMaxn rd ra => execGredMaxn rd ra s
  | .draw rd ds ra => execDraw rd ds ra s
  | .dkey ds t => execDkey ds t s
  | .dkset ds ra => execDkset ds ra s
  | .dkrd rd ds => execDkrd rd ds s
  | .reseed rd => execReseed rd s
  | .seedset rd ra => execSeedset rd ra s
  | .seedrd rd => execSeedrd rd s
  | .cplace rd ra => execCplace rd ra s
  | .exq rd ra c => execExq rd ra c s
  | .exqm rd c => execExqm rd c s
  | .propose ord scope rd ra rb => execPropose ord scope rd ra rb s
  | .cread wait ord scope rd ra rb => execCread wait ord scope rd ra rb s
  | .recycleRetire ord scope rd ra rb => execRecycleRetire ord scope rd ra rb s
  | .recycleOpen ord scope rd ra rb => execRecycleOpen ord scope rd ra rb s
  | .cinit ord scope ra rb => execCinit ord scope ra rb s
  | .fpt rd => execFpt rd s
  | .fcut rd ra q => execFcut rd ra q s
  | .fprog rd q => execFprog rd q s
  | .ctrd rd n => execCtrd rd n s
  | .ctsel ra n => execCtsel ra n s
  | .tstamp rd => execTstamp rd s
  | .proof rd ra => execProof rd ra s

end Sys2Proof.Machine
end

