-- ==== Sys2Proof/Machine/PlaneOps.lean ====
section
/-! DEFINITION. PLANE: plane descriptors and block scales (R293, R294). -/
namespace Sys2Proof.Machine

/-- The address of PDESC: a signed doubleword offset (R293). -/
def Dev.pdescAddr (d : Dev) (ra : SReg) (off : BitVec 10) : Word := d.rd ra + sext off * 8

/-- A descriptor value installed, or refused (R265, R293). -/
def Dev.installDesc (d : Dev) (n : BitVec 4) (x faddr : Word) : Act :=
  if descOk x then .ok (d.wrD n x).advance else d.trap 0x05 faddr 2

def Dev.doPdesc (d : Dev) (n : BitVec 4) (ra : SReg) (off : BitVec 10) : Act :=
  match d.load d.core.status.pl (d.pdescAddr ra off) 8 .none false false with
  | .error e => .error e
  | .ok r => r.2.installDesc n (BitVec.ofNat 64 (leNat r.1)) (d.pdescAddr ra off)

/-- PROT 0b10 of a refused scale write, which is a store (R95, R294; log 11). -/
def Dev.scaleFault (d : Dev) (faddr : Word) : Act := d.trap 0x05 faddr 0x12

/-- Bytes of a scale stored at an offset of the core's own scratchpad (R164, R294): full/empty bits keep their values. -/
def Dev.writeScale (d : Dev) (o : Nat) (bs : List Byte) : Act :=
  match d.core.saveHit [(o, bs.length)] with
  | some b => d.scaleFault (ownPad b)
  | none => .ok (d.padStore d.core.id 0 o (ownPad o) bs false).advance

/-- PSCALE (R294). -/
def Dev.doPscale (d : Dev) (n : BitVec 4) (ra rb : SReg) : Act :=
  let t := PlaneDesc.ofWord (d.rdD n)
  let x := d.rd rb
  if t.kind = 0 then d.scaleFault 0
  else if 32 * t.nblk ≤ x.toNat then d.scaleFault (ownPad t.sbase + x)
  else d.writeScale (t.sbase + x.toNat) (leBytes 1 (d.rd ra).toNat)

/-- PGSCALE (R294). -/
def Dev.doPgscale (d : Dev) (n : BitVec 4) (ra rb : SReg) : Act :=
  let t := PlaneDesc.ofWord (d.rdD n)
  let x := d.rd rb
  if !t.isQn4 then d.scaleFault 0
  else if ceilDiv' (32 * t.nblk) 256 ≤ x.toNat then d.scaleFault (ownPad (t.sbase + 32 * t.nblk) + 4 * x)
  else d.writeScale (t.sbase + 32 * t.nblk + 4 * x.toNat) (leBytes 4 (d.rd ra).toNat)

def execPdesc (n : BitVec 4) (ra : SReg) (off : BitVec 10) (s : State) : Result State := finish s (s.d.doPdesc n ra off)
def execPdset (n : BitVec 4) (ra : SReg) (s : State) : Result State := finish s (s.d.installDesc n (s.d.rd ra) 0)
def execPdrd (rd : SReg) (n : BitVec 4) (s : State) : Result State := setS s rd (s.d.rdD n)
def execPscale (n : BitVec 4) (ra rb : SReg) (s : State) : Result State := finish s (s.d.doPscale n ra rb)
def execPgscale (n : BitVec 4) (ra rb : SReg) (s : State) : Result State := finish s (s.d.doPgscale n ra rb)

end Sys2Proof.Machine
end

