-- ==== Sys2Proof/Machine/Dispatch.lean ====
section
/-! DEFINITION. The dispatch: one arm for each constructor of Instr, each one call of its meaning. -/
namespace Sys2Proof.Machine

/-- What an instruction, or a step of another agent, does to the machine. -/
def exec (i : Instr) (s : State) : Host.Outcome State Fault Refusal :=
  match i with
  -- Words that are not instructions, and asynchronous causes (R39, R98).
  | .illop word reason => Sys2Proof.Machine.execIllop word reason s
  -- Integer operations between registers (R105 to R107).
  | .add rd ra rb => Sys2Proof.Machine.execAdd rd ra rb s
  | .sub rd ra rb => Sys2Proof.Machine.execSub rd ra rb s
  | .and rd ra rb => Sys2Proof.Machine.execAnd rd ra rb s
  | .or rd ra rb => Sys2Proof.Machine.execOr rd ra rb s
  | .xor rd ra rb => Sys2Proof.Machine.execXor rd ra rb s
  | .andn rd ra rb => Sys2Proof.Machine.execAndn rd ra rb s
  | .orn rd ra rb => Sys2Proof.Machine.execOrn rd ra rb s
  | .xnor rd ra rb => Sys2Proof.Machine.execXnor rd ra rb s
  | .sll rd ra rb => Sys2Proof.Machine.execSll rd ra rb s
  | .srl rd ra rb => Sys2Proof.Machine.execSrl rd ra rb s
  | .sra rd ra rb => Sys2Proof.Machine.execSra rd ra rb s
  | .ror rd ra rb => Sys2Proof.Machine.execRor rd ra rb s
  | .slt rd ra rb => Sys2Proof.Machine.execSlt rd ra rb s
  | .sltn rd ra rb => Sys2Proof.Machine.execSltn rd ra rb s
  | .min rd ra rb => Sys2Proof.Machine.execMin rd ra rb s
  | .max rd ra rb => Sys2Proof.Machine.execMax rd ra rb s
  | .minn rd ra rb => Sys2Proof.Machine.execMinn rd ra rb s
  | .maxn rd ra rb => Sys2Proof.Machine.execMaxn rd ra rb s
  | .mul rd ra rb => Sys2Proof.Machine.execMul rd ra rb s
  | .mulh rd ra rb => Sys2Proof.Machine.execMulh rd ra rb s
  | .mulhn rd ra rb => Sys2Proof.Machine.execMulhn rd ra rb s
  | .div rd ra rb => Sys2Proof.Machine.execDiv rd ra rb s
  | .divn rd ra rb => Sys2Proof.Machine.execDivn rd ra rb s
  | .rem rd ra rb => Sys2Proof.Machine.execRem rd ra rb s
  | .remn rd ra rb => Sys2Proof.Machine.execRemn rd ra rb s
  | .clz rd ra => Sys2Proof.Machine.execClz rd ra s
  | .ctz rd ra => Sys2Proof.Machine.execCtz rd ra s
  | .popc rd ra => Sys2Proof.Machine.execPopc rd ra s
  | .bswap rd ra => Sys2Proof.Machine.execBswap rd ra s
  | .addw rd ra rb => Sys2Proof.Machine.execAddw rd ra rb s
  | .subw rd ra rb => Sys2Proof.Machine.execSubw rd ra rb s
  | .sllw rd ra rb => Sys2Proof.Machine.execSllw rd ra rb s
  | .srlw rd ra rb => Sys2Proof.Machine.execSrlw rd ra rb s
  | .sraw rd ra rb => Sys2Proof.Machine.execSraw rd ra rb s
  | .mulw rd ra rb => Sys2Proof.Machine.execMulw rd ra rb s
  | .adds rd ra rb => Sys2Proof.Machine.execAdds rd ra rb s
  | .subs rd ra rb => Sys2Proof.Machine.execSubs rd ra rb s
  -- Integer operations with immediates (R108, R109).
  | .addi rd ra imm => Sys2Proof.Machine.execAddi rd ra imm s
  | .andi rd ra imm => Sys2Proof.Machine.execAndi rd ra imm s
  | .ori rd ra imm => Sys2Proof.Machine.execOri rd ra imm s
  | .xori rd ra imm => Sys2Proof.Machine.execXori rd ra imm s
  | .slti rd ra imm => Sys2Proof.Machine.execSlti rd ra imm s
  | .sltin rd ra imm => Sys2Proof.Machine.execSltin rd ra imm s
  | .slli rd ra n => Sys2Proof.Machine.execSlli rd ra n s
  | .srli rd ra n => Sys2Proof.Machine.execSrli rd ra n s
  | .srai rd ra n => Sys2Proof.Machine.execSrai rd ra n s
  | .rori rd ra n => Sys2Proof.Machine.execRori rd ra n s
  | .slliw rd ra n => Sys2Proof.Machine.execSlliw rd ra n s
  | .srliw rd ra n => Sys2Proof.Machine.execSrliw rd ra n s
  | .sraiw rd ra n => Sys2Proof.Machine.execSraiw rd ra n s
  -- Constants and addresses (R110, R111).
  | .hwz rd k imm => Sys2Proof.Machine.execHwz rd k imm s
  | .hwi rd k imm => Sys2Proof.Machine.execHwi rd k imm s
  | .hws rd k imm => Sys2Proof.Machine.execHws rd k imm s
  | .adpc rd imm => Sys2Proof.Machine.execAdpc rd imm s
  | .adpch rd imm => Sys2Proof.Machine.execAdpch rd imm s
  -- Control flow (R113 to R116).
  | .beq ra rb off => Sys2Proof.Machine.execBeq ra rb off s
  | .bne ra rb off => Sys2Proof.Machine.execBne ra rb off s
  | .blt ra rb off => Sys2Proof.Machine.execBlt ra rb off s
  | .bge ra rb off => Sys2Proof.Machine.execBge ra rb off s
  | .bltn ra rb off => Sys2Proof.Machine.execBltn ra rb off s
  | .bgen ra rb off => Sys2Proof.Machine.execBgen ra rb off s
  | .bany ra rb off => Sys2Proof.Machine.execBany ra rb off s
  | .bnone ra rb off => Sys2Proof.Machine.execBnone ra rb off s
  | .loop ra off => Sys2Proof.Machine.execLoop ra off s
  | .loopn ra rb off => Sys2Proof.Machine.execLoopn ra rb off s
  | .loopd ra rb off => Sys2Proof.Machine.execLoopd ra rb off s
  | .jmp off => Sys2Proof.Machine.execJmp off s
  | .call off => Sys2Proof.Machine.execCall off s
  | .jreg rd ra => Sys2Proof.Machine.execJreg rd ra s
  -- Scalar floating point (R117 to R122).
  | .fadd fmt rm rd ra rb => Sys2Proof.Machine.execFadd fmt rm rd ra rb s
  | .fsub fmt rm rd ra rb => Sys2Proof.Machine.execFsub fmt rm rd ra rb s
  | .fmul fmt rm rd ra rb => Sys2Proof.Machine.execFmul fmt rm rd ra rb s
  | .fdiv fmt rm rd ra rb => Sys2Proof.Machine.execFdiv fmt rm rd ra rb s
  | .fsqrt fmt rm rd ra => Sys2Proof.Machine.execFsqrt fmt rm rd ra s
  | .fmin fmt rd ra rb => Sys2Proof.Machine.execFmin fmt rd ra rb s
  | .fmax fmt rd ra rb => Sys2Proof.Machine.execFmax fmt rd ra rb s
  | .fcopysg fmt rd ra rb => Sys2Proof.Machine.execFcopysg fmt rd ra rb s
  | .fneg fmt rd ra => Sys2Proof.Machine.execFneg fmt rd ra s
  | .fabs fmt rd ra => Sys2Proof.Machine.execFabs fmt rd ra s
  | .feq fmt rd ra rb => Sys2Proof.Machine.execFeq fmt rd ra rb s
  | .flt fmt rd ra rb => Sys2Proof.Machine.execFlt fmt rd ra rb s
  | .fle fmt rd ra rb => Sys2Proof.Machine.execFle fmt rd ra rb s
  | .fkind fmt rd ra => Sys2Proof.Machine.execFkind fmt rd ra s
  | .fcvt fmt src rm rd ra => Sys2Proof.Machine.execFcvt fmt src rm rd ra s
  | .fcvti fmt unsigned rm rd ra => Sys2Proof.Machine.execFcvti fmt unsigned rm rd ra s
  | .fcvtf fmt unsigned rm rd ra => Sys2Proof.Machine.execFcvtf fmt unsigned rm rd ra s
  | .fmadd fmt rm rd ra rb rc => Sys2Proof.Machine.execFmadd fmt rm rd ra rb rc s
  | .fmsub fmt rm rd ra rb rc => Sys2Proof.Machine.execFmsub fmt rm rd ra rb rc s
  | .fnmadd fmt rm rd ra rb rc => Sys2Proof.Machine.execFnmadd fmt rm rd ra rb rc s
  | .fnmsub fmt rm rd ra rb rc => Sys2Proof.Machine.execFnmsub fmt rm rd ra rb rc s
  -- The SYS group (R123 to R126, R92).
  | .nop => Sys2Proof.Machine.execNop s
  | .trap code => Sys2Proof.Machine.execTrap code s
  | .brk code => Sys2Proof.Machine.execBrk code s
  | .eret => Sys2Proof.Machine.execEret s
  | .crd rd creg => Sys2Proof.Machine.execCrd rd creg s
  | .crdFflags rd => Sys2Proof.Machine.execCrdFflags rd s
  | .cwr creg ra => Sys2Proof.Machine.execCwr creg ra s
  | .cwrStatus ra => Sys2Proof.Machine.execCwrStatus ra s
  | .cwrFflags ra => Sys2Proof.Machine.execCwrFflags ra s
  | .halt => Sys2Proof.Machine.execHalt s
  -- Loads, stores, atomics and reductions (R166 to R176).
  | .ld kind rd ra off => Sys2Proof.Machine.execLd kind rd ra off s
  | .st size rs ra off => Sys2Proof.Machine.execSt size rs ra off s
  | .ldx size signed fq ord scope rd ra rb => Sys2Proof.Machine.execLdx size signed fq ord scope rd ra rb s
  | .stx size fq ord scope rs ra rb => Sys2Proof.Machine.execStx size fq ord scope rs ra rb s
  | .atomSwp size ord scope rd ra rb => Sys2Proof.Machine.execAtomSwp size ord scope rd ra rb s
  | .atomCas size ord scope rd ra rb => Sys2Proof.Machine.execAtomCas size ord scope rd ra rb s
  | .atomAdd size ord scope rd ra rb => Sys2Proof.Machine.execAtomAdd size ord scope rd ra rb s
  | .atomAnd size ord scope rd ra rb => Sys2Proof.Machine.execAtomAnd size ord scope rd ra rb s
  | .atomOr size ord scope rd ra rb => Sys2Proof.Machine.execAtomOr size ord scope rd ra rb s
  | .atomXor size ord scope rd ra rb => Sys2Proof.Machine.execAtomXor size ord scope rd ra rb s
  | .atomMax size ord scope rd ra rb => Sys2Proof.Machine.execAtomMax size ord scope rd ra rb s
  | .atomMin size ord scope rd ra rb => Sys2Proof.Machine.execAtomMin size ord scope rd ra rb s
  | .redAdd arr ty ord scope ra rb => Sys2Proof.Machine.execRedAdd arr ty ord scope ra rb s
  | .redAnd arr ty ord scope ra rb => Sys2Proof.Machine.execRedAnd arr ty ord scope ra rb s
  | .redOr arr ty ord scope ra rb => Sys2Proof.Machine.execRedOr arr ty ord scope ra rb s
  | .redXor arr ty ord scope ra rb => Sys2Proof.Machine.execRedXor arr ty ord scope ra rb s
  | .redMin arr ty ord scope ra rb => Sys2Proof.Machine.execRedMin arr ty ord scope ra rb s
  | .redMax arr ty ord scope ra rb => Sys2Proof.Machine.execRedMax arr ty ord scope ra rb s
  -- Regions and MEMSYS (R178 to R184).
  | .alrb ord scope ra => Sys2Proof.Machine.execAlrb ord scope ra s
  | .fence ord scope => Sys2Proof.Machine.execFence ord scope s
  | .seal rl ra => Sys2Proof.Machine.execSeal rl ra s
  | .unseal rl ra => Sys2Proof.Machine.execUnseal rl ra s
  | .xinv ro ra => Sys2Proof.Machine.execXinv ro ra s
  | .xinva ro => Sys2Proof.Machine.execXinva ro s
  | .rinv ra => Sys2Proof.Machine.execRinv ra s
  | .cpref ra => Sys2Proof.Machine.execCpref ra s
  | .orph abandon rd ra => Sys2Proof.Machine.execOrph abandon rd ra s
  -- Vector loads and stores (R244, R245).
  | .vld size fq adv pg vd ra rb => Sys2Proof.Machine.execVld size fq adv pg vd ra rb s
  | .vlds size fq adv pg vd ra rb => Sys2Proof.Machine.execVlds size fq adv pg vd ra rb s
  | .vldx size fq adv pg vd ra rb => Sys2Proof.Machine.execVldx size fq adv pg vd ra rb s
  | .vldr size fq adv pg vd ra rb => Sys2Proof.Machine.execVldr size fq adv pg vd ra rb s
  | .vst size fq adv pg vs ra rb => Sys2Proof.Machine.execVst size fq adv pg vs ra rb s
  | .vsts size fq adv pg vs ra rb => Sys2Proof.Machine.execVsts size fq adv pg vs ra rb s
  | .vstx size fq adv pg vs ra rb => Sys2Proof.Machine.execVstx size fq adv pg vs ra rb s
  -- Vector integer operations (R246).
  | .vadd ty pg vd va vb => Sys2Proof.Machine.execVadd ty pg vd va vb s
  | .vsub ty pg vd va vb => Sys2Proof.Machine.execVsub ty pg vd va vb s
  | .vmul ty pg vd va vb => Sys2Proof.Machine.execVmul ty pg vd va vb s
  | .vmulh ty pg vd va vb => Sys2Proof.Machine.execVmulh ty pg vd va vb s
  | .vmin ty pg vd va vb => Sys2Proof.Machine.execVmin ty pg vd va vb s
  | .vmax ty pg vd va vb => Sys2Proof.Machine.execVmax ty pg vd va vb s
  | .vand ty pg vd va vb => Sys2Proof.Machine.execVand ty pg vd va vb s
  | .vor ty pg vd va vb => Sys2Proof.Machine.execVor ty pg vd va vb s
  | .vxor ty pg vd va vb => Sys2Proof.Machine.execVxor ty pg vd va vb s
  | .vandn ty pg vd va vb => Sys2Proof.Machine.execVandn ty pg vd va vb s
  | .vsll ty pg vd va vb => Sys2Proof.Machine.execVsll ty pg vd va vb s
  | .vsrl ty pg vd va vb => Sys2Proof.Machine.execVsrl ty pg vd va vb s
  | .vsra ty pg vd va vb => Sys2Proof.Machine.execVsra ty pg vd va vb s
  | .vadds ty pg vd va vb => Sys2Proof.Machine.execVadds ty pg vd va vb s
  | .vsubs ty pg vd va vb => Sys2Proof.Machine.execVsubs ty pg vd va vb s
  | .vabsd ty pg vd va vb => Sys2Proof.Machine.execVabsd ty pg vd va vb s
  | .vavg ty pg vd va vb => Sys2Proof.Machine.execVavg ty pg vd va vb s
  | .vneg ty pg vd va => Sys2Proof.Machine.execVneg ty pg vd va s
  | .vabs ty pg vd va => Sys2Proof.Machine.execVabs ty pg vd va s
  | .vpopc ty pg vd va => Sys2Proof.Machine.execVpopc ty pg vd va s
  -- Vector floating point (R247, R248).
  | .vfadd fmt pg vd va vb => Sys2Proof.Machine.execVfadd fmt pg vd va vb s
  | .vfsub fmt pg vd va vb => Sys2Proof.Machine.execVfsub fmt pg vd va vb s
  | .vfmul fmt pg vd va vb => Sys2Proof.Machine.execVfmul fmt pg vd va vb s
  | .vfdiv fmt pg vd va vb => Sys2Proof.Machine.execVfdiv fmt pg vd va vb s
  | .vfsqrt fmt pg vd va => Sys2Proof.Machine.execVfsqrt fmt pg vd va s
  | .vfmin fmt pg vd va vb => Sys2Proof.Machine.execVfmin fmt pg vd va vb s
  | .vfmax fmt pg vd va vb => Sys2Proof.Machine.execVfmax fmt pg vd va vb s
  | .vfcopysg fmt pg vd va vb => Sys2Proof.Machine.execVfcopysg fmt pg vd va vb s
  | .vfneg fmt pg vd va => Sys2Proof.Machine.execVfneg fmt pg vd va s
  | .vfabs fmt pg vd va => Sys2Proof.Machine.execVfabs fmt pg vd va s
  | .vfkind fmt pg vd va => Sys2Proof.Machine.execVfkind fmt pg vd va s
  | .vfma fmt pg vd va vb vc => Sys2Proof.Machine.execVfma fmt pg vd va vb vc s
  | .vfms fmt pg vd va vb vc => Sys2Proof.Machine.execVfms fmt pg vd va vb vc s
  -- Permutes (R249, R250).
  | .vtrn size vd => Sys2Proof.Machine.execVtrn size vd s
  | .vperm size pg vd va vb => Sys2Proof.Machine.execVperm size pg vd va vb s
  | .vlift size pg vd va rb => Sys2Proof.Machine.execVlift size pg vd va rb s
  | .vdrop size pg vd va rb => Sys2Proof.Machine.execVdrop size pg vd va rb s
  | .vrev size pg vd va => Sys2Proof.Machine.execVrev size pg vd va s
  | .vsqz size pg vd va => Sys2Proof.Machine.execVsqz size pg vd va s
  | .vknitl size pg vd va vb => Sys2Proof.Machine.execVknitl size pg vd va vb s
  | .vknith size pg vd va vb => Sys2Proof.Machine.execVknith size pg vd va vb s
  | .vsiftev size pg vd va vb => Sys2Proof.Machine.execVsiftev size pg vd va vb s
  | .vsiftod size pg vd va vb => Sys2Proof.Machine.execVsiftod size pg vd va vb s
  -- Predicates (R251).
  | .vceq ty pg pd va vb => Sys2Proof.Machine.execVceq ty pg pd va vb s
  | .vcne ty pg pd va vb => Sys2Proof.Machine.execVcne ty pg pd va vb s
  | .vclt ty pg pd va vb => Sys2Proof.Machine.execVclt ty pg pd va vb s
  | .vcle ty pg pd va vb => Sys2Proof.Machine.execVcle ty pg pd va vb s
  | .vbound ty pd ra rb => Sys2Proof.Machine.execVbound ty pd ra rb s
  | .pand pd pa pb => Sys2Proof.Machine.execPand pd pa pb s
  | .por pd pa pb => Sys2Proof.Machine.execPor pd pa pb s
  | .pxor pd pa pb => Sys2Proof.Machine.execPxor pd pa pb s
  | .pandn pd pa pb => Sys2Proof.Machine.execPandn pd pa pb s
  | .pcnt ty rd pa => Sys2Proof.Machine.execPcnt ty rd pa s
  | .pfirst ty rd pa => Sys2Proof.Machine.execPfirst ty rd pa s
  -- Vector reductions (R252, R253).
  | .vrsum ty pg vd va vb => Sys2Proof.Machine.execVrsum ty pg vd va vb s
  | .vrsumArr ty pg vd va vb => Sys2Proof.Machine.execVrsumArr ty pg vd va vb s
  | .vrmin ty pg vd va vb => Sys2Proof.Machine.execVrmin ty pg vd va vb s
  | .vrmax ty pg vd va vb => Sys2Proof.Machine.execVrmax ty pg vd va vb s
  | .vrand ty pg vd va vb => Sys2Proof.Machine.execVrand ty pg vd va vb s
  | .vror ty pg vd va vb => Sys2Proof.Machine.execVror ty pg vd va vb s
  | .vrxor ty pg vd va vb => Sys2Proof.Machine.execVrxor ty pg vd va vb s
  -- Conversions, FRAME and moves (R254 to R256, R260, R261).
  | .vcvt dst src rm part pg vd va => Sys2Proof.Machine.execVcvt dst src rm part pg vd va s
  | .frame sv n1 k1 sp => Sys2Proof.Machine.execFrame sv n1 k1 sp s
  | .vmov pg vd va => Sys2Proof.Machine.execVmov pg vd va s
  | .vdup size pg vd ra => Sys2Proof.Machine.execVdup size pg vd ra s
  | .vins size vd ra rb => Sys2Proof.Machine.execVins size vd ra rb s
  | .vextr size rd va rb => Sys2Proof.Machine.execVextr size rd va rb s
  | .vidx size pg vd ra rb => Sys2Proof.Machine.execVidx size pg vd ra rb s
  | .vwidth rd => Sys2Proof.Machine.execVwidth rd s
  -- Draws into vectors (R257 to R259).
  | .vdraw vd ds ra => Sys2Proof.Machine.execVdraw vd ds ra s
  | .vdrawb vd ds ra => Sys2Proof.Machine.execVdrawb vd ds ra s
  | .vdrawu vd ds ra => Sys2Proof.Machine.execVdrawu vd ds ra s
  | .vnoiseG vd ds ra => Sys2Proof.Machine.execVnoiseG vd ds ra s
  | .vsrcvtBf16F32 vd ds ra => Sys2Proof.Machine.execVsrcvtBf16F32 vd ds ra s
  | .vsrcvtF16F32 vd ds ra => Sys2Proof.Machine.execVsrcvtF16F32 vd ds ra s
  | .vsrcvtE4m3F32 vd ds ra => Sys2Proof.Machine.execVsrcvtE4m3F32 vd ds ra s
  | .vsrcvtE5m2F32 vd ds ra => Sys2Proof.Machine.execVsrcvtE5m2F32 vd ds ra s
  | .vsrcvtE2m1F32 vd ds ra => Sys2Proof.Machine.execVsrcvtE2m1F32 vd ds ra s
  | .vsrcvtE4m3F16 vd ds ra => Sys2Proof.Machine.execVsrcvtE4m3F16 vd ds ra s
  | .vsrcvtE5m2F16 vd ds ra => Sys2Proof.Machine.execVsrcvtE5m2F16 vd ds ra s
  | .vsrcvtE4m3Bf16 vd ds ra => Sys2Proof.Machine.execVsrcvtE4m3Bf16 vd ds ra s
  -- The matrix engine (R282 to R294).
  | .mma acc dA dB sk so pm1 rnd z => Sys2Proof.Machine.execMma acc dA dB sk so pm1 rnd z s
  | .mswap acc => Sys2Proof.Machine.execMswap acc s
  | .mwait acc => Sys2Proof.Machine.execMwait acc s
  | .mzero acc => Sys2Proof.Machine.execMzero acc s
  | .mlda acc ra => Sys2Proof.Machine.execMlda acc ra s
  | .msto fe acc ra => Sys2Proof.Machine.execMsto fe acc ra s
  | .mrow vd acc ra => Sys2Proof.Machine.execMrow vd acc ra s
  | .pdesc dn ra off => Sys2Proof.Machine.execPdesc dn ra off s
  | .pdset dn ra => Sys2Proof.Machine.execPdset dn ra s
  | .pdrd rd dn => Sys2Proof.Machine.execPdrd rd dn s
  | .pscale dn ra rb => Sys2Proof.Machine.execPscale dn ra rb s
  | .pgscale dn ra rb => Sys2Proof.Machine.execPgscale dn ra rb s
  -- The copy engine (R299 to R312).
  | .qpush port rd ra => Sys2Proof.Machine.execQpush port rd ra s
  | .qpop port rd => Sys2Proof.Machine.execQpop port rd s
  | .qtry port rd => Sys2Proof.Machine.execQtry port rd s
  | .qstat port rd => Sys2Proof.Machine.execQstat port rd s
  | .qabort port => Sys2Proof.Machine.execQabort port s
  -- The cluster event unit (R316 to R328).
  | .barv rd b => Sys2Proof.Machine.execBarv rd b s
  | .barw rd ra b => Sys2Proof.Machine.execBarw rd ra b s
  | .evsig ra e => Sys2Proof.Machine.execEvsig ra e s
  | .evwait rd e => Sys2Proof.Machine.execEvwait rd e s
  | .evtry rd e => Sys2Proof.Machine.execEvtry rd e s
  | .mlock m => Sys2Proof.Machine.execMlock m s
  | .mtry rd m => Sys2Proof.Machine.execMtry rd m s
  | .munlock rd m => Sys2Proof.Machine.execMunlock rd m s
  | .monitorAndWait acq scope rd ra rb => Sys2Proof.Machine.execMonitorAndWait acq scope rd ra rb s
  -- The task dispatcher and gangs (R348 to R373).
  | .launch rd ra q => Sys2Proof.Machine.execLaunch rd ra q s
  | .tspawn ra => Sys2Proof.Machine.execTspawn ra s
  | .tnext rd => Sys2Proof.Machine.execTnext rd s
  | .tend => Sys2Proof.Machine.execTend s
  | .await ra => Sys2Proof.Machine.execAwait ra s
  | .tinfo rd k => Sys2Proof.Machine.execTinfo rd k s
  | .tclose rd ra q => Sys2Proof.Machine.execTclose rd ra q s
  | .tqstat rd q => Sys2Proof.Machine.execTqstat rd q s
  | .fuse rd n => Sys2Proof.Machine.execFuse rd n s
  | .split => Sys2Proof.Machine.execSplit s
  | .gidx rd => Sys2Proof.Machine.execGidx rd s
  | .gsize rd => Sys2Proof.Machine.execGsize rd s
  | .gredAdd rd ra => Sys2Proof.Machine.execGredAdd rd ra s
  | .gredAnd rd ra => Sys2Proof.Machine.execGredAnd rd ra s
  | .gredOr rd ra => Sys2Proof.Machine.execGredOr rd ra s
  | .gredXor rd ra => Sys2Proof.Machine.execGredXor rd ra s
  | .gredMin rd ra => Sys2Proof.Machine.execGredMin rd ra s
  | .gredMax rd ra => Sys2Proof.Machine.execGredMax rd ra s
  | .gredMinn rd ra => Sys2Proof.Machine.execGredMinn rd ra s
  | .gredMaxn rd ra => Sys2Proof.Machine.execGredMaxn rd ra s
  -- The draw unit (R188 to R215).
  | .draw rd ds ra => Sys2Proof.Machine.execDraw rd ds ra s
  | .dkey ds t => Sys2Proof.Machine.execDkey ds t s
  | .dkset ds ra => Sys2Proof.Machine.execDkset ds ra s
  | .dkrd rd ds => Sys2Proof.Machine.execDkrd rd ds s
  | .reseed rd => Sys2Proof.Machine.execReseed rd s
  | .seedset rd ra => Sys2Proof.Machine.execSeedset rd ra s
  | .seedrd rd => Sys2Proof.Machine.execSeedrd rd s
  | .cplace rd ra => Sys2Proof.Machine.execCplace rd ra s
  | .exq rd ra c => Sys2Proof.Machine.execExq rd ra c s
  | .exqm rd c => Sys2Proof.Machine.execExqm rd c s
  -- The cell unit (R398 to R411).
  | .propose ord scope rd ra rb => Sys2Proof.Machine.execPropose ord scope rd ra rb s
  | .cread wait ord scope rd ra rb => Sys2Proof.Machine.execCread wait ord scope rd ra rb s
  | .recycleRetire ord scope rd ra rb => Sys2Proof.Machine.execRecycleRetire ord scope rd ra rb s
  | .recycleOpen ord scope rd ra rb => Sys2Proof.Machine.execRecycleOpen ord scope rd ra rb s
  | .cinit ord scope ra rb => Sys2Proof.Machine.execCinit ord scope ra rb s
  -- The galley (R374 to R393).
  | .fpt rd => Sys2Proof.Machine.execFpt rd s
  | .fcut rd ra q => Sys2Proof.Machine.execFcut rd ra q s
  | .fprog rd q => Sys2Proof.Machine.execFprog rd q s
  -- The stop tree (R329 to R347).
  | .ctrd rd n => Sys2Proof.Machine.execCtrd rd n s
  | .ctsel ra slot => Sys2Proof.Machine.execCtsel ra slot s
  | .tstamp rd => Sys2Proof.Machine.execTstamp rd s
  | .proof rd ra => Sys2Proof.Machine.execProof rd ra s
  -- Steps: asynchronous causes and what requests them (R98).
  | .asynchronousCause => Sys2Proof.Machine.execAsynchronousCause s
  | .preemptRequest core source => Sys2Proof.Machine.execPreemptRequest core source s
  | .uncorrRecord core faddr place => Sys2Proof.Machine.execUncorrRecord core faddr place s
  -- Steps: conversions, FRAME and moves (R254 to R256, R260, R261).
  | .frameReplay => Sys2Proof.Machine.execFrameReplay s
  -- Steps: the matrix engine (R282 to R294).
  | .matrixQueueEntry core mctl err => Sys2Proof.Machine.execMatrixQueueEntry core mctl err s
  -- Steps: the copy engine (R299 to R312).
  | .copy core port err => Sys2Proof.Machine.execCopy core port err s
  | .mcast core port err => Sys2Proof.Machine.execMcast core port err s
  | .fill core port => Sys2Proof.Machine.execFill core port s
  -- Steps: the cluster event unit (R316 to R328).
  | .barrierCfgWrite b value => Sys2Proof.Machine.execBarrierCfgWrite b value s
  | .barrierParentWrite b value => Sys2Proof.Machine.execBarrierParentWrite b value s
  | .eventWordWrite e value => Sys2Proof.Machine.execEventWordWrite e value s
  | .eventUnitWrite offset size => Sys2Proof.Machine.execEventUnitWrite offset size s
  | .eventSignal m => Sys2Proof.Machine.execEventSignal m s
  | .arrive m => Sys2Proof.Machine.execArrive m s
  | .release m timedOut => Sys2Proof.Machine.execRelease m timedOut s
  | .absent m => Sys2Proof.Machine.execAbsent m s
  | .present m => Sys2Proof.Machine.execPresent m s
  | .barrierTimeout cluster b => Sys2Proof.Machine.execBarrierTimeout cluster b s
  -- Steps: the task dispatcher and gangs (R348 to R373).
  | .launchStart q seq => Sys2Proof.Machine.execLaunchStart q seq s
  | .taskStart core => Sys2Proof.Machine.execTaskStart core s
  | .spawnPacket id => Sys2Proof.Machine.execSpawnPacket id s
  | .awaitResume core => Sys2Proof.Machine.execAwaitResume core s
  | .clusterReport q seq cluster => Sys2Proof.Machine.execClusterReport q seq cluster s
  | .dieReport q seq die => Sys2Proof.Machine.execDieReport q seq die s
  | .launchCompletion q seq => Sys2Proof.Machine.execLaunchCompletion q seq s
  -- Steps: the draw unit (R188 to R215).
  | .arbitrationRound cls inst accepts => Sys2Proof.Machine.execArbitrationRound cls inst accepts s
  | .sweepMove owner stack => Sys2Proof.Machine.execSweepMove owner stack s
  | .windowClose owner stack => Sys2Proof.Machine.execWindowClose owner stack s
  | .unitRetirement u => Sys2Proof.Machine.execUnitRetirement u s
  | .unitReturn u => Sys2Proof.Machine.execUnitReturn u s
  | .weightChange owner weights => Sys2Proof.Machine.execWeightChange owner weights s
  -- Steps: the galley (R374 to R393).
  | .pointFire q seq x0 x1 x2 => Sys2Proof.Machine.execPointFire q seq x0 x1 x2 s
  -- Steps: homes, slices and walkers (R131 to R161, R174).
  | .storeAtHome id => Sys2Proof.Machine.execStoreAtHome id s
  | .update id cluster => Sys2Proof.Machine.execUpdate id cluster s
  | .commit id => Sys2Proof.Machine.execCommit id s
  | .commitAtSharer id cluster => Sys2Proof.Machine.execCommitAtSharer id cluster s
  | .loadMiss cluster pa => Sys2Proof.Machine.execLoadMiss cluster pa s
  | .grainEviction cluster pa => Sys2Proof.Machine.execGrainEviction cluster pa s
  | .directoryEntryReuse pa => Sys2Proof.Machine.execDirectoryEntryReuse pa s
  | .redAcceptance cluster r => Sys2Proof.Machine.execRedAcceptance cluster r s
  | .partialGiveUp cluster pa => Sys2Proof.Machine.execPartialGiveUp cluster pa s
  | .pageWalk cluster va => Sys2Proof.Machine.execPageWalk cluster va s
  | .remoteRefusal r => Sys2Proof.Machine.execRemoteRefusal r s
  | .scrub cluster => Sys2Proof.Machine.execScrub cluster s
  | .scrubEnd cluster => Sys2Proof.Machine.execScrubEnd cluster s
  -- Steps: the stop tree (R329 to R347).
  | .synchronisedStop owner tick => Sys2Proof.Machine.execSynchronisedStop owner tick s
  | .coreHalt core => Sys2Proof.Machine.execCoreHalt core s
  | .routerHalt site router => Sys2Proof.Machine.execRouterHalt site router s
  | .flushToken site at' => Sys2Proof.Machine.execFlushToken site at' s
  | .cutClose => Sys2Proof.Machine.execCutClose s
  | .dieSaveComplete site => Sys2Proof.Machine.execDieSaveComplete site s
  | .saveDeadline site => Sys2Proof.Machine.execSaveDeadline site s
  | .restore owner => Sys2Proof.Machine.execRestore owner s
  | .pcSample core => Sys2Proof.Machine.execPcSample core s
  | .counterSlotRotation => Sys2Proof.Machine.execCounterSlotRotation s
  | .proofTrigger => Sys2Proof.Machine.execProofTrigger s
  | .gcycleStep extra toff => Sys2Proof.Machine.execGcycleStep extra toff s
  | .ptpMessage port => Sys2Proof.Machine.execPtpMessage port s
  | .ptpLoss => Sys2Proof.Machine.execPtpLoss s
  -- Steps: the host port (R415 to R428).
  | .create h body => Sys2Proof.Machine.execCreate h body s
  | .destroy h => Sys2Proof.Machine.execDestroy h s
  | .map h body => Sys2Proof.Machine.execMap h body s
  | .unmap h body => Sys2Proof.Machine.execUnmap h body s
  | .load h body => Sys2Proof.Machine.execLoad h body s
  | .bind h body => Sys2Proof.Machine.execBind h body s
  | .hostLaunch h body => Sys2Proof.Machine.execHostLaunch h body s
  | .sched h body => Sys2Proof.Machine.execSched h body s
  | .coreRequest h body => Sys2Proof.Machine.execCoreRequest h body s
  | .power h body => Sys2Proof.Machine.execPower h body s
  | .attest h body => Sys2Proof.Machine.execAttest h body s
  | .firmware h body => Sys2Proof.Machine.execFirmware h body s
  | .ptpcfg h body => Sys2Proof.Machine.execPtpcfg h body s
  | .otherRequestCode h code => Sys2Proof.Machine.execOtherRequestCode h code s
  | .packetDrop port => Sys2Proof.Machine.execPacketDrop port s
  | .unlistedEndpoint endpoint => Sys2Proof.Machine.execUnlistedEndpoint endpoint s
  | .powerOn => Sys2Proof.Machine.execPowerOn s
  | .functionCheckEnd f passed => Sys2Proof.Machine.execFunctionCheckEnd f passed s
  | .thermalThrottle => Sys2Proof.Machine.execThermalThrottle s
  | .thermalRecovery => Sys2Proof.Machine.execThermalRecovery s
  | .thermalShutdown => Sys2Proof.Machine.execThermalShutdown s
  | .deviceIdentifierAssignment id => Sys2Proof.Machine.execDeviceIdentifierAssignment id s

end Sys2Proof.Machine
end

