-- ==== Sys2Proof/Machine/Advance.lean ====
section
/-! DEFINITION. What one step does: the current core at an instruction boundary, or the agent that the next input names (log 1);
and how a word is placed where the core fetches (log 2). -/
namespace Sys2Proof.Machine

-- What the current core performs next.

/-- A decoded word performed. -/
def runWord (i : Instr ⊕ Late) (s : State) : Result State :=
  match i with
  | .inl j => exec j (s.settled i)
  | .inr l => execLate l (s.settled i)

-- Counters (R342, R343).

/-- A replay of a FRAME, which retires no instruction of its own. -/
def isReplay (d : Dev) : Instr ⊕ Late → Bool
  | .inl .frameReplay => d.core.frame.isSome
  | _ => false
def countsAsVector (d : Dev) : Instr ⊕ Late → Bool
  | .inl .frameReplay => true
  | .inl i => isVector d i
  | .inr _ => false

/-- A core completed an instruction between two states of the device: it neither waits nor has trapped. -/
def coreDone (d0 d1 : Dev) (c : Nat) : Bool := decide ((d1.coreAt c).stall = 0) && decide ((d1.coreAt c).traps = (d0.coreAt c).traps)
/-- A core began a full/empty wait. -/
def coreBlocked (d0 d1 : Dev) (c : Nat) : Bool := decide ((d1.coreAt c).stall = 5) && decide ((d0.coreAt c).stall ≠ 5)

/-- The counters of a step in which some cores performed an instruction, d0 before and d1 after it: instructions retired, full/empty waits
begun and vector instructions completed. -/
def Dev.tally (d0 : Dev) (cs : List Nat) (i : Option (Instr ⊕ Late)) (d1 : Dev) : Dev :=
  let done := (cs.filter (coreDone d0 d1)).length
  ((d1.count d0.owner 0x001 (if i.any (isReplay d0) then 0 else done)).event
    d0.owner 0x08 (cs.filter (coreBlocked d0 d1)).length).event d0.owner 0x09 (if i.any (countsAsVector d0) then done else 0)

/-- The tally of a result. -/
def tallied (d0 : Dev) (cs : List Nat) (i : Option (Instr ⊕ Late)) : Result State → Result State
  | .next u => .next (u.withDev (d0.tally cs i u.d))
  | .fault f => .fault f
  | .refused r => .refused r

-- The current core's turn.

/-- The core with its stall forgotten, as it stands when it tries the instruction at its pc. -/
def State.unstalled (s : State) : State := s.withDev { s.d with core := { s.d.core with stall := 0 } }

/-- A core that leaves its gang does so once its instruction is complete (R372). -/
def leavingDone (d0 : Dev) : Result State → Result State
  | .next u => .next (u.withDev (d0.afterLeaving u.d))
  | .fault f => .fault f
  | .refused r => .refused r

/-- What a stop of the fetch leaves: a core that traps waits for nothing at the event unit (R324). -/
def Dev.fetchStopped (d : Dev) (e : Stop) : Dev :=
  match e with
  | .trap _ | .walkedTrap _ _ => (d.stopped e).giveUpWaits [d.core.id] none none
  | .wait _ | .left _ _ => d.stopped e

/-- A core outside a gang performs one instruction. -/
def State.runOne (s : State) : Result State :=
  match s.d.pick with
  | .error e => leavingDone s.d (tallied s.d [s.d.core.id] none (.next (s.withDev (s.unstalled.d.fetchStopped e))))
  | .ok (.inl i) =>
    if s.d.handsOn (.inl i) then .next (s.withDev (s.unstalled.d.handOn i))
    else leavingDone s.d (tallied s.d [s.d.core.id] (some (.inl i)) (runWord (.inl i) s.unstalled))
  | .ok (.inr l) => leavingDone s.d (tallied s.d [s.d.core.id] (some (.inr l)) (runWord (.inr l) s.unstalled))

/-- A gang performs one instruction (R369). -/
def State.runGang (s : State) : Result State := tallied s.d s.d.toRun s.d.atWord.pick.toOption (gangStep runWord s)

/-- A clock-gated core: it goes on past its HALT once a bit of IPEND is set (R124). -/
def State.wake (s : State) : Result State :=
  if s.d.core.anyPending then
    tallied s.d [s.d.core.id] none
      (.next (s.withDev ({ s.d with core := { s.d.core with run := .running, stall := 0 } }).advance))
  else .next s

/-- The current core can act: no synchronised stop holds it, and its cluster is in service and clocked (R19, R330, R423). -/
def Dev.coreOn (d : Dev) : Bool := d.clocked && d.core.halt.isNone && !d.clusters[d.cluster].retired

/-- Members of the current core's gang at which a cause is due (R372). -/
def Dev.dueMember (d : Dev) : Option Nat := d.members.find? fun c => (d.switchTo c).causeDue

/-- The turn of the current core: a cause that is due is taken, an idle core takes work, and else an instruction is performed. -/
def State.coreTurn (s : State) : Result State :=
  if !s.d.coreOn then .next s
  else
    match s.d.dueMember with
    | some c => .next (s.withDev (((s.d.switchTo c).interrupt).switchTo s.d.core.id))
    | none =>
      match s.d.core.run with
      | .idle => execTaskStart s.d.core.id s
      | .halted => s.wake
      | .escalated _ _ _ _ => .next s
      | .running => if s.d.core.gang.isSome then s.runGang else s.runOne

-- The inputs (log 1).

/-- Stores in flight grow older by n cycles, but for those of halted cores; a store of this device that is 8,192 cycles old has committed
(R65, R66). -/
def Dev.aged (d : Dev) (n : Nat) : Dev :=
  (d.setMem { d.mem with
    stores := d.mem.stores.map fun r => if (d.coreAt r.core).halt.isSome then r else { r with age := r.age + n } }).commitWhere fun r =>
      r.dev.isNone && decide (Config.storeBound ≤ r.age)

/-- A core cycle run: its core runs, neither the stop tree nor HALT holds it, and its cluster is in service and clocked (R342). -/
def Dev.runs (d : Dev) (c : Core) : Bool :=
  decide (c.run = .running) && c.halt.isNone && d.clocked && !d.clusters[clusterIx c.id].retired

/-- The cycles of the running cores, and the ticks of GCYCLE of the positions that each owner with a cluster counts (R342, R343). -/
def Dev.countCycles (d : Dev) (cycles ticks : Nat) : Dev :=
  let e := (d.cores.filter d.runs).foldl (fun x c => x.count x.clusters[clusterIx c.id].owner 0x000 cycles) d
  { e with owners := e.owners.mapFinIdx fun o x _ =>
      if x.counting.isEmpty || !(e.clusters.toList.any fun c => decide (c.owner = o)) then x
      else x.counting.foldl (fun y s => y.count (0x120 + s.1) ticks) x }

/-- Cycles pass while GCYCLE moves by ticks (R344): the slots that are due rotate, both are counted, stores grow older, and then what the tick of a
proof trigger or of a stop brings happens. -/
def State.passOnce (cycles ticks : Nat) (s : State) : State :=
  let t := s.gcycle + ticks
  { s with gcycle := t, d := ((((s.d.rotateSlots s.gcycle).countCycles cycles ticks).aged cycles).latchProof t).stopsDue t }

/-- An owner's slots count something, or will after the next rotation. -/
def Owner.counts (o : Owner) : Bool := !o.counting.isEmpty || o.events.toList.any fun c => decide (c ≠ 0)

/-- The ticks after one and up to another at which the slots of owners that count something rotate (R343). -/
def Dev.rotations (d : Dev) (now last : Nat) : List Nat :=
  if d.owners.toList.any Owner.counts then
    (List.range (last / Config.periodTicks - now / Config.periodTicks)).map fun i => Config.periodTicks * (now / Config.periodTicks + 1 + i)
  else []

/-- The ticks to come up to one at which something happens of itself: the first and the last cycle of a stop's window, the tick of a proof trigger,
and the rotations of counter slots (R330, R343, R345). -/
def Dev.moments (d : Dev) (now last : Nat) : List Nat :=
  (d.stops.flatMap fun x => [x.2.tick, x.2.tick + (Config.haltWindow - 1)]) ++ (d.trigger.map (·.tick)).toList ++ d.rotations now last

/-- Time passes by n cycles (R344), from each moment at which something happens to the next. -/
def State.pass (n : Nat) (s : State) : State :=
  let last := s.gcycle + n
  let between := ((s.d.moments s.gcycle last).filter fun m => decide (s.gcycle < m ∧ m < last)).foldl (fun l m => setInsert m l) []
  (between ++ [last]).foldl (fun u m => u.passOnce (m - u.gcycle) (m - u.gcycle)) s

/-- GCYCLE advances by one with a step (R344). -/
def State.ticked (s : State) : State := s.passOnce 1 1
def tickedResult : Result State → Result State
  | .next s => .next s.ticked
  | .fault f => .fault f
  | .refused r => .refused r

/-- A step of an agent other than the current core's instruction stream: what no word encodes and no core decodes. -/
def isEvent : Instr → Bool
  | .illop _ _ => false
  | i => (encode i).isNone

/-- GCYCLE_STEP says by how many ticks GCYCLE advances in the cycle of its step. -/
def ownClock : Instr → Bool
  | .gcycleStep _ _ => true
  | _ => false
def isPowerOn : Instr → Bool
  | .powerOn => true
  | _ => false

/-- A sample takes no cycle of the cores, so that every cluster's sampler may act at one tick (R338). -/
def isSample : Instr → Bool
  | .pcSample _ => true
  | _ => false

/-- The steps of the compositor, the ports and time, which go on while the clusters are not clocked (R423). -/
def goesOn : Instr → Bool
  | .create _ _ | .destroy _ | .map _ _ | .unmap _ _ | .load _ _ | .bind _ _ | .hostLaunch _ _ | .sched _ _ | .coreRequest _ _ | .power _ _
  | .attest _ _ | .firmware _ _ | .ptpcfg _ _ | .otherRequestCode _ _ | .packetDrop _ | .unlistedEndpoint _ | .powerOn
  | .functionCheckEnd _ _ | .thermalThrottle | .thermalRecovery | .thermalShutdown | .deviceIdentifierAssignment _
  | .unitRetirement _ | .unitReturn _ | .weightChange _ _ | .arbitrationRound _ _ _ | .synchronisedStop _ _
  | .gcycleStep _ _ | .ptpMessage _ | .ptpLoss => true
  | _ => false

/-- A step that the input list names; without power only POWER_ON happens (R424), and without a clock no step of the clusters and of memory
(R423). -/
def State.hearEvent (i : Instr) (s : State) : Result State :=
  if !isEvent i then .fault .spuriousInput
  else if (!s.d.host.powered && !isPowerOn i) || (!s.d.clocked && !goesOn i) then .next s.ticked
  else if isSample i then exec i s
  else if ownClock i then
    match exec i s with
    | .next u => .next (State.passOnce 1 (u.gcycle - s.gcycle) { u with gcycle := s.gcycle })
    | .fault f => .fault f
    | .refused r => .refused r
  else tickedResult (exec i s)

/-- Another core becomes current; of a gang, its leader. -/
def Dev.turnTo (d : Dev) (c : Nat) : Dev :=
  if coreExists c then d.switchTo (((d.coreAt c).gang.map (·.leader)).getD c) else d

/-- A row of a core's scratchpad takes an uncorrectable error (log 5). -/
def Dev.corruptPad (d : Dev) (c row : Nat) : Dev :=
  if coreExists c then
    let x := d.coreAt c
    d.setCore { x with pad := { x.pad with bad := setInsert row x.pad.bad } }
  else d

/-- Host sessions in which a LAUNCH waits try it again (R420). -/
def State.retried (s : State) : State := s.withDev s.d.retryWaiting

/-- An input heard. -/
def State.hear (x : Input) (s : State) : Result State :=
  match x with
  | .event i => s.hearEvent i
  | .turn c => .next (s.withDev (s.d.turnTo c)).ticked
  | .tick n => .next (s.pass n).retried
  | .request c n o => .next (s.withDev (s.d.requestAt c n o)).ticked
  | .corrupt b => .next (s.withDev (s.d.setMem { s.d.mem with bad := b :: s.d.mem.bad })).ticked
  | .corruptPad c row => .next (s.withDev (s.d.corruptPad c row)).ticked
  | .remote x e r => .next (s.withDev (s.d.remoteOp x e r)).ticked
  | .unitRefusal m => .next (s.withDev (s.d.unitRefusal m)).ticked
  | .provision es => .next (s.withDev (s.d.provision es)).ticked
  | .nameNotify o c => .next (s.withDev (s.d.nameNotify o c)).ticked
  | .stopAt o p => .next (s.withDev (s.d.startStop s.gcycle o (s.tickOfPtp p))).ticked
  | .context o x => .next (s.withDev (s.d.installContext o x)).ticked
  | .armProof o t => .next (s.withDev (s.d.armProof s.gcycle o t)).ticked
  | .podCell g named => .next (s.withDev (s.d.nameCell g named)).ticked
  | .message c m => .next (s.withDev (if s.d.clocked then s.d.messageArrives c m else s.d)).ticked
  | .deliver c => .next (s.withDev (if s.d.clocked then s.d.deliverMessage c else s.d)).ticked

-- A word placed where the current core fetches (log 2).

/-- The current core able to fetch and run: its task and registers stay. -/
def Dev.readyCore (d : Dev) : Dev :=
  let k := d.cluster
  let e := { d with
    core := { d.core with run := .running, frame := none, sequencer := [], gang := none, leaving := false, stall := 0, halt := none }
    host := if d.clocked then d.host else { d.host with powered := true, power := .active }
    clusters := if d.clusters[k].retired then d.clusters.set k { d.clusters[k] with retired := false } else d.clusters }
  if e.causeDue then { e with core := { e.core with status := { e.core.status with ie := false } } } else e

/-- Bytes of two ranges of one length meet. -/
def meets (a n b m : Nat) : Bool := decide (a < b + m) && decide (b < a + n)

/-- The word in local memory at a physical address, with no store in flight, no partial and no copy that meets its grain but one copy of
the grain in the slice and one in the core's instruction cache. -/
def Dev.putWord (d : Dev) (e : Word) (pa : Nat) (w : Word32) : Dev :=
  let b := grainBase pa (grainBytes e)
  let n := grainBytes e
  let d1 := { d with mem := { d.mem with
      hbm := d.mem.hbm.write pa (wordBytes w)
      stores := d.mem.stores.filter fun r => r.dev.isSome || !meets r.pa r.bytes.length b n
      partials := d.mem.partials.filter fun p => !p.inGrain none b n
      copies := d.mem.copies.filter fun c => c.dev.isSome || !meets c.base c.size b n
      bad := d.mem.bad.filter fun u => u.dev.isSome || !meets (64 * u.unit) 64 b n } }
  if pteDec e then d1
  else (d1.keepGrain d1.cluster none none b n (!pteSl e) false).keepCode e pa

/-- The leaf of the pc's page in the translation cache. -/
def Dev.cacheLeaf (d : Dev) (e : Word) : Dev :=
  let k := d.cluster
  let o := d.owner
  if (d.tlbLookup k o d.core.pc).isSome then d
  else
    d.setCluster k { d.clusters[k] with
      tlb := { owner := o, gen := d.gen, va := d.core.pc.toNat / pageBytes e * pageBytes e, size := pageBytes e, leaf := e
               level := match d.walk o d.core.pc with | .leaf _ n => n | .fails n => n }
        :: d.clusters[k].tlb }

/-- The word placed in the page that holds the pc, if the core may execute it. -/
def Dev.putAtPc (d : Dev) (w : Word32) : Dev :=
  match d.translateNow d.cluster d.owner d.core.status.pl .fetch d.core.pc with
  | .ok e pa => if pteRmt e then d else (d.cacheLeaf e).putWord e pa w
  | .fault _ _ | .held | .miss => d

/-- The pc that a word can be placed at. -/
def placeable (pc : Word) : Bool := decide (pc.toNat % 4 = 0) && canonical pc && !inLocalRange pc

/-- Tables that map the 8 MiB around the pc to an executable page at 0x80_0000, as the compositor would install them. -/
def Dev.mapPc (d : Dev) : Dev :=
  let pc := if placeable d.core.pc then d.core.pc else 0
  let k := d.cluster
  let m := (((d.mem.hbm.write (0x100000 + 8 * walkIndex pc 1) (leBytes 8 0x108001)).write (0x108000 + 8 * walkIndex pc 2)
    (leBytes 8 0x10C001)).write (0x10C000 + 8 * walkIndex pc 3) (leBytes 8 0xB00000000080001B))
  ({ d with
      core := { d.core with pc := pc }
      clusters := d.clusters.set k { d.clusters[k] with tlb := [] }
      mem := { d.mem with hbm := m, retired := []
                          partials := d.mem.partials.filter fun p => !p.inGrain none 0x100000 0x10000 } }).setOwner d.owner { d.ownerAt d.owner with root := some 0x100000 }

/-- The core would fetch this word. -/
def Dev.fetches (d : Dev) (w : Word32) : Bool :=
  match d.fetch with
  | .ok x => decide (x = w)
  | .error _ => false

/-- The device with the word where the current core fetches next: in the page that is mapped there, or in one mapped for it. -/
def Dev.placeWord (d : Dev) (w : Word32) : Dev :=
  let e := d.readyCore.putAtPc w
  if e.fetches w then e else d.readyCore.mapPc.putAtPc w

end Sys2Proof.Machine
end

