-- ==== Sys2Proof/Machine/Step.lean ====
section
/-! DEFINITION. One step of the machine, and the machine with a word where it fetches next. -/
namespace Sys2Proof.Machine

/-- One step: the first input is heard, or the current core has its turn (log 1). -/
def step (s : State) : Host.Outcome State Fault Refusal :=
  match s.inputs with
  | x :: t => State.hear x { s with inputs := t }
  | [] => tickedResult s.coreTurn

/-- The machine with an instruction word where step fetches next (log 2). -/
def State.withFetchWord (s : State) (_nbits w : Nat) : State :=
  { s with d := s.d.placeWord (BitVec.ofNat 32 w), inputs := [] }

end Sys2Proof.Machine
end

