-- ==== Sys2Proof/Safety.lean ====
section
/-! DEFINITION. The terms in which claims are stated: what a step leaves unchanged, what an instruction writes, and the invariant of
the machine's memories. -/
namespace Sys2Proof.Machine

/-- An instruction completes: exec answers a next state, which satisfies P. -/
def Gives (r : Result State) (P : State → Prop) : Prop := ∃ t, r = .next t ∧ P t

/-- The machine with the current core replaced and nothing else. -/
def State.withCore (s : State) (c : Core) : State := { s with d := { s.d with core := c } }

-- Frames: t is s but for the named parts of the current core.

/-- Nothing but the pc differs. -/
def SameButPc (s t : State) : Prop := t = s.withCore { s.d.core with pc := t.d.core.pc }
/-- Nothing but scalar registers and the pc differs. -/
def SameButScalars (s t : State) : Prop := t = s.withCore { s.d.core with s := t.d.core.s, pc := t.d.core.pc }
/-- Nothing but scalar registers, FFLAGS and the pc differs. -/
def SameButScalarsFlags (s t : State) : Prop :=
  t = s.withCore { s.d.core with s := t.d.core.s, fflags := t.d.core.fflags, pc := t.d.core.pc }
/-- Nothing but vector registers, FFLAGS and the pc differs. -/
def SameButVectors (s t : State) : Prop :=
  t = s.withCore { s.d.core with v := t.d.core.v, fflags := t.d.core.fflags, pc := t.d.core.pc }
/-- Nothing but predicate registers, FFLAGS and the pc differs. -/
def SameButPredicates (s t : State) : Prop :=
  t = s.withCore { s.d.core with p := t.d.core.p, fflags := t.d.core.fflags, pc := t.d.core.pc }

/-- The next instruction in memory order is next (R50). -/
def GoesOn (s t : State) : Prop := t.d.core.pc = s.d.core.pc + 4

/-- Of the scalar registers, only rd changes, and it reads as x; s0 reads as zero whatever is written (R29). -/
def ScalarIs (s t : State) (rd : SReg) (x : Word) : Prop :=
  t.d.rd rd = (if rd = 0 then 0 else x) ∧ ∀ r, r ≠ rd → t.d.rd r = s.d.rd r

/-- A scalar register takes a value, the pc moves on, and nothing else changes. -/
def WritesScalar (s t : State) (rd : SReg) (x : Word) : Prop := ScalarIs s t rd x ∧ GoesOn s t ∧ SameButScalars s t

/-- The flags f raised: each sticks (R229). -/
def Raises (s t : State) (f : Flags) : Prop :=
  t.d.core.fflags.nv = (s.d.core.fflags.nv || f.nv) ∧ t.d.core.fflags.dz = (s.d.core.fflags.dz || f.dz) ∧
  t.d.core.fflags.of = (s.d.core.fflags.of || f.of) ∧ t.d.core.fflags.uf = (s.d.core.fflags.uf || f.uf) ∧
  t.d.core.fflags.nx = (s.d.core.fflags.nx || f.nx)

/-- A scalar register takes a value, flags are raised, the pc moves on, and nothing else changes. -/
def WritesScalarFlags (s t : State) (rd : SReg) (x : Word) (f : Flags) : Prop :=
  ScalarIs s t rd x ∧ Raises s t f ∧ GoesOn s t ∧ SameButScalarsFlags s t

/-- Of the vector registers, only vd changes, and its lanes of w bits are those of f; flags fl are raised; the pc moves on. -/
def WritesLanes (s t : State) (vd : VReg) (w : Nat) (f : Nat → Nat) (fl : Flags) : Prop :=
  (∀ i, i < lanes w → elem w (t.d.rdV vd) i = f i) ∧ (∀ r, r ≠ vd → t.d.rdV r = s.d.rdV r) ∧
  Raises s t fl ∧ GoesOn s t ∧ SameButVectors s t

/-- A predicate register takes a value; p0 keeps reading as all ones (R29). -/
def WritesPredicate (s t : State) (pd : PReg) (x : PWord) (fl : Flags) : Prop :=
  t.d.rdP pd = (if pd = 0 then BitVec.allOnes 256 else x) ∧ (∀ q, q ≠ pd → t.d.rdP q = s.d.rdP q) ∧
  Raises s t fl ∧ GoesOn s t ∧ SameButPredicates s t

/-- Another device, with the inputs and GCYCLE as they were. -/
def SameOutside (s t : State) : Prop := t.gcycle = s.gcycle ∧ t.inputs = s.inputs

/-- A trap entry with nothing left to the vector engine, as R91 writes it: t has the cause registers, the status, the stack exchange and the pc of the
entry, and is s in everything else. -/
def Entered (s t : State) (code : BitVec 6) (epc faddr finfo : Word) (async defer : Bool) : Prop :=
  let c := s.d.core
  let e := t.d.core
  e.cause = { defer := defer, async := async, code := code } ∧ e.epc = epc ∧ e.faddr = faddr ∧ e.finfo = finfo ∧
  e.status = { cons := false, ppl := c.status.pl, pie := c.status.ie, ie := false, pl := .supervisor } ∧ e.pc = c.tvec ∧
  e.run = .running ∧ e.parked = false ∧
  (if c.status.pl = .user then t.d.rd 30 = c.tstack ∧ e.tstack = s.d.rd 30 ∧ ∀ r, r ≠ 30 → t.d.rd r = s.d.rd r
   else e.tstack = c.tstack ∧ e.s = c.s) ∧
  t = s.withCore { c with
    cause := e.cause, epc := e.epc, faddr := e.faddr, finfo := e.finfo, status := e.status, pc := e.pc, run := e.run
    parked := e.parked, tstack := e.tstack, s := e.s, traps := e.traps }

/-- A synchronous trap of the instruction at the pc (R91, R95). -/
def EnteredAt (s t : State) (code : BitVec 6) (faddr finfo : Word) : Prop := Entered s t code s.d.core.pc faddr finfo false false

/-- The vector engine has completed what it was given: no FRAME is active and the sequencer holds nothing (R16, R242). -/
abbrev State.Quiet (s : State) : Prop := s.d.core.frame = none ∧ s.d.core.sequencer = []

/-- A trap can be entered: the handler has consumed the last one, and no vector instruction has still to complete (R91, R93, R99). -/
def CanTrap (s : State) : Prop := s.d.core.status.cons = true ∧ s.Quiet

/-- The instructions that R87 and their own chapters reserve to supervisor level. -/
def supervisorOnly : Instr → Bool
  | .eret | .cwrStatus _ | .monitorAndWait _ _ _ _ _ | .reseed _ | .seedset _ _ | .qabort _ | .tclose _ _ _ | .cinit _ _ _ _
  | .fcut _ _ _ | .ctsel _ _ | .proof _ _ | .orph _ _ _ => true
  | .xinv ro _ => decide (ro = 0)
  | .xinva ro => decide (ro = 0)
  | .crd _ r => !userCreg r
  | .cwr r _ => !userCreg r
  | _ => false

-- Results as numbers (R49).

/-- U64 of a natural number. -/
def u64 (n : Nat) : Word := BitVec.ofNat 64 n
/-- The 64-bit word of an integer. -/
def s64 (i : Int) : Word := BitVec.ofInt 64 i
/-- SExt(i, 32): the low 32 bits of an integer, read as two's complement. -/
def s32 (i : Int) : Word := BitVec.ofInt 64 (i.bmod (2 ^ 32))
/-- 1 or 0. -/
def one01 (b : Bool) : Word := if b then 1 else 0

-- Floating-point codes as the spec's tables read them (R117, R120, R220).

/-- The exact value of a finite code. -/
def Exact.rat (x : Exact) : Rat := (if x.neg then -1 else 1) * (x.num : Rat) / (x.den : Rat)
/-- Width, exponent bits and fraction bits of a scalar format (R220). -/
def fpWidth : FFmt → Nat
  | .f32 => 32 | .f16 => 16 | .bf16 => 16
def fpFrac : FFmt → Nat
  | .f32 => 23 | .f16 => 10 | .bf16 => 7
/-- The canonical quiet NaN (R120). -/
def fpCanonical : FFmt → Nat
  | .f32 => 0x7FC00000 | .f16 => 0x7E00 | .bf16 => 0x7FC0
/-- The code of +infinity. -/
def fpInfinity : FFmt → Nat
  | .f32 => 0x7F800000 | .f16 => 0x7C00 | .bf16 => 0x7F80
/-- A code without its sign, and its sign. -/
def fpMag (f : FFmt) (c : Nat) : Nat := c % 2 ^ (fpWidth f - 1)
def fpNeg (f : FFmt) (c : Nat) : Bool := decide (c / 2 ^ (fpWidth f - 1) % 2 = 1)
def fpWithSign (f : FFmt) (neg : Bool) (m : Nat) : Nat := m + if neg then 2 ^ (fpWidth f - 1) else 0
def fpIsNaN (f : FFmt) (c : Nat) : Bool := decide (fpInfinity f < fpMag f c)
def fpIsSignalling (f : FFmt) (c : Nat) : Bool := fpIsNaN f c && decide (fpMag f c < fpCanonical f)
def fpIsInfinity (f : FFmt) (c : Nat) : Bool := decide (fpMag f c = fpInfinity f)
def fpIsZero (f : FFmt) (c : Nat) : Bool := decide (fpMag f c = 0)
def fpFinite (f : FFmt) (c : Nat) : Bool := decide (fpMag f c < fpInfinity f)
/-- The order of codes that are not NaNs, with -0 below +0. -/
def fpKey (f : FFmt) (c : Nat) : Int := if fpNeg f c then -(fpMag f c : Int) - 1 else fpMag f c
/-- The exact value of a finite code, from its fields (R221). -/
def fpValue (f : FFmt) (c : Nat) : Rat :=
  let frac := fpMag f c % 2 ^ fpFrac f
  let exp := fpMag f c / 2 ^ fpFrac f
  let bias : Int := if f = .f16 then 15 else 127
  (if fpNeg f c then -1 else 1) *
    if exp = 0 then (frac : Rat) * 2 ^ (1 - bias - fpFrac f : Int)
    else ((2 ^ fpFrac f + frac : Nat) : Rat) * 2 ^ ((exp : Int) - bias - fpFrac f)

/-- i is the integer that a rational rounds to in a mode (R121, R224). -/
def RoundsToInt (rm : Rm) (q : Rat) (i : Int) : Prop :=
  match rm with
  | .rne => |(i : Rat) - q| < 1 / 2 ∨ (|(i : Rat) - q| = 1 / 2 ∧ i % 2 = 0)
  | .rtz => i = if 0 ≤ q then ⌊q⌋ else ⌈q⌉
  | .rdn => i = ⌊q⌋
  | .rup => i = ⌈q⌉

-- The element formats (R220, R221).

/-- Fraction bits, bias, largest finite code, code of +infinity and canonical NaN of an element format. -/
def eltFrac : Ty → Nat
  | .f32 => 23 | .f16 => 10 | .bf16 => 7 | .e4m3 => 3 | .e5m2 => 2 | _ => 1
def eltBias : Ty → Int
  | .f32 | .bf16 => 127 | .f16 | .e5m2 => 15 | .e4m3 => 7 | _ => 1
def eltTop : Ty → Nat
  | .f32 => 0x7F7FFFFF | .f16 => 0x7BFF | .bf16 => 0x7F7F | .e4m3 => 0x7E | .e5m2 => 0x7B | _ => 7
def eltInf : Ty → Option Nat
  | .f32 => some 0x7F800000 | .f16 => some 0x7C00 | .bf16 => some 0x7F80 | .e5m2 => some 0x7C | _ => none
def eltNaN : Ty → Option Nat
  | .f32 => some 0x7FC00000 | .f16 => some 0x7E00 | .bf16 => some 0x7FC0 | .e4m3 => some 0x7F | .e5m2 => some 0x7E | _ => none
/-- The exact value of a finite code. -/
def eltValue (t : Ty) (c : Nat) : Rat :=
  let m := c % 2 ^ (t.bits - 1)
  let frac := m % 2 ^ eltFrac t
  let exp := m / 2 ^ eltFrac t
  (if 2 ^ (t.bits - 1) ≤ c then -1 else 1) *
    if exp = 0 then (frac : Rat) * 2 ^ (1 - eltBias t - eltFrac t : Int)
    else ((2 ^ eltFrac t + frac : Nat) : Rat) * 2 ^ ((exp : Int) - eltBias t - eltFrac t)

/-- The code r and the flags that a code x of one floating-point format becomes in another, under a rounding mode (R224, R226, R255). -/
def ConvertsFloat (dst src : Ty) (m : Mode) (x : Nat) (r : Nat × Flags) : Prop :=
  let neg := decide (2 ^ (src.bits - 1) ≤ x)
  let mag := x % 2 ^ (src.bits - 1)
  let isNaN : Prop := eltTop src < mag ∧ eltInf src ≠ some mag
  let signalling := decide (eltTop src < mag) && decide (eltInf src ≠ some mag) && decide (7 ≤ eltFrac src)
    && decide (mag / 2 ^ (eltFrac src - 1) % 2 = 0)
  let nv (b : Bool) : Flags := { Flags.none with nv := b }
  let sign (c : Nat) : Nat := c + if neg then 2 ^ (dst.bits - 1) else 0
  (dst = src → signalling = false → r = (x, Flags.none)) ∧
  (dst ≠ src ∨ signalling = true → isNaN →
    r = match eltNaN dst with | some q => (q, nv signalling) | none => (0, nv true)) ∧
  (dst ≠ src → eltInf src = some mag →
    r = match eltInf dst with
      | some i => (sign i, Flags.none)
      | none => (match eltNaN dst with | some q => q | none => sign (eltTop dst), nv true)) ∧
  (dst ≠ src → mag ≤ eltTop src →
    ∃ e : Exact, 0 < e.den ∧ e.rat = eltValue src x ∧ (e.rat = 0 → e.neg = neg) ∧ r = (tyFmt dst).round m e)

-- Accesses to device memory.

/-- An access that passed its checks: it is not to the range that is never translated, and a leaf gives its physical address
(R152, R163, R164). -/
def Dev.Reaches (d : Dev) (kind : AccessKind) (va : Word) (n : Nat) (e : Word) (pa : Nat) : Prop :=
  va.toNat % n = 0 ∧ inLocalRange va = false ∧ d.translate d.cluster d.owner d.core.status.pl kind va = .ok e pa ∧
  remoteRefuses e = false ∧ d.heldOver d.core.id va n = false

/-- Only committed bytes concern a grain: no store between its instants, no reduction, no copy of data in the core's cluster
and no uncorrectable error meets it. -/
def Dev.Settled (d : Dev) (dev : Option (BitVec 12)) (base n : Nat) : Prop :=
  (∀ r ∈ d.mem.stores, r.dev = dev → overlap base n r.pa r.bytes.length = false) ∧
  (∀ r ∈ d.mem.partials, r.dev = dev → overlap base n r.request.pa (r.request.ty.bits / 8) = false) ∧
  (∀ c ∈ d.mem.copies, c.cluster = d.cluster.val → (c.core = none ∨ c.code = false) → c.dev = dev → overlap base n c.base c.size = false) ∧
  (∀ u ∈ d.mem.bad, u.dev = dev → overlap (64 * u.unit) 64 base n = false)

/-- Only committed bytes concern the grain of an access. -/
def Dev.SettledAt (d : Dev) (e : Word) (pa : Nat) : Prop := d.Settled (leafDev e) (grainBase pa (grainBytes e)) (grainBytes e)

/-- A committed byte of a device. -/
def Dev.byteAt (d : Dev) (dev : Option (BitVec 12)) (pa : Nat) : Byte :=
  match dev with
  | none => d.mem.hbm.get pa
  | some x => d.mem.pod.get (podAddr x pa)

/-- The number that n committed bytes hold (R4). -/
def Dev.valueAt (d : Dev) (dev : Option (BitVec 12)) (pa : Nat) : Nat → Nat
  | 0 => 0
  | n + 1 => (d.byteAt dev pa).toNat + 256 * d.valueAt dev (pa + 1) n

/-- Of committed memory, only n bytes from pa change, and they hold the number x. -/
def MemoryTakes (s t : State) (dev : Option (BitVec 12)) (pa n x : Nat) : Prop :=
  ∀ dv a, a < 2 ^ 48 → t.d.byteAt dv a =
    if dv = dev ∧ pa ≤ a ∧ a < pa + n then BitVec.ofNat 8 (x / 256 ^ (a - pa)) else s.d.byteAt dv a

/-- The byte that a load of a core of the current cluster delivers at once (R58). -/
def Dev.seen (d : Dev) (core : Nat) (dev : Option (BitVec 12)) (pa : Nat) : Byte :=
  ((d.sliceLoad d.cluster (some core) dev pa 32 1 true false false).1).headD 0

/-- What a load of n bytes of the value x leaves in the scalar registers: a register, extended, or a pair (R31, R166). -/
def LoadedInto (s t : State) (rd : SReg) (n : Nat) (signed : Bool) (x : Nat) : Prop :=
  if n = 16 then
    t.d.rd rd = (if rd = 0 then 0 else u64 x) ∧ t.d.rd (rd + 1) = u64 (x / 2 ^ 64) ∧
    ∀ r, r ≠ rd → r ≠ rd + 1 → t.d.rd r = s.d.rd r
  else ScalarIs s t rd (if signed then s64 ((x : Int).bmod (2 ^ (8 * n))) else u64 x)

/-- Of the current core, only scalar registers and the pc differ. -/
def SameCore (s t : State) : Prop := t.d.core = { s.d.core with s := t.d.core.s, pc := t.d.core.pc }

/-- Of the current core, only scalar registers, the pc and the records of deferred failures differ. -/
def SameCoreButUncorr (s t : State) : Prop :=
  t.d.core = { s.d.core with s := t.d.core.s, pc := t.d.core.pc, uncorr := t.d.core.uncorr }

/-- Of the owners, only counters, and how far the streams of way draws and arbitration draws have come, differ (R191, R342). -/
def OwnersCount (s t : State) : Prop :=
  ∀ o : Fin 64, t.d.owners[o] = { s.d.owners[o] with
    counters := t.d.owners[o].counters, wayCounters := t.d.owners[o].wayCounters, arbCounters := t.d.owners[o].arbCounters }

/-- How far a store has come, without the sharers concerned. -/
def StorePhase.stage : StorePhase → Nat
  | .sent => 0
  | .placed _ _ => 1
  | .committed _ => 2

/-- The stores in flight are the same, but for the slices that have received their messages or given up their copy: none goes further on its way,
and a record goes only with the last commit message of its store (R145, R146). -/
def SameStores (s t : State) : Prop :=
  ∃ f : StoreRec → Option StorePhase,
    t.d.mem.stores = s.d.mem.stores.filterMap (fun r => (f r).map fun p => { r with phase := p }) ∧
    (∀ r p, f r = some p → p.stage = r.phase.stage) ∧ ∀ r, f r = none → r.phase.stage = 2

/-- Outside the current core, only committed memory, what the caches hold, the placement of MSC blocks, the rounds of arbitrated
instances, and what the owners count differ. -/
def SameButMemory (s t : State) : Prop :=
  SameOutside s t ∧ OwnersCount s t ∧ SameStores s t ∧
  t.d = { s.d with core := t.d.core, owners := t.d.owners, arbiters := t.d.arbiters
                   mem := { s.d.mem with hbm := t.d.mem.hbm, pod := t.d.mem.pod, copies := t.d.mem.copies, msc := t.d.mem.msc
                                         stores := t.d.mem.stores } }

/-- The number that a register, or for 16 bytes a pair, gives to n bytes (R31, R166). -/
def Dev.sourceNat (d : Dev) (r : SReg) (n : Nat) : Nat :=
  ((d.rd r).toNat + 2 ^ 64 * if n = 16 then (d.rd (r + 1)).toNat else 0) % 2 ^ (8 * n)

/-- The record of a store that its slice has sent to the home (R145). -/
def Dev.sentStore (d : Dev) (va e : Word) (pa : Nat) (bytes : List Byte) : StoreRec :=
  { id := d.mem.nextStore, cluster := d.cluster.val, core := d.core.id, owner := d.owner, kid := d.core.kid, level := d.core.status.pl
    va := va, dev := leafDev e, pa := pa, grain := grainBytes e, bytes := bytes, phase := .sent, age := 0, order := 0 }

/-- The bytes of a number, lowest address first (R4). -/
def bytesOf (n x : Nat) : List Byte := (List.range n).map fun i => BitVec.ofNat 8 (x / 256 ^ i)

-- Vector registers.

/-- Element i of w bits is governed on by a predicate register (R50). -/
def Dev.on (d : Dev) (pg : PReg) (w i : Nat) : Bool := (d.rdP pg).getLsbD (w * i / 8)

/-- The flags that any of n elements raises (R229). -/
def anyFlags (n : Nat) (f : Nat → Flags) : Flags :=
  let some' (p : Flags → Bool) : Bool := (List.range n).any fun i => p (f i)
  { nv := some' (·.nv), dz := some' (·.dz), of := some' (·.of), uf := some' (·.uf), nx := some' (·.nx) }

/-- op is what a scalar FP instruction computes from the codes in s1, s2 and s3: the code it writes and the flags it raises. -/
def ScalarLike (f : FFmt) (i : Instr) (op : Nat → Nat → Nat → Nat × Flags) : Prop :=
  ∀ u : State, Gives (exec i u) fun v =>
    let r := op (u.d.rdF f 1) (u.d.rdF f 2) (u.d.rdF f 3)
    WritesScalarFlags u v 4 (u64 r.1) r.2

/-- Node i of level k of the tree that combines neighbours (R253), with the flags raised below it. -/
def treeAt (op : Nat → Nat → Nat × Flags) (x : Nat → Nat) : Nat → Nat → Nat × Flags
  | 0, i => (x i, Flags.none)
  | k + 1, i =>
    let l := treeAt op x k (2 * i)
    let r := treeAt op x k (2 * i + 1)
    let o := op l.1 r.1
    (o.1, (l.2.or r.2).or o.2)

/-- The comparisons of values, false for a NaN; -0 equals +0 (R120). -/
def FVal.lessThan : FVal → FVal → Bool
  | .inf n, .inf m => n && !m
  | .inf n, .fin _ => n
  | .fin _, .inf m => !m
  | .fin x, .fin y => decide (x.rat < y.rat)
  | .nan _, _ => false
  | _, .nan _ => false
def FVal.equals : FVal → FVal → Bool
  | .inf n, .inf m => n == m
  | .fin x, .fin y => decide (x.rat = y.rat)
  | _, _ => false

-- Replays of a FRAME (R244, R257, R259, R261).

/-- An instruction of the vector engine with its vector fields moved by v and its predicate fields by q, taking its scalar sources from s1
and s2; none for an instruction that is not of the vector engine. -/
def moved (v : VReg → VReg) (q : PReg → PReg) : Instr → Option Instr
  | .vadd t pg vd va vb => some (.vadd t (q pg) (v vd) (v va) (v vb))
  | .vsub t pg vd va vb => some (.vsub t (q pg) (v vd) (v va) (v vb))
  | .vmul t pg vd va vb => some (.vmul t (q pg) (v vd) (v va) (v vb))
  | .vmulh t pg vd va vb => some (.vmulh t (q pg) (v vd) (v va) (v vb))
  | .vmin t pg vd va vb => some (.vmin t (q pg) (v vd) (v va) (v vb))
  | .vmax t pg vd va vb => some (.vmax t (q pg) (v vd) (v va) (v vb))
  | .vand t pg vd va vb => some (.vand t (q pg) (v vd) (v va) (v vb))
  | .vor t pg vd va vb => some (.vor t (q pg) (v vd) (v va) (v vb))
  | .vxor t pg vd va vb => some (.vxor t (q pg) (v vd) (v va) (v vb))
  | .vandn t pg vd va vb => some (.vandn t (q pg) (v vd) (v va) (v vb))
  | .vsll t pg vd va vb => some (.vsll t (q pg) (v vd) (v va) (v vb))
  | .vsrl t pg vd va vb => some (.vsrl t (q pg) (v vd) (v va) (v vb))
  | .vsra t pg vd va vb => some (.vsra t (q pg) (v vd) (v va) (v vb))
  | .vadds t pg vd va vb => some (.vadds t (q pg) (v vd) (v va) (v vb))
  | .vsubs t pg vd va vb => some (.vsubs t (q pg) (v vd) (v va) (v vb))
  | .vabsd t pg vd va vb => some (.vabsd t (q pg) (v vd) (v va) (v vb))
  | .vavg t pg vd va vb => some (.vavg t (q pg) (v vd) (v va) (v vb))
  | .vneg t pg vd va => some (.vneg t (q pg) (v vd) (v va))
  | .vabs t pg vd va => some (.vabs t (q pg) (v vd) (v va))
  | .vpopc t pg vd va => some (.vpopc t (q pg) (v vd) (v va))
  | .vfadd f pg vd va vb => some (.vfadd f (q pg) (v vd) (v va) (v vb))
  | .vfsub f pg vd va vb => some (.vfsub f (q pg) (v vd) (v va) (v vb))
  | .vfmul f pg vd va vb => some (.vfmul f (q pg) (v vd) (v va) (v vb))
  | .vfdiv f pg vd va vb => some (.vfdiv f (q pg) (v vd) (v va) (v vb))
  | .vfmin f pg vd va vb => some (.vfmin f (q pg) (v vd) (v va) (v vb))
  | .vfmax f pg vd va vb => some (.vfmax f (q pg) (v vd) (v va) (v vb))
  | .vfcopysg f pg vd va vb => some (.vfcopysg f (q pg) (v vd) (v va) (v vb))
  | .vfsqrt f pg vd va => some (.vfsqrt f (q pg) (v vd) (v va))
  | .vfneg f pg vd va => some (.vfneg f (q pg) (v vd) (v va))
  | .vfabs f pg vd va => some (.vfabs f (q pg) (v vd) (v va))
  | .vfkind f pg vd va => some (.vfkind f (q pg) (v vd) (v va))
  | .vfma f pg vd va vb vc => some (.vfma f (q pg) (v vd) (v va) (v vb) (v vc))
  | .vfms f pg vd va vb vc => some (.vfms f (q pg) (v vd) (v va) (v vb) (v vc))
  | .vtrn z vd => some (.vtrn z (v vd))
  | .vperm z pg vd va vb => some (.vperm z (q pg) (v vd) (v va) (v vb))
  | .vknitl z pg vd va vb => some (.vknitl z (q pg) (v vd) (v va) (v vb))
  | .vknith z pg vd va vb => some (.vknith z (q pg) (v vd) (v va) (v vb))
  | .vsiftev z pg vd va vb => some (.vsiftev z (q pg) (v vd) (v va) (v vb))
  | .vsiftod z pg vd va vb => some (.vsiftod z (q pg) (v vd) (v va) (v vb))
  | .vlift z pg vd va _ => some (.vlift z (q pg) (v vd) (v va) 2)
  | .vdrop z pg vd va _ => some (.vdrop z (q pg) (v vd) (v va) 2)
  | .vrev z pg vd va => some (.vrev z (q pg) (v vd) (v va))
  | .vsqz z pg vd va => some (.vsqz z (q pg) (v vd) (v va))
  | .vceq t pg pd va vb => some (.vceq t (q pg) (q pd) (v va) (v vb))
  | .vcne t pg pd va vb => some (.vcne t (q pg) (q pd) (v va) (v vb))
  | .vclt t pg pd va vb => some (.vclt t (q pg) (q pd) (v va) (v vb))
  | .vcle t pg pd va vb => some (.vcle t (q pg) (q pd) (v va) (v vb))
  | .vbound t pd _ _ => some (.vbound t (q pd) 1 2)
  | .pand pd pa pb => some (.pand (q pd) (q pa) (q pb))
  | .por pd pa pb => some (.por (q pd) (q pa) (q pb))
  | .pxor pd pa pb => some (.pxor (q pd) (q pa) (q pb))
  | .pandn pd pa pb => some (.pandn (q pd) (q pa) (q pb))
  | .pcnt t rd pa => some (.pcnt t rd (q pa))
  | .pfirst t rd pa => some (.pfirst t rd (q pa))
  | .vrsum t pg vd va vb => some (.vrsum t (q pg) (v vd) (v va) (v vb))
  | .vrmin t pg vd va vb => some (.vrmin t (q pg) (v vd) (v va) (v vb))
  | .vrmax t pg vd va vb => some (.vrmax t (q pg) (v vd) (v va) (v vb))
  | .vrand t pg vd va vb => some (.vrand t (q pg) (v vd) (v va) (v vb))
  | .vror t pg vd va vb => some (.vror t (q pg) (v vd) (v va) (v vb))
  | .vrxor t pg vd va vb => some (.vrxor t (q pg) (v vd) (v va) (v vb))
  | .vrsumArr t pg vd va vb => some (.vrsumArr t (q pg) (v vd) (v va) (v vb))
  | .vcvt t s rm part pg vd va => some (.vcvt t s rm part (q pg) (v vd) (v va))
  | .vmov pg vd va => some (.vmov (q pg) (v vd) (v va))
  | .vdup z pg vd _ => some (.vdup z (q pg) (v vd) 1)
  | .vins z vd _ _ => some (.vins z (v vd) 1 2)
  | .vextr z rd va _ => some (.vextr z rd (v va) 2)
  | .vidx z pg vd _ _ => some (.vidx z (q pg) (v vd) 1 2)
  | .vwidth rd => some (.vwidth rd)
  | .vdraw vd ds _ => some (.vdraw (v vd) ds 1)
  | .vdrawb vd ds _ => some (.vdrawb (v vd) ds 1)
  | .vdrawu vd ds _ => some (.vdrawu (v vd) ds 1)
  | .vnoiseG vd ds _ => some (.vnoiseG (v vd) ds 1)
  | .vsrcvtBf16F32 vd ds _ => some (.vsrcvtBf16F32 (v vd) ds 1)
  | .vsrcvtF16F32 vd ds _ => some (.vsrcvtF16F32 (v vd) ds 1)
  | .vsrcvtE4m3F32 vd ds _ => some (.vsrcvtE4m3F32 (v vd) ds 1)
  | .vsrcvtE5m2F32 vd ds _ => some (.vsrcvtE5m2F32 (v vd) ds 1)
  | .vsrcvtE2m1F32 vd ds _ => some (.vsrcvtE2m1F32 (v vd) ds 1)
  | .vsrcvtE4m3F16 vd ds _ => some (.vsrcvtE4m3F16 (v vd) ds 1)
  | .vsrcvtE5m2F16 vd ds _ => some (.vsrcvtE5m2F16 (v vd) ds 1)
  | .vsrcvtE4m3Bf16 vd ds _ => some (.vsrcvtE4m3Bf16 (v vd) ds 1)
  | .vld z fq adv pg vd _ _ => some (.vld z fq adv (q pg) (v vd) 1 2)
  | .vlds z fq adv pg vd _ _ => some (.vlds z fq adv (q pg) (v vd) 1 2)
  | .vldx z fq adv pg vd _ vb => some (.vldx z fq adv (q pg) (v vd) 1 (v vb))
  | .vldr z fq adv pg vd _ _ => some (.vldr z fq adv (q pg) (v vd) 1 2)
  | .vst z fq adv pg vs _ _ => some (.vst z fq adv (q pg) (v vs) 1 2)
  | .vsts z fq adv pg vs _ _ => some (.vsts z fq adv (q pg) (v vs) 1 2)
  | .vstx z fq adv pg vs _ vb => some (.vstx z fq adv (q pg) (v vs) 1 (v vb))
  | _ => none

/-- What replay r adds to the first scalar source: r x A for an access with ADV, r x Lanes for a draw. -/
def movedBase (r : Nat) (y : Word) : Instr → Word
  | .vld _ _ true _ _ _ _ | .vst _ _ true _ _ _ _ | .vldx _ _ true _ _ _ _ | .vstx _ _ true _ _ _ _ => u64 (256 * r)
  | .vlds z _ true _ _ _ _ | .vsts z _ true _ _ _ _ => u64 (r * (2048 / esizeBits z)) * y
  | .vldr z _ true _ _ _ _ => u64 (r * (esizeBits z / 8))
  | .vdraw _ _ _ | .vdrawu _ _ _ | .vnoiseG _ _ _ | .vsrcvtBf16F32 _ _ _ | .vsrcvtF16F32 _ _ _ | .vsrcvtE4m3F32 _ _ _
  | .vsrcvtE5m2F32 _ _ _ | .vsrcvtE2m1F32 _ _ _ => u64 (64 * r)
  | .vdrawb _ _ _ => u64 (256 * r)
  | .vsrcvtE4m3F16 _ _ _ | .vsrcvtE5m2F16 _ _ _ | .vsrcvtE4m3Bf16 _ _ _ => u64 (128 * r)
  | _ => 0

/-- The scalar register that an instruction of the vector engine writes, if it writes one. -/
def scalarWritten : Instr → Option SReg
  | .pcnt _ rd _ | .pfirst _ rd _ | .vextr _ rd _ _ | .vwidth rd => some rd
  | _ => none

/-- A vector load or store. -/
def isVectorAccess : Instr → Bool
  | .vld _ _ _ _ _ _ _ | .vlds _ _ _ _ _ _ _ | .vldx _ _ _ _ _ _ _ | .vldr _ _ _ _ _ _ _
  | .vst _ _ _ _ _ _ _ | .vsts _ _ _ _ _ _ _ | .vstx _ _ _ _ _ _ _ => true
  | _ => false

-- The copy engine and the event units.

/-- A completion element: address, rows done, tag, port and code (R306). -/
def elementOf (addr : Word) (done tag port code : Nat) : Element :=
  { lo := addr, hi := u64 (code + 2 ^ 8 * port + 2 ^ 32 * tag + 2 ^ 48 * done) }

/-- A release of the core has nothing to wait for (R60). -/
def Dev.Clear (d : Dev) : Prop := d.holdsAny d.core.id = false ∧ ∀ r ∈ d.mem.stores, r.cluster ≠ d.cluster.val

/-- A barrier after one arrival, of a core or of a child, and what its unit sends: the phase completes when ARRIVED reaches EXPECT and no
Release is awaited; a root then releases its children, another barrier arrives at its parent (R320, R326, R327). -/
def Barrier.afterArrival (x : Barrier) (me : BarRef) (owner now : Nat) (child : Option BarRef) : Barrier × List UnitMsg :=
  let children := x.children ++ child.toList
  if x.arrived + 1 = x.expect ∧ x.relw = false then
    if x.pv then
      ({ x with arrived := 0, relw := true, timer := none, awaiting := children, children := [] },
        [.arrive { owner := owner, src := me, dst := parentRef x.parent }])
    else
      ({ x with arrived := 0, timedOut := false, gen := x.gen + 1, timer := none, children := [] },
        children.map fun c => .release { owner := owner, src := me, dst := c } false)
  else
    ({ x with arrived := x.arrived + 1, children := children
              timer := if x.pv then none else if x.timer.isSome then x.timer else if x.absent = 0 then some now else none }, [])

/-- The barrier b of a cluster's unit, as another barrier names it. -/
def Dev.barRef (d : Dev) (k : Fin 32) (b : BitVec 8) : BarRef := { unit := { dev := d.deviceId, cluster := BitVec.ofNat 5 k.val }, bar := b }

/-- Of the units, only one barrier of cluster k changes, and its unit sends messages, which go to flight in its colour (R331). -/
def BarrierBecomes (s t : State) (k : Fin 32) (b : BitVec 8) (x : Barrier) (flying : List Flight) (out : List UnitMsg) : Prop :=
  (∀ n, (t.d.clusters[k].unit).barrier n = if n = b.toNat then x else (s.d.clusters[k].unit).barrier n) ∧
  (t.d.clusters[k].unit).events = (s.d.clusters[k].unit).events ∧ (t.d.clusters[k].unit).mutexes = (s.d.clusters[k].unit).mutexes ∧
  t.d.messages = flying ++ out.map (fun m => { colour := s.d.clusters[k].ends.colour, owner := s.d.clusters[k].owner, msg := m }) ∧
  (∀ j, j ≠ k → t.d.clusters[j] = s.d.clusters[j]) ∧ t.d.mem = s.d.mem ∧ SameOutside s t

-- Tasks.

/-- The current core has started on a piece: ENTRY at user level with IE and CONS set, and the hand-over in s1 to s3 (R356). -/
def StartsOn (s t : State) (p : Piece) : Prop :=
  let w := p.work
  let e := t.d.core
  e.run = .running ∧ e.pc = w.entry ∧ e.task = some { piece := s.d.nextPiece, work := w } ∧
  e.status = { s.d.core.status with pl := .user, ie := true, cons := true } ∧
  t.d.rd 1 = w.args ∧ t.d.rd 2 = w.anchor ∧ t.d.rd 3 = u64 w.kid.toNat ∧ (∀ r, r ≠ 1 → r ≠ 2 → r ≠ 3 → t.d.rd r = s.d.rd r) ∧
  t.d.pieces.find s.d.nextPiece = some p ∧ e.v = s.d.core.v ∧ e.acc = s.d.core.acc ∧ e.pad = s.d.core.pad

/-- A core that can take work: it runs none, holds no yielded task and has none by name, and its cluster is in service (R356, R368). -/
def Dev.FreeHere (d : Dev) : Prop :=
  coreExists d.core.id = true ∧ d.core.run = .idle ∧ d.core.task = none ∧ d.core.gang = none ∧ d.core.halt = none ∧
  d.core.yielded = [] ∧ d.core.named = [] ∧ d.clusters[d.cluster].retired = false

-- Gangs (R369 to R372).

/-- What a gang performs once for all its members. -/
def isGredOrSplit : Instr → Bool
  | .split | .gredAdd _ _ | .gredAnd _ _ | .gredOr _ _ | .gredXor _ _ | .gredMin _ _ | .gredMax _ _ | .gredMinn _ _ | .gredMaxn _ _ => true
  | _ => false

/-- What takes a body from memory (R179, R257). -/
def isCapture : Instr → Bool
  | .frame _ _ _ _ | .alrb _ _ _ => true
  | _ => false

/-- Cores perform an instruction one after another, each with its last stall forgotten, and u is what that leaves. -/
def Performs (i : Instr) : List Nat → State → State → Prop
  | [], s, u => u = s
  | m :: ms, s, u =>
    let d := s.d.switchTo m
    ∃ v, exec i ((s.withDev { d with core := { d.core with stall := 0 } }).settled (.inl i)) = .next v ∧ Performs i ms v u

-- Draws as the spec's arithmetic on numbers (R189, R190).

/-- fount(key, n) over numbers, n below 2^32. -/
def drawOf (key n : Nat) : Nat :=
  let x0 := n ^^^ key % 2 ^ 32
  let x1 := x0 * 0x2C1B3C6D % 2 ^ 32
  let x2 := x1 ^^^ x1 / 2 ^ 16
  let x3 := x2 * 0x297A2D39 % 2 ^ 32
  let x4 := x3 ^^^ x3 / 2 ^ 15
  x4 ^^^ key / 2 ^ 32

/-- K(t) under a seed. -/
def keyOf (seed t : Nat) : Nat := drawOf seed (2 * t) + 2 ^ 32 * drawOf seed (2 * t + 1)

-- The host port.

/-- The session of a request, new where the compositor does not know it (R420). -/
def Dev.sessionOf (d : Dev) (h : ReqHeader) : Session :=
  (d.host.sessions.find h.session.toNat).getD { next := h.seq, replies := [], held := [], later := none }

/-- The fields of a header that R418 and R427 fix in a request: STATUS and the reserved bits are 0, and LENGTH is 0 for a request without
content, and else counts whole doublewords. -/
def HeaderFits (h : ReqHeader) (empty : Bool) : Prop :=
  h.status = 0 ∧ h.rsv8 = 0 ∧ h.rsv16 = 0 ∧ h.rsv24 = 0 ∧ if empty then h.length = 0 else h.length ≠ 0 ∧ h.length.toNat % 8 = 0

/-- The compositor hears a packet: its endpoint is in the host table, its port is up, and a control complex has reported
(R416, R422, R423). -/
def Dev.Hears (d : Dev) (h : ReqHeader) : Prop := h.endpoint ∈ d.host.hostTable ∧ d.portUp h.port = true ∧ d.noControl = false

/-- A request whose turn it is, with none held behind it, and no request of another session waiting in its turn (R420). -/
def Dev.InTurn (d : Dev) (h : ReqHeader) : Prop :=
  d.Hears h ∧ (d.sessionOf h).next = h.seq ∧ (d.sessionOf h).held = [] ∧ (d.sessionOf h).later = none ∧ (∀ y ∈ (d.sessionOf h).replies, y.header.seq ≠ h.seq) ∧
  (∀ y ∈ d.host.unmaps, y.header.session = h.session → y.header.seq ≠ h.seq) ∧
  ∀ x ∈ d.host.sessions, x.2.later = none ∧ ∀ y ∈ x.2.held, y.1.seq ≠ x.2.next

/-- The device once the turn of a request has passed to the next. -/
def Dev.heard (d : Dev) (h : ReqHeader) : Dev := d.setSession h.session.toNat { d.sessionOf h with next := h.seq + 1 }

/-- One response with the request's CODE was sent, and is stored in its session, where the next SEQ is due (R418, R420). -/
def Answered (s t : State) (h : ReqHeader) (code : BitVec 16) (st : ReplyStatus) (body : ReplyBody) : Prop :=
  let r : Reply := { code := code, header := h, status := st, body := body }
  t.d.host.sent = s.d.host.sent ++ [r] ∧
  t.d.host.sessions.find h.session.toNat = some { next := h.seq + 1, replies := (s.d.sessionOf h).replies ++ [r], held := [], later := none } ∧
  ∀ n, n ≠ h.session.toNat → t.d.host.sessions.find n = s.d.host.sessions.find n

/-- The host port is as x, but for the responses that it has sent and its sessions; nothing else differs but what a response counts and draws
at the port where it leaves (R191, R202, R418). -/
def OnlyHost (s t : State) (x : HostPort) : Prop :=
  OwnersCount s t ∧
  t = { s with d := { s.d with owners := t.d.owners, arbiters := t.d.arbiters
                               host := { x with sent := t.d.host.sent, sessions := t.d.host.sessions } } }

/-- A request is answered and changes nothing else. -/
def OnlyAnswered (s t : State) (h : ReqHeader) (code : BitVec 16) (st : ReplyStatus) (body : ReplyBody) : Prop :=
  Answered s t h code st body ∧ OnlyHost s t s.d.host

/-- A core that no grid has, of an owner at user level in a cluster of it: in its place the compositor acts (R428). -/
def Dev.asOwner (d : Dev) (o : Nat) (k : Fin 32) (record : Word) : Dev :=
  let c : Core := { Core.reset (128 * k.val + 127) with status := { Status.reset with pl := .user } }
  { d.setCluster k { d.clusters[k] with owner := o } with core := c.writeS d.clusters[k].gen 1 record
                                                          others := d.others.set d.core.id d.core }

/-- Nothing that a store, a reduction or a held access has still to do concerns local memory. -/
def Dev.Still (d : Dev) : Prop := d.mem.stores = [] ∧ d.mem.partials = [] ∧ ∀ k : Fin 32, (d.clusters[k]).hold = []

-- Plane regions and format windows, as numbers (R232, R233, R235, R236, R263 to R271).

/-- The fields of a plane descriptor (R263). -/
structure Region where
  base : Nat
  stride : Nat
  w : Nat
  sbase : Nat
  kind : Nat
  rnd : Nat
  deriving DecidableEq, Repr

def Region.qn4 (r : Region) : Bool := decide (r.kind = 6)
/-- Block bytes, block size and blocks per line (R265). -/
def Region.bb (r : Region) : Nat := if r.qn4 then 32 else 4 * r.w
def Region.size (r : Region) : Nat := if r.qn4 then 64 else 32
def Region.blocks (r : Region) : Nat := r.stride / r.bb

/-- The descriptor value (R263). -/
def Region.image (r : Region) : Nat :=
  r.base + 2 ^ 18 * r.stride + 2 ^ 36 * (r.w - 1) + 2 ^ 40 * r.sbase + 2 ^ 58 * r.kind + 2 ^ 62 * r.rnd + 2 ^ 63 * if r.qn4 then 1 else 0

/-- A valid descriptor of a region (R265). -/
def Region.Valid (r : Region) : Prop :=
  1 ≤ r.kind ∧ r.kind ≤ 7 ∧ 1 ≤ r.w ∧ r.w ≤ 16 ∧ r.rnd ≤ 1 ∧ (r.qn4 = true → r.w = 7) ∧ r.base < 2 ^ 18 ∧ r.sbase < 2 ^ 18 ∧
  r.base % 4 = 0 ∧ r.stride % 4 = 0 ∧ 0 < r.stride ∧ r.stride % r.bb = 0 ∧ r.base + 32 * r.stride ≤ 262144 ∧
  r.sbase + 32 * r.blocks ≤ 262144 ∧
  (r.qn4 = true → r.sbase % 4 = 0 ∧ r.sbase + 32 * r.blocks + 4 * ((32 * r.blocks + 255) / 256) ≤ 262144)

/-- Half bytes of an element in a window (R267). -/
def Region.halves (r : Region) (win : Nat) : Nat :=
  match win with
  | 1 => 8 | 2 => 4 | 3 => 2 | 4 => 2 | 5 => 1 | 6 => 1
  | _ => if r.qn4 = true ∨ r.w ≤ 8 then 2 else 4

/-- Where the block of element x begins, with its lines one after another (R266). -/
def Region.origin (r : Region) (x : Nat) : Nat := r.base + x / r.size * r.bb

/-- The magnitudes of the levels (R235). -/
def level (i : Nat) : Nat := [3, 8, 14, 20, 27, 35, 45, 64].getD i 0

/-- The 4-bit code of element x (R235, R266). -/
def Region.code (byte : Nat → Byte) (r : Region) (x : Nat) : Nat :=
  (byte (r.origin x + x % r.size / 2)).toNat / 16 ^ (x % 2) % 16

/-- The integer that element x is stored as: q in plane form, the sign plane first, or the signed level (R232, R235). -/
def Region.int (byte : Nat → Byte) (r : Region) (x : Nat) : Int :=
  if r.qn4 then (if 8 ≤ r.code byte x then -1 else 1) * (level (r.code byte x % 8) : Int)
  else
    let i := x % 32
    let plane (j : Nat) : Nat := (byte (r.origin x + 4 * j + i / 8)).toNat / 2 ^ (i % 8) % 2
    (((List.range (r.w - 1)).map fun j => plane (j + 1) * 2 ^ (r.w - 2 - j)).sum : Int) - plane 0 * 2 ^ (r.w - 1)

/-- The scale byte of the block of element x, and the code of its group's S (R266). -/
def Region.scale (byte : Nat → Byte) (r : Region) (x : Nat) : Nat := (byte (r.sbase + x / r.size)).toNat
def Region.group (byte : Nat → Byte) (r : Region) (x : Nat) : Nat :=
  ((List.range 4).map fun i => (byte (r.sbase + 32 * r.blocks + 4 * (x / r.size / 256) + i)).toNat * 256 ^ i).sum

/-- The exact value of element x; none in a special block (R233, R236). -/
def Region.value (byte : Nat → Byte) (r : Region) (x : Nat) : Option Rat :=
  let s := r.scale byte x
  if r.qn4 then
    if r.group byte x % 2 ^ 31 ≤ eltTop .f32 then
      some ((r.int byte x : Rat) * eltValue .f32 (r.group byte x) * ((s : Rat) + 1) / 16384)
    else none
  else if s = 255 then none
  else some ((r.int byte x : Rat) * 2 ^ ((s : Int) - 127 - ((r.w : Int) - 2)))

/-- The format of a value window (R267). -/
def windowTy : Nat → Ty
  | 1 => .f32 | 2 => .bf16 | 3 => .e4m3 | 4 => .e5m2 | _ => .e2m1

/-- A code that a window shows for element x (R268, R270, R271). -/
def Region.Shows (byte : Nat → Byte) (r : Region) (win x code : Nat) : Prop :=
  if win = 6 then code = r.code byte x
  else if win = 7 then (code : Int) = r.int byte x % 2 ^ (4 * r.halves win)
  else
    match r.value byte x with
    | none => code = (eltNaN (windowTy win)).getD 0
    | some v => ∃ e : Exact, 0 < e.den ∧ (r.qn4 = false → v = 0 → e.neg = false) ∧ code = ((tyFmt (windowTy win)).round .rne e).1 ∧
        e.rat = if win = 5 ∧ r.kind = 5 then v / 2 ^ max ((r.scale byte x : Int) - 129) (-127) else v

/-- The random bits of a tensor index for a destination that takes k bits and shares a draw among m (R227, R269). -/
def drawBits (key : Word) (k m x : Nat) : Nat := drawOf key.toNat (x / m % 2 ^ 32) / 2 ^ (k * (x % m)) % 2 ^ k

/-- The integer to which a rational rounds for element x of a region, in the region's mode (R224, R227). -/
def Region.RoundsTo (r : Region) (key : Word) (x : Nat) (q : Rat) (i : Int) : Prop :=
  if r.rnd = 0 then RoundsToInt .rne q i
  else
    let k := if r.w ≤ 8 then 8 else 16
    i = ⌊q⌋ + if (drawBits key k (32 / k) x : Int) < ⌊2 ^ k * (q - ⌊q⌋)⌋ then 1 else 0

/-- The plane-form encoding of the 32 values of a block, whose elements are those of its first and the 31 after it (R234). -/
def Region.Encodes (byte : Nat → Byte) (r : Region) (key : Word) (first : Nat) (v : Nat → Option Rat) : Prop :=
  let mine (x : Nat) : Prop := first ≤ x ∧ x < first + 32
  ((∃ x, mine x ∧ v x = none) → r.scale byte first = 255 ∧ ∀ x, mine x → r.int byte x = 0) ∧
  ((∀ x, mine x → v x = some 0) → r.scale byte first = 0 ∧ ∀ x, mine x → r.int byte x = 0) ∧
  ∀ e : Int, (∀ x, mine x → ∃ q, v x = some q ∧ |q| < 2 ^ (e + 1)) → (∃ x q, mine x ∧ v x = some q ∧ 2 ^ e ≤ |q|) →
    (r.scale byte first : Int) = max 0 (min 254 (e + 127)) ∧
    ∀ x q, mine x → v x = some q → ∃ i, r.RoundsTo key x (q * 2 ^ ((r.w : Int) - 2 - (r.scale byte first - 127))) i ∧
      r.int byte x = max (-(2 ^ (r.w - 1))) (min (2 ^ (r.w - 1) - 1) i)

/-- The values that an MX conversion to E2M1 leaves of those of a block (R230, R271). -/
def Region.Mx (r : Region) (key : Word) (first : Nat) (v u : Nat → Option Rat) : Prop :=
  let mine (x : Nat) : Prop := first ≤ x ∧ x < first + 32
  ((∃ x, mine x ∧ v x = none) → ∀ x, mine x → u x = none) ∧
  ((∀ x, mine x → v x = some 0) → ∀ x, mine x → u x = some 0) ∧
  ∀ e : Int, (∀ x, mine x → ∃ q, v x = some q ∧ |q| < 2 ^ (e + 1)) → (∃ x q, mine x ∧ v x = some q ∧ 2 ^ e ≤ |q|) →
    let X : Int := max (-127) (min 127 (e - 2))
    ∀ x q, mine x → v x = some q → ∃ y : Exact, 0 < y.den ∧ y.rat = q / 2 ^ X ∧
      u x = some (eltValue .e2m1 ((tyFmt .e2m1).round (if r.rnd = 0 then .rne else .sr 8 (drawBits key 8 4 x)) y).1 * 2 ^ X)

/-- The index of the level at which a magnitude in 64ths is placed: at or above the last, below the first, or one of the two neighbours
(R237, R270). -/
def LevelOf (up : Nat → Rat → Rat → Bool) (q : Rat) (i : Nat) : Prop :=
  (q < 3 → i = 0) ∧ (64 ≤ q → i = 7) ∧
  ∀ j, j < 7 → (level j : Rat) ≤ q → q < level (j + 1) →
    i = if q = level j then j else if up j (q - level j) (level (j + 1) - q) then j + 1 else j

/-- The nearer level, a tie going to the even index, for the neighbours j and j + 1. -/
def nearer (j : Nat) (below above : Rat) : Bool := decide (above < below) || (decide (above = below) && decide (j % 2 = 1))

/-- The QN4 encoding of the 64 values of a block (R237): old and byte are the bytes before and after it, and neg says which values are
negative. -/
def Region.EncodesLevels (old byte : Nat → Byte) (r : Region) (key : Word) (first : Nat) (v : Nat → Option Rat) (neg : Nat → Prop) : Prop :=
  let mine (x : Nat) : Prop := first ≤ x ∧ x < first + 64
  let S := eltValue .f32 (r.group old first)
  let usable : Prop := r.group old first % 2 ^ 31 ≤ eltTop .f32 ∧ 0 < S
  let up (x j : Nat) (below above : Rat) : Bool :=
    if r.rnd = 0 then nearer j below above else decide ((drawBits key 8 4 x : Int) < ⌊256 * below / (below + above)⌋)
  (¬ usable → r.scale byte first = r.scale old first ∧ ∀ x, mine x → r.code byte x = 0) ∧
  ∀ M : Rat, usable → (∀ x q, mine x → v x = some q → |q| ≤ M) → (M = 0 ∨ ∃ x q, mine x ∧ v x = some q ∧ |q| = M) →
    (r.scale byte first : Int) = max 0 (min 255 (⌈256 * M / S⌉ - 1)) ∧
    ∀ x, mine x → (v x = none → r.code byte x = 0) ∧
      ∀ q, v x = some q → ∃ i, LevelOf (up x) (64 * |q| * 256 / (S * ((r.scale byte first : Rat) + 1))) i ∧
        (neg x → r.code byte x = i + 8) ∧ (¬ neg x → r.code byte x = i)

/-- An access of the current core reaches its own scratchpad at byte o of a window, where descriptor d, which holds a region, is the one
that selects it: the lower-numbered ones hold none, or begin above (R100, R135, R267). -/
def Dev.InView (d : Dev) (va : Word) (win o : Nat) (n : BitVec 4) (r : Region) : Prop :=
  let c := d.core
  1 ≤ win ∧ win ≤ 7 ∧ (win = 6 → r.qn4 = true) ∧ va = u64 (0x00FFFF000FE00000 + 2 ^ 18 * win + o) ∧ c.pad.bad = [] ∧
  (c.status.pl = .supervisor ∨ c.savearea = 0) ∧ r.Valid ∧ (d.rdD n).toNat = r.image ∧
  ∀ m : BitVec 4, m.toNat < n.toNat → (d.rdD m).toNat / 2 ^ 58 % 16 = 0 ∨ o < (d.rdD m).toNat % 2 ^ 18

-- The invariant of the memories.

/-- The bytes of a core's scratchpad are in canonical form. -/
def Core.padOk (c : Core) : Bool := c.pad.bytes.wf

/-- Device memory, the memory of other devices and every scratchpad, those of saved contexts included, are in canonical form, and
stores in flight are numbered below the next number, a slice copy holds as many bytes as it is long, and the other cores are listed under their numbers. -/
def Dev.memoriesOk (d : Dev) : Bool :=
  d.mem.hbm.wf && d.mem.pod.wf && d.core.padOk && d.others.all (fun x => x.2.padOk)
    && d.contexts.all (fun x => x.2.cores.all Core.padOk) && d.mem.stores.all (fun r => decide (r.id < d.mem.nextStore))
    && d.mem.copies.all (fun c => decide (c.bytes.length = c.size)) && d.others.all fun x => decide (x.2.id = x.1)

/-- The invariant that every step keeps. -/
def State.Inv (s : State) : Prop := s.d.memoriesOk = true

end Sys2Proof.Machine
end

