-- ==== Sys2Proof/Certificates/Slice0/Obligations.lean ====
section
/-! DEFINITION. The statements about the machine that the provers settle. A statement with several parts is the conjunction of
its claims, each a definition of its own under Claims. -/

open Sys2Proof Sys2Proof.Machine

/-- R106: every ALU operation between registers but the divisions, as the table gives its result; no flag, no other register and no
memory changes. -/
def Claims.RegisterOperations : Prop :=
  ∀ (s : State) (rd ra rb : SReg),
    let a := (s.d.rd ra).toNat; let b := (s.d.rd rb).toNat
    let sa := (s.d.rd ra).toInt; let sb := (s.d.rd rb).toInt
    let writes (i : Instr) (x : Word) : Prop := Gives (exec i s) fun t => WritesScalar s t rd x
    writes (.add rd ra rb) (u64 (a + b)) ∧ writes (.sub rd ra rb) (s64 (a - b)) ∧
    writes (.and rd ra rb) (u64 (a &&& b)) ∧ writes (.or rd ra rb) (u64 (a ||| b)) ∧
    writes (.xor rd ra rb) (u64 (a ^^^ b)) ∧ writes (.andn rd ra rb) (u64 (a &&& (2 ^ 64 - 1 - b))) ∧
    writes (.orn rd ra rb) (u64 (a ||| (2 ^ 64 - 1 - b))) ∧ writes (.xnor rd ra rb) (u64 (2 ^ 64 - 1 - (a ^^^ b))) ∧
    writes (.sll rd ra rb) (u64 (a * 2 ^ (b % 64))) ∧ writes (.srl rd ra rb) (u64 (a / 2 ^ (b % 64))) ∧
    writes (.sra rd ra rb) (s64 (sa / 2 ^ (b % 64))) ∧
    writes (.ror rd ra rb) (u64 (a / 2 ^ (b % 64) ||| a * 2 ^ (64 - b % 64))) ∧
    writes (.slt rd ra rb) (one01 (decide (sa < sb))) ∧ writes (.sltn rd ra rb) (one01 (decide (a < b))) ∧
    writes (.min rd ra rb) (s64 (min sa sb)) ∧ writes (.max rd ra rb) (s64 (max sa sb)) ∧
    writes (.minn rd ra rb) (u64 (min a b)) ∧ writes (.maxn rd ra rb) (u64 (max a b)) ∧
    writes (.mul rd ra rb) (u64 (a * b)) ∧ writes (.mulh rd ra rb) (s64 (sa * sb / 2 ^ 64)) ∧
    writes (.mulhn rd ra rb) (u64 (a * b / 2 ^ 64)) ∧
    writes (.clz rd ra) (u64 (if a = 0 then 64 else 63 - a.log2)) ∧
    (∃ n, writes (.ctz rd ra) (u64 n) ∧ (if a = 0 then n = 64 else a % 2 ^ n = 0 ∧ a / 2 ^ n % 2 = 1)) ∧
    writes (.popc rd ra) (u64 ((List.range 64).filter fun i => decide (a / 2 ^ i % 2 = 1)).length) ∧
    (∃ x, writes (.bswap rd ra) x ∧ ∀ i, i < 8 → x.toNat / 256 ^ i % 256 = a / 256 ^ (7 - i) % 256) ∧
    writes (.addw rd ra rb) (s32 (a + b)) ∧ writes (.subw rd ra rb) (s32 (a - b)) ∧
    writes (.sllw rd ra rb) (s32 (a % 2 ^ 32 * 2 ^ (b % 32))) ∧ writes (.srlw rd ra rb) (s32 (a % 2 ^ 32 / 2 ^ (b % 32))) ∧
    writes (.sraw rd ra rb) (s32 ((a : Int).bmod (2 ^ 32) / 2 ^ (b % 32))) ∧ writes (.mulw rd ra rb) (s32 (a * b)) ∧
    writes (.adds rd ra rb) (s64 (max (-2 ^ 63) (min (2 ^ 63 - 1) (sa + sb)))) ∧
    writes (.subs rd ra rb) (s64 (max (-2 ^ 63) (min (2 ^ 63 - 1) (sa - sb))))

/-- R107: quotient and remainder, with the results of a zero divisor and of the one signed overflow. -/
def Claims.DivisionResults : Prop :=
  ∀ (s : State) (rd ra rb : SReg),
    let a := s.d.rd ra; let b := s.d.rd rb
    let writes (i : Instr) (x : Word) : Prop := Gives (exec i s) fun t => WritesScalar s t rd x
    (b = 0 → writes (.div rd ra rb) (u64 (2 ^ 64 - 1)) ∧ writes (.rem rd ra rb) a ∧
      writes (.divn rd ra rb) (u64 (2 ^ 64 - 1)) ∧ writes (.remn rd ra rb) a) ∧
    (a.toInt = -2 ^ 63 ∧ b.toInt = -1 → writes (.div rd ra rb) a ∧ writes (.rem rd ra rb) 0) ∧
    (b ≠ 0 → ¬(a.toInt = -2 ^ 63 ∧ b.toInt = -1) →
      ∃ q r : Int, writes (.div rd ra rb) (s64 q) ∧ writes (.rem rd ra rb) (s64 r) ∧ a.toInt = b.toInt * q + r ∧
        r.natAbs < b.toInt.natAbs ∧ (r = 0 ∨ (0 < r ↔ 0 < a.toInt))) ∧
    (b ≠ 0 → writes (.divn rd ra rb) (u64 (a.toNat / b.toNat)) ∧ writes (.remn rd ra rb) (u64 (a.toNat % b.toNat)))

/-- Register ALU operations, and the divisions with their special cases. -/
def Obligations.RegisterAluAndDivision : Prop :=
  Claims.RegisterOperations ∧ Claims.DivisionResults

/-- R108, R109: the operations with an immediate and the shifts by a constant. -/
def Claims.ImmediateOperations : Prop :=
  ∀ (s : State) (rd ra : SReg) (imm : BitVec 16) (n : BitVec 6) (m : BitVec 5),
    let a := (s.d.rd ra).toNat; let sa := (s.d.rd ra).toInt
    let writes (i : Instr) (x : Word) : Prop := Gives (exec i s) fun t => WritesScalar s t rd x
    writes (.addi rd ra imm) (s64 (a + imm.toInt)) ∧ writes (.andi rd ra imm) (u64 (a &&& imm.toNat)) ∧
    writes (.ori rd ra imm) (u64 (a ||| imm.toNat)) ∧ writes (.xori rd ra imm) (u64 (a ^^^ imm.toNat)) ∧
    writes (.slti rd ra imm) (one01 (decide (sa < imm.toInt))) ∧
    writes (.sltin rd ra imm) (one01 (decide (a < imm.toNat))) ∧
    writes (.slli rd ra n) (u64 (a * 2 ^ n.toNat)) ∧ writes (.srli rd ra n) (u64 (a / 2 ^ n.toNat)) ∧
    writes (.srai rd ra n) (s64 (sa / 2 ^ n.toNat)) ∧
    writes (.rori rd ra n) (u64 (a / 2 ^ n.toNat ||| a * 2 ^ (64 - n.toNat))) ∧
    writes (.slliw rd ra m) (s32 (a % 2 ^ 32 * 2 ^ m.toNat)) ∧ writes (.srliw rd ra m) (s32 (a % 2 ^ 32 / 2 ^ m.toNat)) ∧
    writes (.sraiw rd ra m) (s32 ((a : Int).bmod (2 ^ 32) / 2 ^ m.toNat))

/-- R110, R111: half-word constants and pc-relative addresses. -/
def Claims.ConstantsAndAddresses : Prop :=
  ∀ (s : State) (rd : SReg) (k : BitVec 2) (imm : BitVec 16),
    let old := (s.d.rd rd).toNat; let pc := s.d.core.pc.toNat; let at' := 2 ^ (16 * k.toNat)
    let writes (i : Instr) (x : Word) : Prop := Gives (exec i s) fun t => WritesScalar s t rd x
    writes (.hwz rd k imm) (u64 (imm.toNat * at')) ∧
    writes (.hwi rd k imm) (u64 (old - old / at' % 2 ^ 16 * at' + imm.toNat * at')) ∧
    writes (.hws rd k imm) (s64 (imm.toInt * at')) ∧
    writes (.adpc rd imm) (s64 (pc + imm.toInt)) ∧
    writes (.adpch rd imm) (s64 ((pc / 2 ^ 16 + imm.toInt) * 2 ^ 16))

/-- Immediate operations, shifts by a constant, half-word constants and pc-relative addresses. -/
def Obligations.ImmediatesAndConstants : Prop :=
  Claims.ImmediateOperations ∧ Claims.ConstantsAndAddresses

/-- R113, R114: a comparison, whose word has major opcode 0x0B, branches to PC + 4 x SExt(off13) when its test holds and goes on otherwise, and
writes no register; a LOOP writes its counter and branches on the new value, comparing with what it read. -/
def Claims.BranchesAndLoops : Prop :=
  ∀ (s : State) (ra rb : SReg) (off : BitVec 13),
    let a := s.d.rd ra; let b := s.d.rd rb
    let target : Word := s64 (s.d.core.pc.toNat + 4 * off.toInt)
    let goes (t : State) (taken : Bool) : Prop := t.d.core.pc = if taken then target else s.d.core.pc + 4
    let branches (i : Instr) (taken : Bool) : Prop := Gives (exec i s) fun t => goes t taken ∧ SameButPc s t
    let counts (i : Instr) (n : Word) (taken : Bool) : Prop :=
      Gives (exec i s) fun t => ScalarIs s t ra n ∧ goes t taken ∧ SameButScalars s t
    let word (cond : Nat) : Word32 := BitVec.ofNat 32 (0x0B * 2 ^ 26 + ra.toNat * 2 ^ 21 + rb.toNat * 2 ^ 16 + cond * 2 ^ 13 + off.toNat)
    (encode (.beq ra rb off) = some (word 0) ∧ encode (.bne ra rb off) = some (word 1) ∧ encode (.blt ra rb off) = some (word 2) ∧
      encode (.bge ra rb off) = some (word 3) ∧ encode (.bltn ra rb off) = some (word 4) ∧
      encode (.bgen ra rb off) = some (word 5) ∧ encode (.bany ra rb off) = some (word 6) ∧
      encode (.bnone ra rb off) = some (word 7)) ∧
    branches (.beq ra rb off) (decide (a = b)) ∧ branches (.bne ra rb off) (decide (a ≠ b)) ∧
    branches (.blt ra rb off) (decide (a.toInt < b.toInt)) ∧ branches (.bge ra rb off) (decide (b.toInt ≤ a.toInt)) ∧
    branches (.bltn ra rb off) (decide (a.toNat < b.toNat)) ∧ branches (.bgen ra rb off) (decide (b.toNat ≤ a.toNat)) ∧
    branches (.bany ra rb off) (decide (a.toNat &&& b.toNat ≠ 0)) ∧
    branches (.bnone ra rb off) (decide (a.toNat &&& b.toNat = 0)) ∧
    counts (.loop ra off) (s64 (a.toNat - 1)) (decide (s64 (a.toNat - 1) ≠ 0)) ∧
    counts (.loopn ra rb off) (u64 (a.toNat + 1)) (decide ((u64 (a.toNat + 1)).toNat < b.toNat)) ∧
    counts (.loopd ra rb off) (s64 (a.toNat - b.toNat)) (decide (0 < (s64 (a.toNat - b.toNat)).toInt))

/-- R115, R116: jumps and calls, with their words. The target of JREG is read before the link is written, and JREG never faults on it. -/
def Claims.JumpsAndCalls : Prop :=
  ∀ (s : State) (rd ra : SReg) (off : BitVec 26),
    let target : Word := s64 (s.d.core.pc.toNat + 4 * off.toInt)
    let link : Word := u64 (s.d.core.pc.toNat + 4)
    (encode (.jmp off) = some (BitVec.ofNat 32 (0x0C * 2 ^ 26 + off.toNat)) ∧
      encode (.call off) = some (BitVec.ofNat 32 (0x0D * 2 ^ 26 + off.toNat)) ∧
      encode (.jreg rd ra) = some (BitVec.ofNat 32 (0x0E * 2 ^ 26 + rd.toNat * 2 ^ 21 + ra.toNat * 2 ^ 16))) ∧
    Gives (exec (.jmp off) s) (fun t => t.d.core.pc = target ∧ SameButPc s t) ∧
    Gives (exec (.call off) s) (fun t => t.d.core.pc = target ∧ ScalarIs s t 31 link ∧ SameButScalars s t) ∧
    Gives (exec (.jreg rd ra) s) fun t => t.d.core.pc = s.d.rd ra ∧ ScalarIs s t rd link ∧ SameButScalars s t

/-- Branches, loops, jumps and calls: when they are taken, where they go, what they write. -/
def Obligations.BranchesJumpsAndCalls : Prop :=
  Claims.BranchesAndLoops ∧ Claims.JumpsAndCalls

/-- R119, R120, R122: on finite operands the FP operations round the exact result once, in the mode that the instruction names, and
OR the flags of Round into FFLAGS; an exact zero takes the sign that R120 gives it. -/
def Claims.FpArithmetic : Prop :=
  ∀ (s : State) (f : FFmt) (rm : Rm) (rd ra rb rc : SReg),
    let x := s.d.rdF f ra; let y := s.d.rdF f rb; let z := s.d.rdF f rc
    let a := fpValue f x; let b := fpValue f y; let c := fpValue f z
    let writes (i : Instr) (e : Exact) : Prop := Gives (exec i s) fun t =>
      WritesScalarFlags s t rd (u64 ((fmtOf f).round (modeOf rm) e).1) ((fmtOf f).round (modeOf rm) e).2
    let rounds (i : Instr) (v : Rat) (zeroNeg : Bool) : Prop :=
      ∃ e : Exact, 0 < e.den ∧ e.rat = v ∧ (v = 0 → e.neg = zeroNeg) ∧ writes i e
    -- the sign of an exact zero that is the sum of two terms
    let zeroSum (p q : Rat) (np nq : Bool) : Bool := if p = 0 ∧ q = 0 ∧ np = nq then np else decide (rm = .rdn)
    let n := fpNeg f
    (fpFinite f x ∧ fpFinite f y →
      rounds (.fadd f rm rd ra rb) (a + b) (zeroSum a b (n x) (n y)) ∧
      rounds (.fsub f rm rd ra rb) (a - b) (zeroSum a b (n x) (!n y)) ∧
      rounds (.fmul f rm rd ra rb) (a * b) (n x != n y) ∧
      (b ≠ 0 → rounds (.fdiv f rm rd ra rb) (a / b) (n x != n y))) ∧
    (fpFinite f x ∧ fpFinite f y ∧ fpFinite f z →
      rounds (.fmadd f rm rd ra rb rc) (a * b + c) (zeroSum (a * b) c (n x != n y) (n z)) ∧
      rounds (.fmsub f rm rd ra rb rc) (a * b - c) (zeroSum (a * b) c (n x != n y) (!n z)) ∧
      rounds (.fnmadd f rm rd ra rb rc) (-(a * b + c)) (zeroSum (a * b) c (n x == n y) (!n z)) ∧
      rounds (.fnmsub f rm rd ra rb rc) (-(a * b - c)) (zeroSum (a * b) c (n x == n y) (n z))) ∧
    -- the square root: a real that lies to every multiple of 2^-200 as the root does
    (fpFinite f x ∧ 0 < a → ∃ e : Exact, 0 < e.den ∧ e.neg = false ∧ writes (.fsqrt f rm rd ra) e ∧
      ∀ k : Nat, ((k : Rat) / 2 ^ 200 ≤ e.rat ↔ ((k : Rat) / 2 ^ 200) ^ 2 ≤ a) ∧
        (e.rat ≤ (k : Rat) / 2 ^ 200 ↔ a ≤ ((k : Rat) / 2 ^ 200) ^ 2))

/-- R120, R122: NaNs, infinities, zero divisors and the roots of zeros and of negative values. -/
def Claims.FpSpecialOperands : Prop :=
  ∀ (s : State) (f : FFmt) (rm : Rm) (rd ra rb rc : SReg),
    let x := s.d.rdF f ra; let y := s.d.rdF f rb; let z := s.d.rdF f rc
    let nan := fpIsNaN f; let snan := fpIsSignalling f; let inf := fpIsInfinity f; let zero := fpIsZero f
    let neg := fpNeg f; let fin := fpFinite f
    let writes (i : Instr) (c : Nat) (fl : Flags) : Prop := Gives (exec i s) fun t => WritesScalarFlags s t rd (u64 c) fl
    let canonical (i : Instr) (nv : Bool) : Prop := writes i (fpCanonical f) { Flags.none with nv := nv }
    let infinite (i : Instr) (n : Bool) (dz : Bool) : Prop :=
      writes i (fpWithSign f n (fpInfinity f)) { Flags.none with dz := dz }
    (nan x ∨ nan y → canonical (.fadd f rm rd ra rb) (snan x || snan y) ∧ canonical (.fsub f rm rd ra rb) (snan x || snan y) ∧
      canonical (.fmul f rm rd ra rb) (snan x || snan y) ∧ canonical (.fdiv f rm rd ra rb) (snan x || snan y)) ∧
    (nan x → canonical (.fsqrt f rm rd ra) (snan x)) ∧
    (inf x ∧ inf y → (if neg x = neg y then infinite (.fadd f rm rd ra rb) (neg x) false else canonical (.fadd f rm rd ra rb) true) ∧
      (if neg x = neg y then canonical (.fsub f rm rd ra rb) true else infinite (.fsub f rm rd ra rb) (neg x) false) ∧
      infinite (.fmul f rm rd ra rb) (neg x != neg y) false ∧ canonical (.fdiv f rm rd ra rb) true) ∧
    (inf x ∧ fin y → infinite (.fadd f rm rd ra rb) (neg x) false ∧ infinite (.fsub f rm rd ra rb) (neg x) false ∧
      (if zero y then canonical (.fmul f rm rd ra rb) true else infinite (.fmul f rm rd ra rb) (neg x != neg y) false) ∧
      infinite (.fdiv f rm rd ra rb) (neg x != neg y) false) ∧
    (fin x ∧ inf y → infinite (.fadd f rm rd ra rb) (neg y) false ∧ infinite (.fsub f rm rd ra rb) (!neg y) false ∧
      (if zero x then canonical (.fmul f rm rd ra rb) true else infinite (.fmul f rm rd ra rb) (neg x != neg y) false) ∧
      writes (.fdiv f rm rd ra rb) (fpWithSign f (neg x != neg y) 0) Flags.none) ∧
    (zero y ∧ fin x → if zero x then canonical (.fdiv f rm rd ra rb) true else infinite (.fdiv f rm rd ra rb) (neg x != neg y) true) ∧
    (zero x → writes (.fsqrt f rm rd ra) x Flags.none) ∧
    (¬ nan x ∧ ¬ zero x ∧ neg x → canonical (.fsqrt f rm rd ra) true) ∧
    (inf x ∧ ¬ neg x → infinite (.fsqrt f rm rd ra) false false) ∧
    -- a fused multiply-add: an invalid product, a NaN, and infinities
    (let each (p : Instr → Bool → Bool → Prop) : Prop :=
      -- the product's sign and the addend's sign as each form uses them
      p (.fmadd f rm rd ra rb rc) (neg x != neg y) (neg z) ∧ p (.fmsub f rm rd ra rb rc) (neg x != neg y) (!neg z) ∧
      p (.fnmadd f rm rd ra rb rc) (neg x == neg y) (!neg z) ∧ p (.fnmsub f rm rd ra rb rc) (neg x == neg y) (neg z)
    ((zero x ∧ inf y) ∨ (inf x ∧ zero y) → each fun i _ _ => canonical i true) ∧
    (nan x ∨ nan y → each fun i _ _ => canonical i (snan x || snan y || snan z)) ∧
    (fin x ∧ fin y ∧ nan z → each fun i _ _ => canonical i (snan z)) ∧
    (fin x ∧ fin y ∧ inf z → each fun i _ sz => infinite i sz false) ∧
    ((inf x ∨ inf y) ∧ ¬ nan x ∧ ¬ nan y ∧ ¬ zero x ∧ ¬ zero y →
      each fun i sp sz =>
        if nan z then canonical i (snan z)
        else if inf z ∧ sp ≠ sz then canonical i true else infinite i sp false))

/-- Scalar floating-point arithmetic, on finite and on special operands. -/
def Obligations.FpArithmeticResults : Prop :=
  Claims.FpArithmetic ∧ Claims.FpSpecialOperands

/-- R119, R120: the operations that do not round. fcopysg, fneg, fabs and fkind raise nothing; fmin and fmax order -0 below +0; the
comparisons answer 0 for NaNs. -/
def Claims.FpSelections : Prop :=
  ∀ (s : State) (f : FFmt) (rd ra rb : SReg),
    let x := s.d.rdF f ra; let y := s.d.rdF f rb
    let nan := fpIsNaN f; let snan := fpIsSignalling f; let neg := fpNeg f; let mag := fpMag f
    let writes (i : Instr) (c : Nat) (nv : Bool) : Prop :=
      Gives (exec i s) fun t => WritesScalarFlags s t rd (u64 c) { Flags.none with nv := nv }
    let picked (less : Bool) : Nat :=
      if nan x ∧ nan y then fpCanonical f else if nan x then y else if nan y then x else if less then y else x
    let equal : Bool := !nan x && !nan y && (decide (fpKey f x = fpKey f y) || (fpIsZero f x && fpIsZero f y))
    let below : Bool := !nan x && !nan y && decide (fpKey f x < fpKey f y) && !(fpIsZero f x && fpIsZero f y)
    writes (.fmin f rd ra rb) (picked (decide (fpKey f y < fpKey f x))) (snan x || snan y) ∧
    writes (.fmax f rd ra rb) (picked (decide (fpKey f x < fpKey f y))) (snan x || snan y) ∧
    writes (.fcopysg f rd ra rb) (fpWithSign f (neg y) (mag x)) false ∧
    writes (.fneg f rd ra) (fpWithSign f (!neg x) (mag x)) false ∧
    writes (.fabs f rd ra) (mag x) false ∧
    writes (.feq f rd ra rb) (if equal then 1 else 0) (snan x || snan y) ∧
    writes (.flt f rd ra rb) (if below then 1 else 0) (nan x || nan y) ∧
    writes (.fle f rd ra rb) (if below || equal then 1 else 0) (nan x || nan y) ∧
    writes (.fkind f rd ra)
      ((if nan x then (if snan x then 5 else 4) else if fpIsInfinity f x then 3 else if fpIsZero f x then 0
        else if mag x < 2 ^ fpFrac f then 1 else 2) + if neg x then 8 else 0) false

/-- R121: conversions between formats, to integers and from integers. -/
def Claims.FpConversions : Prop :=
  ∀ (s : State) (f src : FFmt) (rm : Rm) (rd ra : SReg) (unsigned : Bool),
    let x := s.d.rdF src ra; let y := s.d.rdF f ra
    let writes (i : Instr) (c : Word) (fl : Flags) : Prop := Gives (exec i s) fun t => WritesScalarFlags s t rd c fl
    let nv (b : Bool) : Flags := { Flags.none with nv := b }
    let rounded (i : Instr) (v : Rat) (zeroNeg : Bool) : Prop :=
      ∃ e : Exact, 0 < e.den ∧ e.rat = v ∧ (v = 0 → e.neg = zeroNeg) ∧
        writes i (u64 ((fmtOf f).round (modeOf rm) e).1) ((fmtOf f).round (modeOf rm) e).2
    -- fcvt
    (f = src ∧ ¬ fpIsSignalling src x → writes (.fcvt f src rm rd ra) (u64 x) Flags.none) ∧
    (f ≠ src ∧ fpIsNaN src x ∨ fpIsSignalling src x →
      writes (.fcvt f src rm rd ra) (u64 (fpCanonical f)) (nv (fpIsSignalling src x))) ∧
    (f ≠ src ∧ fpIsInfinity src x → writes (.fcvt f src rm rd ra) (u64 (fpWithSign f (fpNeg src x) (fpInfinity f))) Flags.none) ∧
    (f ≠ src ∧ fpFinite src x → rounded (.fcvt f src rm rd ra) (fpValue src x) (fpNeg src x)) ∧
    -- fcvti
    (let lo : Int := if unsigned then 0 else -2 ^ 63
     let hi : Int := if unsigned then 2 ^ 64 - 1 else 2 ^ 63 - 1
     (fpIsNaN f y → writes (.fcvti f unsigned rm rd ra) 0 (nv true)) ∧
     (fpIsInfinity f y → writes (.fcvti f unsigned rm rd ra) (s64 (if fpNeg f y then lo else hi)) (nv true)) ∧
     (fpFinite f y → ∃ i : Int, RoundsToInt rm (fpValue f y) i ∧
       writes (.fcvti f unsigned rm rd ra) (s64 (max lo (min hi i)))
         (if i < lo ∨ hi < i then nv true else { Flags.none with nx := decide ((i : Rat) ≠ fpValue f y) }))) ∧
    -- fcvtf
    rounded (.fcvtf f unsigned rm rd ra) (if unsigned then ((s.d.rd ra).toNat : Rat) else ((s.d.rd ra).toInt : Rat)) false

/-- Scalar floating-point selections, comparisons, classes and conversions. -/
def Obligations.FpSelectionsAndConversions : Prop :=
  Claims.FpSelections ∧ Claims.FpConversions

/-- R224: what Round delivers. To nearest, no finite code of the format is nearer than a finite result. Toward zero, the result is the
largest in magnitude of the finite codes that do not exceed x. Downward and upward, a result of an x that the format's finite codes
span is the nearest finite code on that side. In mode SR it is the upper neighbour when r < Fr. Inexact is raised exactly when a finite
result differs from x; an overflow delivers what its mode and format say, and raises OF and NX. -/
def Obligations.RoundIsNearest : Prop :=
  ∀ t ∈ [Fmt.f32, Fmt.f16, Fmt.bf16, Fmt.e4m3, Fmt.e5m2, Fmt.e2m1], ∀ x : Exact, 0 < x.den →
    let finite (c : Nat) (y : Exact) : Prop := c < 2 ^ t.w ∧ t.decode c = .fin y
    let spanned : Prop := ∃ c z, finite c z ∧ |x.rat| ≤ |z.rat|
    (∀ y, finite (t.round .rne x).1 y → ∀ c z, finite c z → |y.rat - x.rat| ≤ |z.rat - x.rat|) ∧
    (∃ y, finite (t.round .rtz x).1 y ∧ |y.rat| ≤ |x.rat| ∧ 0 ≤ y.rat * x.rat ∧
      ∀ c z, finite c z → |z.rat| ≤ |x.rat| → |z.rat| ≤ |y.rat|) ∧
    (spanned → ∃ y, finite (t.round .rdn x).1 y ∧ y.rat ≤ x.rat ∧ ∀ c z, finite c z → z.rat ≤ x.rat → z.rat ≤ y.rat) ∧
    (spanned → ∃ y, finite (t.round .rup x).1 y ∧ x.rat ≤ y.rat ∧ ∀ c z, finite c z → x.rat ≤ z.rat → y.rat ≤ z.rat) ∧
    (∀ m ∈ [Mode.rne, .rtz, .rdn, .rup], ∀ y, finite (t.round m x).1 y → ((t.round m x).2.nx = true ↔ y.rat ≠ x.rat)) ∧
    (∀ k r : Nat, ∀ a c ya yc, finite a ya → finite c yc → ya.rat < x.rat → x.rat < yc.rat →
      (∀ b yb, finite b yb → yb.rat ≤ ya.rat ∨ yc.rat ≤ yb.rat) →
      ∃ y, finite (t.round (.sr k r) x).1 y ∧ y.rat = if (r : Int) < ⌊2 ^ k * (x.rat - ya.rat) / (yc.rat - ya.rat)⌋ then yc.rat else ya.rat) ∧
    (∀ m : Mode, (spanned → (t.round m x).2.of = false) ∧ ((t.round m x).2.uf = true → (t.round m x).2.nx = true) ∧
      ((t.round m x).2.of = true → (t.round m x).2.nx = true ∧ (t.round m x).2.uf = false ∧
        (t.round m x).1 = (if x.neg then 2 ^ (t.w - 1) else 0) +
          match t.inf with
          | none => t.maxCode
          | some i => match m with
            | .rne | .sr _ _ => i
            | .rtz => t.maxCode
            | .rdn => if x.neg then i else t.maxCode
            | .rup => if x.neg then t.maxCode else i)) ∧
    (t.round .rne x).2.dz = false ∧ (t.round .rne x).2.nv = false

/-- R40, R91, R125: TRAP, BRK and a word that is no instruction enter the handler, with the registers that R95 gives them. -/
def Claims.SoftwareTraps : Prop :=
  ∀ (s : State) (imm : BitVec 10) (word : Word32) (reason : BitVec 4), CanTrap s →
    let pc := s.d.core.pc
    Gives (exec (.trap imm) s) (fun t => Entered s t 0x11 (pc + 4) pc (u64 imm.toNat) false false) ∧
    Gives (exec (.brk imm) s) (fun t => EnteredAt s t 0x12 pc (u64 imm.toNat)) ∧
    Gives (exec (.illop word reason) s) fun t => EnteredAt s t 0x01 pc (u64 (word.toNat + 2 ^ 32 * reason.toNat))

/-- R94: a synchronous trap with CONS = 0 leaves CAUSE, EPC, FADDR, FINFO and STATUS as they were, stops the core, and sends the compositor the
record, COREID in it. By the model's reading (log 21, DEDUCED) that pc is the FRAME's while one is active, or else that of the oldest vector
instruction which the sequencer holds; the FRAME stays with STATUS, and the register writes of the instructions that ran ahead are undone
(R99, R242). -/
def Claims.DoubleTrapEscalates : Prop :=
  ∀ (s : State) (imm : BitVec 10), s.d.core.status.cons = false →
    let c := s.d.core
    let escalates (t : State) (code : BitVec 6) (pc faddr finfo : Word) (x : Core) : Prop :=
      t = { s with d := { s.d with
        core := { x with pc := pc, run := .escalated code pc faddr finfo, parked := false, traps := c.traps + 1 }
        host := { s.d.host with notices := s.d.host.notices ++
          [.escalation (u64 (c.id % 4096 + 4096 * s.d.deviceId.toNat)) c.statusWord c.cause.word c.epc c.faddr c.finfo code pc faddr finfo] } } }
    (s.Quiet →
      Gives (exec (.trap imm) s) (fun t => escalates t 0x11 c.pc c.pc (u64 imm.toNat) c) ∧
      Gives (exec (.brk imm) s) fun t => escalates t 0x12 c.pc c.pc (u64 imm.toNat) c) ∧
    (∀ f, c.frame = some f → Gives (exec (.brk imm) s) fun t =>
      escalates t 0x12 f.addr c.pc (u64 imm.toNat) { c with s := f.saved.getD c.s, sequencer := [] }) ∧
    ∀ h rest, c.frame = none → c.sequencer = h :: rest → Gives (exec (.brk imm) s) fun t =>
      escalates t 0x12 h.addr c.pc (u64 imm.toNat) { c with s := h.saved, sequencer := [] }

/-- R92: ERET restores the level and IE, sets CONS, exchanges s30 with TSTACK when it returns to user level, and goes on at EPC,
unchecked. Here no FRAME resumes and no buffer holds messages; ReturnsResumeFrames and ReturnsDeliverMessages say what ERET does with them. -/
def Claims.TrapReturns : Prop :=
  ∀ s : State, s.d.core.status.pl = .supervisor → s.d.core.frst.act = false → s.d.core.ctxbuf = 0 →
    let c := s.d.core
    Gives (exec .eret s) fun t =>
      let e := t.d.core
      e.pc = c.epc ∧
      e.status = { cons := true, ppl := c.status.ppl, pie := c.status.pie, ie := c.status.pie, pl := c.status.ppl } ∧
      (if c.status.ppl = .user then t.d.rd 30 = c.tstack ∧ e.tstack = s.d.rd 30 ∧ ∀ r, r ≠ 30 → t.d.rd r = s.d.rd r
       else e.tstack = c.tstack ∧ e.s = c.s) ∧
      t = s.withCore { c with pc := e.pc, status := e.status, tstack := e.tstack, s := e.s }

/-- R96, R99, R242, R262: a trap taken while a FRAME has replays outstanding resumes at the FRAME, whose replay and position go to FRST; one taken
while the sequencer alone holds vector instructions resumes at the oldest of them. What is not performed is given up, and the register writes of
the instructions that ran ahead are undone. -/
def Claims.TrapsLeaveFrames : Prop :=
  ∀ (s : State) (imm : BitVec 10), s.d.core.status.cons = true →
    let c := s.d.core
    let leaves (addr : Word) (saved : Vector (Tagged Word) 32) (frst : Frst) : Prop :=
      let before (r : SReg) : Word := { c with s := saved }.readS s.d.gen r
      ∀ p ∈ [(Instr.trap imm, (0x11 : BitVec 6)), (.brk imm, 0x12)], Gives (exec p.1 s) fun t =>
        let e := t.d.core
        e.cause = { defer := false, async := false, code := p.2 } ∧ e.epc = addr ∧ e.pc = c.tvec ∧ e.faddr = c.pc ∧ e.frame = none ∧
        e.sequencer = [] ∧ e.frst = frst ∧ (∀ r, r ≠ 30 → t.d.rd r = before r) ∧
        (c.status.pl = .user → t.d.rd 30 = c.tstack ∧ e.tstack = before 30) ∧ e.v = c.v ∧ e.p = c.p ∧ t.d.mem = s.d.mem
    (∀ f, c.frame = some f →
      leaves f.addr (f.saved.getD c.s) { act := true, rep := BitVec.ofNat 8 f.rep, pos := BitVec.ofNat 4 f.pos }) ∧
    ∀ h rest, c.frame = none → c.sequencer = h :: rest → leaves h.addr h.saved c.frst

/-- R92, R99, R261, R262: ERET with FRST.ACT = 1 executes the FRAME at EPC again: it captures the body anew, stands at replay REP and position POS,
and clears FRST, while the return itself is as ever. Here the FRAME and its body lie in memory that is fetched without a wait. -/
def Claims.ReturnsResumeFrames : Prop :=
  ∀ (s : State) (w : Word32) (sv : BitVec 5) (n1 : BitVec 4) (k1 : BitVec 8) (sp : BitVec 2) (body : List Captured),
    s.d.core.status.pl = .supervisor → s.d.core.frst.act = true → s.d.core.ctxbuf = 0 →
    let c := s.d.core
    let at' (i : Nat) : Except Stop Word32 := s.d.fetchAt c.status.ppl (c.epc + 4 * u64 i) (c.epc + 4 * u64 i)
    (∀ i, i < 17 → ∃ x, at' i = .ok x) → at' 0 = .ok w → decodeWord w = .ok (.inl (.frame sv n1 k1 sp)) →
    ({ s.d with core := { c.eret s.d.gen with frst := Frst.reset } }).capture (n1.toNat + 1) (c.epc + 4) = .ok body →
    Gives (exec .eret s) fun t =>
      let e := t.d.core
      e.pc = c.epc + 4 * u64 (n1.toNat + 2) ∧ e.frst = { act := false, rep := 0, pos := 0 } ∧
      e.status = { cons := true, ppl := c.status.ppl, pie := c.status.pie, ie := c.status.pie, pl := c.status.ppl } ∧
      (if c.status.ppl = .user then t.d.rd 30 = c.tstack ∧ e.tstack = s.d.rd 30 ∧ ∀ r, r ≠ 30 → t.d.rd r = s.d.rd r
       else e.tstack = c.tstack ∧ e.s = c.s) ∧
      (∃ f, e.frame = some f ∧ f.addr = c.epc ∧ f.count = k1.toNat + 1 ∧ f.sv = sv ∧ f.sp = sp ∧ f.body = body ∧
        f.rep = c.frst.rep.toNat ∧ f.pos = c.frst.pos.toNat) ∧
      t = s.withCore { c with pc := e.pc, status := e.status, tstack := e.tstack, s := e.s, frst := e.frst, frame := e.frame }

/-- R92, R101: on ERET the interface delivers the messages that the buffer at CTXBUF holds, in their stored order, and then writes 0 to its
count. Here the buffer lies in one page of local memory of which only committed bytes are left, and no spilled task of the core waits. -/
def Claims.ReturnsDeliverMessages : Prop :=
  ∀ (s : State) (e : Word) (pa n : Nat),
    s.d.core.status.pl = .supervisor → s.d.core.frst.act = false → s.d.core.spilled = [] →
    let c := s.d.core
    let base : Word := u64 (c.ctxbuf.toNat / 4096 * 4096)
    let room := (4096 * 2 ^ min 4 (c.ctxbuf.toNat / 256 % 16) - 8) / 64
    c.ctxbuf ≠ 0 → pteRmt e = false → pteDec e = false → pteSl e = false → 0 < n → n ≤ room → base.toNat + 8 + 64 * room ≤ 2 ^ 64 →
    (∀ i, i < 8 + 64 * n → let a := base + u64 i
      inLocalRange a = false ∧ (s.d.tlbLookup s.d.cluster s.d.owner a).isSome = true ∧
      s.d.translate s.d.cluster s.d.owner .supervisor .load a = .ok e (pa + i) ∧
      s.d.translate s.d.cluster s.d.owner .supervisor .store a = .ok e (pa + i)) →
    (∀ i, i < 8 + 64 * n → s.d.SettledAt e (pa + i)) → (∀ r ∈ s.d.mem.stores, r.messageTo s.d.cluster.val = false) →
    s.d.holdsAny c.id = false → s.d.valueAt none pa 8 = n →
    Gives (exec .eret s) fun t =>
      let x := t.d.core
      x.delivered = c.delivered ++ (List.range n).map (fun i => BitVec.ofNat 512 (s.d.valueAt none (pa + 8 + 64 * i) 64)) ∧
      x.inbox = c.inbox ∧ x.pc = c.epc ∧
      x.status = { cons := true, ppl := c.status.ppl, pie := c.status.pie, ie := c.status.pie, pl := c.status.ppl } ∧
      ∃ r ∈ t.d.mem.stores, r.cluster = s.d.cluster.val ∧ r.core = c.id ∧ r.dev = none ∧ r.pa = pa ∧ r.bytes = List.replicate 8 0

/-- TRAP, BRK and ILLOP take a trap, a second trap escalates, a trap leaves a FRAME, ERET resumes it and delivers messages (choices:
log 21, 11). -/
def Obligations.TrapEntryAndReturn : Prop :=
  Claims.SoftwareTraps ∧ Claims.DoubleTrapEscalates ∧ Claims.TrapReturns ∧ Claims.TrapsLeaveFrames ∧ Claims.ReturnsResumeFrames ∧ Claims.ReturnsDeliverMessages

/-- R88, R89, R90, R98, R99, R126, R228: what CRD reads, bit by bit, at the level that each register asks. -/
def Claims.ControlRegisterReads : Prop :=
  ∀ (s : State) (rd : SReg),
    let c := s.d.core
    let bit (b : Bool) : Nat := if b then 1 else 0
    let level (l : Level) : Nat := match l with | .user => 0 | .supervisor => 1
    let reads (r : CReg) (x : Word) : Prop := Gives (exec (.crd rd r) s) fun t => WritesScalar s t rd x
    let flags := bit c.fflags.nx + 2 * bit c.fflags.uf + 4 * bit c.fflags.of + 8 * bit c.fflags.dz + 16 * bit c.fflags.nv
    reads .coreid (u64 (c.id % 4096 + 4096 * s.d.deviceId.toNat)) ∧
    reads .owner (u64 (s.d.owner % 64 + 256 * s.d.gen.toNat)) ∧
    reads .gcycle (u64 s.gcycle) ∧ reads .fflags (u64 flags) ∧
    Gives (exec (.crdFflags rd) s) (fun t => WritesScalar s t rd (u64 flags)) ∧
    (c.status.pl = .supervisor →
      reads .status (u64 (level c.status.pl + 4 * bit c.status.ie + 8 * bit c.status.pie + 16 * level c.status.ppl
        + 64 * bit c.status.cons + 256 * bit c.gang.isSome + 512 * bit c.frame.isSome)) ∧
      reads .cause (u64 (c.cause.code.toNat + 64 * bit c.cause.async + 128 * bit c.cause.defer)) ∧
      reads .epc c.epc ∧ reads .faddr c.faddr ∧ reads .finfo c.finfo ∧ reads .tvec c.tvec ∧ reads .tstack c.tstack ∧
      reads .kscr c.kscr ∧ reads .savearea c.savearea ∧ reads .ctxbuf c.ctxbuf ∧
      reads .ipend (u64 (bit c.ipend.minima + 2 * bit c.ipend.orphan + 4 * bit c.ipend.preempt + 8 * bit c.ipend.stop
        + 16 * bit (!c.uncorr.isEmpty))) ∧
      reads .frst (u64 (c.frst.pos.toNat + 16 * c.frst.rep.toNat + 4096 * bit c.frst.act)))

/-- R88 to R90, R99 to R101, R126: what CWR writes; reserved bits and registers with no write level are discarded, and a write of
STATUS exchanges no stack. -/
def Claims.ControlRegisterWrites : Prop :=
  ∀ (s : State) (ra : SReg),
    let c := s.d.core
    let x := (s.d.rd ra).toNat
    let bit (n : Nat) : Bool := decide (x / 2 ^ n % 2 = 1)
    let sets (i : Instr) (f : Core → Core) : Prop := Gives (exec i s) fun t => t = s.withCore { f c with pc := c.pc + 4 }
    sets (.cwrFflags ra) (fun c => { c with fflags := { nv := bit 4, dz := bit 3, of := bit 2, uf := bit 1, nx := bit 0 } }) ∧
    sets (.cwr .coreid ra) id ∧ sets (.cwr .owner ra) id ∧ sets (.cwr .gcycle ra) id ∧
    (c.status.pl = .supervisor →
      sets (.cwr .cause ra) (fun c => { c with cause := { defer := bit 7, async := bit 6, code := BitVec.ofNat 6 x } }) ∧
      sets (.cwr .epc ra) (fun c => { c with epc := u64 x }) ∧ sets (.cwr .faddr ra) (fun c => { c with faddr := u64 x }) ∧
      sets (.cwr .finfo ra) (fun c => { c with finfo := u64 x }) ∧ sets (.cwr .tvec ra) (fun c => { c with tvec := u64 (x / 4 * 4) }) ∧
      sets (.cwr .tstack ra) (fun c => { c with tstack := u64 x }) ∧ sets (.cwr .kscr ra) (fun c => { c with kscr := u64 x }) ∧
      sets (.cwr .savearea ra)
        (fun c => { c with savearea := u64 (x / 2 ^ 10 % 2 ^ 8 * 2 ^ 10 + x / 2 ^ 20 % 2 ^ 8 * 2 ^ 20) }) ∧
      sets (.cwr .ctxbuf ra) (fun c => { c with ctxbuf := u64 (x / 2 ^ 8 * 2 ^ 8) }) ∧
      sets (.cwr .frst ra)
        (fun c => { c with frst := { act := bit 12, rep := BitVec.ofNat 8 (x / 16), pos := BitVec.ofNat 4 x } }) ∧
      sets (.cwr .ipend ra) id ∧
      (x % 4 ≤ 1 ∧ x / 16 % 4 ≤ 1 → sets (.cwrStatus ra) fun c =>
        { c with status := { cons := bit 6, ppl := if bit 4 then .supervisor else .user, pie := bit 3, ie := bit 2
                             pl := if bit 0 then .supervisor else .user } }))

/-- R86, R87, R126: a CWR of STATUS raises PRIV at user level, with level 0b01 in FINFO; at supervisor level a value whose PL or PPL is a level
that no compute core holds raises PRIV with level 0b10. Neither changes STATUS but by the trap. -/
def Claims.StatusWritesAreChecked : Prop :=
  ∀ (s : State) (ra : SReg) (w : Word32), encode (.cwrStatus ra) = some w → CanTrap s →
    let x := (s.d.rd ra).toNat
    (s.d.core.status.pl = .user → Gives (exec (.cwrStatus ra) s) fun t => EnteredAt s t 0x02 s.d.core.pc (u64 (w.toNat + 2 ^ 32))) ∧
    (s.d.core.status.pl = .supervisor → 2 ≤ x % 4 ∨ 2 ≤ x / 16 % 4 →
      Gives (exec (.cwrStatus ra) s) fun t => EnteredAt s t 0x02 s.d.core.pc (u64 (w.toNat + 2 * 2 ^ 32)))

/-- What CRD reads from and CWR writes to every control register. -/
def Obligations.ControlRegisters : Prop :=
  Claims.ControlRegisterReads ∧ Claims.ControlRegisterWrites ∧ Claims.StatusWritesAreChecked

/-- R87: at user level, each instruction reserved to supervisor level raises PRIV, with the instruction word and the level in
FINFO, and has no other effect. -/
def Obligations.PrivilegedInstructionsTrap : Prop :=
  ∀ (s : State) (i : Instr) (w : Word32), supervisorOnly i = true → encode i = some w → CanTrap s →
    s.d.core.status.pl = .user →
    Gives (exec i s) fun t => EnteredAt s t 0x02 s.d.core.pc (u64 (w.toNat + 2 ^ 32))

/-- R123, R124: NOP only goes on. HALT outside a gang completes at once when a bit of IPEND is set, and otherwise leaves the core
clock-gated at its pc. -/
def Claims.NopAndHalt : Prop :=
  ∀ s : State,
    Gives (exec .nop s) (fun t => GoesOn s t ∧ SameButPc s t) ∧
    (s.d.core.gang = none →
      let pending : Bool := !s.d.core.uncorr.isEmpty || s.d.core.ipend.stop || s.d.core.ipend.preempt || s.d.core.ipend.orphan
        || s.d.core.ipend.minima
      (pending = true → Gives (exec .halt s) fun t => t = s.withCore { s.d.core with pc := s.d.core.pc + 4, run := .running }) ∧
      (pending = false → Gives (exec .halt s) fun t => t = s.withCore { s.d.core with run := .halted, stall := 0xF }))

/-- R95, R98, R99, R101: the cause taken at an instruction boundary is the highest pending one; it enters with ASYNC, EPC is the pc, and
its bit is cleared. UNCORR reports and removes the oldest record; PREEMPT has the messages of the interface spilled, and their count in
FINFO; ORPHAN reports one waiting write, which is then marked, and its bit stays at the notification core while more wait. A waiting SEAL,
UNSEAL, PROPOSE, RECYCLE or CINIT is not abandoned (R183, R404, R407). The model's choices of log 11: CTXBUF = 0 spills nothing, size codes above
4 act as 4, the tasks that wait for the core by name are among its messages, and of several orphaned writes the lowest cluster's oldest
comes first. -/
def Claims.AsynchronousCauses : Prop :=
  (∀ (s : State) (i : Instr ⊕ Late), s.d.core.gang = none → s.Quiet → s.d.core.stall ≠ 0 → s.d.waitingInstr = some i →
    (match i with
      | .inl (.seal _ _) | .inl (.unseal _ _) | .inr (.propose _ _ _ _ _) | .inr (.recycleRetire _ _ _ _ _) | .inr (.recycleOpen _ _ _ _ _)
      | .inr (.cinit _ _ _ _) => True
      | _ => False) → Gives (exec .asynchronousCause s) fun t => t = s) ∧
  ∀ s : State, s.Inv → s.d.causeDue = true → s.Quiet →
    let c := s.d.core
    let room := (4096 * 2 ^ min 4 (c.ctxbuf.toNat / 256 % 16) - 8) / 64
    let waits (y : Orphan) : Prop := y.owner = s.d.owner ∧ y.reported = false
    let takes (code : BitVec 6) (faddr finfo : Word) (defer : Bool) (p : Core → Prop) (q : State → Prop := fun _ => True) : Prop :=
      Gives (exec .asynchronousCause s) fun t =>
        let e := t.d.core
        e.cause = { defer := defer, async := true, code := code } ∧ e.epc = c.pc ∧ e.pc = c.tvec ∧ e.finfo = finfo ∧
        e.faddr = faddr ∧ e.status = { cons := false, ppl := c.status.pl, pie := true, ie := false, pl := .supervisor } ∧
        e.gang = none ∧ e.stall = 0 ∧ p e ∧ q t ∧ SameOutside s t
    (∀ x rest, c.uncorr = x :: rest →
      takes 0x09 x.faddr (u64 (x.place.toNat + if x.lost then 256 else 0)) true fun e => e.uncorr = rest ∧ e.ipend = c.ipend) ∧
    (c.uncorr = [] ∧ c.ipend.stop = true →
      takes 0x13 0 c.stopTick false fun e => e.ipend = { c.ipend with stop := false }) ∧
    (c.uncorr = [] ∧ c.ipend.stop = false ∧ c.ipend.preempt = true ∧ c.ctxbuf = 0 →
      takes 0x14 0 (u64 c.preemptSource.toNat) false fun e => e.ipend = { c.ipend with preempt := false } ∧ e.inbox = c.inbox) ∧
    (c.uncorr = [] ∧ c.ipend.stop = false ∧ c.ipend.preempt = true ∧ c.ctxbuf ≠ 0 →
      takes 0x14 0 (u64 (c.preemptSource.toNat + 2 ^ 32 * min room c.inbox.length)) false fun e => e.inbox = []) ∧
    (c.uncorr = [] ∧ c.ipend.stop = false ∧ c.ipend.preempt = false ∧ c.ipend.orphan = true →
      ∀ (k : Fin 32) (x : Orphan) (before after : List Orphan), (s.d.clusters[k]).orphans = before ++ x :: after → waits x →
        (∀ y ∈ before, ¬waits y) → (∀ j : Fin 32, j < k → ∀ y ∈ (s.d.clusters[j]).orphans, ¬waits y) →
        takes 0x17 x.va (u64 x.kid.kid.toNat) false
          (fun e => s.d.notifyCore s.d.owner = some c.id → (e.ipend.orphan = true ↔
            (∃ y ∈ after, waits y) ∨ ∃ j : Fin 32, k < j ∧ ∃ y ∈ (s.d.clusters[j]).orphans, waits y))
          fun t => (t.d.clusters[k]).orphans = before ++ { x with reported := true } :: after) ∧
    (c.uncorr = [] ∧ c.ipend = { stop := false, preempt := false, orphan := false, minima := true } →
      takes 0x16 0 (u64 c.minimaMask.toNat) false fun e => e.ipend = Ipend.reset)

/-- R95, R98: a request for a pre-emption sets its bit and its source; a failure is recorded while fewer than 16 records are held,
and otherwise marks the newest. -/
def Claims.CausesArePosted : Prop :=
  ∀ (s : State) (core : Nat) (source : BitVec 8) (faddr : Word) (place : BitVec 3), s.Inv →
    core < 4096 → core % 128 < 96 →
    let c := s.d.coreAt core
    ((source = 1 ∨ source = 2) → Gives (exec (.preemptRequest core source) s) fun t =>
      t.d.coreAt core = { c with ipend := { c.ipend with preempt := true }, preemptSource := source } ∧
      (∀ k, k ≠ core → t.d.coreAt k = s.d.coreAt k) ∧ t.d.mem = s.d.mem ∧ SameOutside s t) ∧
    (place.toNat ≤ 5 → c.uncorr.length < 16 → Gives (exec (.uncorrRecord core faddr place) s) fun t =>
      t.d.coreAt core = { c with uncorr := c.uncorr ++ [{ faddr := faddr, place := place, lost := false }] } ∧
      (∀ k, k ≠ core → t.d.coreAt k = s.d.coreAt k) ∧ t.d.mem = s.d.mem ∧ SameOutside s t) ∧
    (place.toNat ≤ 5 → ∀ old x, c.uncorr = old ++ [x] → 16 ≤ c.uncorr.length →
      Gives (exec (.uncorrRecord core faddr place) s) fun t =>
        t.d.coreAt core = { c with uncorr := old ++ [{ x with lost := true }] })

/-- NOP, HALT, and how asynchronous causes are posted and taken (choices: log 11). -/
def Obligations.HaltAndAsynchronousCauses : Prop :=
  Claims.NopAndHalt ∧ Claims.AsynchronousCauses ∧ Claims.CausesArePosted

/-- R44, R142, R144, R166, R168: LD and LDX of device memory, wherever the checks pass and no uncorrectable error meets the range, under every
order and qualifier of LDX. One whose bytes the core's L1 or its slice holds, or that reads at the home past every copy, completes: it delivers a
value, extended as its form says or to a pair; read at the home, where only committed bytes concern the grain, the value is theirs. Another waits
for its data, and its slice then holds the bytes (that this is a step of its own is the model's choice, log 7). -/
def Claims.LoadsFromMemory : Prop :=
  ∀ (s : State) (rd ra rb : SReg) (off : BitVec 13) (fq : Fe) (ord : MemOrder) (sc : MemScope) (e : Word) (pa : Nat),
    let dev := leafDev e
    let k := s.d.cluster
    let loadsWith (i : Instr) (va : Word) (n : Nat) (signed pod : Bool) : Prop :=
      let held (d : Dev) : Prop := (d.l1For k (some d.core.id) dev pa n).isSome = true ∨ (d.copyFor k dev pa n).isSome = true
      let past : Prop := pod = true ∨ pteDec e = true
      (n = 16 → rd.toNat % 2 = 0) → s.d.Reaches .load va n e pa → s.d.badAt dev pa n = none →
      (held s.d ∨ past →
        Gives (exec i s) fun t => ∃ x, LoadedInto s t rd n signed x ∧ x < 2 ^ (8 * n) ∧ GoesOn s t ∧ SameCoreButUncorr s t ∧
          (s.d.SettledAt e pa → x = s.d.valueAt dev pa n ∧ SameCore s t ∧ SameButMemory s t ∧
            t.d.mem.hbm = s.d.mem.hbm ∧ t.d.mem.pod = s.d.mem.pod)) ∧
      (¬ past → s.d.SettledAt e pa →
        Gives (exec i s) fun t => t.d.core = { s.d.core with stall := 3 } ∧ SameButMemory s t ∧ t.d.mem.hbm = s.d.mem.hbm ∧
          t.d.mem.pod = s.d.mem.pod ∧ ∃ c, t.d.copyFor k dev pa n = some c ∧ c.slice pa n = bytesOf n (s.d.valueAt dev pa n))
    let loads (i : Instr) (va : Word) (n : Nat) (signed : Bool) : Prop := loadsWith i va n signed false
    let loadsX (z : Size) (va : Word) (n : Nat) (signed : Bool) : Prop :=
      loadsWith (.ldx z signed fq ord sc rd ra rb) va n signed ((decide (ord = .acq) || decide (ord = .ar)) && decide (sc = .pod))
    let at13 : Word := s.d.rd ra + BitVec.ofInt 64 off.toInt
    let sum : Word := s.d.rd ra + s.d.rd rb
    loads (.ld .bz rd ra off) at13 1 false ∧ loads (.ld .hz rd ra off) at13 2 false ∧ loads (.ld .wz rd ra off) at13 4 false ∧
    loads (.ld .d rd ra off) at13 8 false ∧ loads (.ld .bs rd ra off) at13 1 true ∧ loads (.ld .hs rd ra off) at13 2 true ∧
    loads (.ld .ws rd ra off) at13 4 true ∧ loads (.ld .q rd ra off) at13 16 false ∧
    ∀ signed, loadsX .b sum 1 signed ∧ loadsX .h sum 2 signed ∧ loadsX .w sum 4 signed ∧ loadsX .d sum 8 signed ∧ loadsX .q sum 16 signed

/-- R145, R166: ST and STX of device memory hand the bytes of their register or pair to the slice, which sends them to the home; no
register and no committed byte changes where the form carries no order, or is a release with nothing to wait for. A release first has
its cluster's stores acknowledged, and changes no register either. -/
def Claims.StoresToMemory : Prop :=
  ∀ (s : State) (rs ra rb : SReg) (off : BitVec 13) (fq : Fe) (sc : MemScope) (e : Word) (pa : Nat),
    let stores (i : Instr) (va : Word) (n : Nat) (waits : Bool) : Prop :=
      s.d.Reaches .store va n e pa → pteDec e = false → (waits = true → s.d.holdsAny s.d.core.id = false) →
      let r := s.d.sentStore va e pa (bytesOf n (s.d.sourceNat rs n))
      Gives (exec i s) fun t =>
        GoesOn s t ∧ t.d.core.s = s.d.core.s ∧ SameCoreButUncorr s t ∧ r ∈ t.d.mem.stores ∧
        (∀ x ∈ t.d.mem.stores, x = r ∨ ∃ y ∈ s.d.mem.stores, x = { y with phase := x.phase }) ∧
        (waits = false ∨ s.d.Clear →
          t = { s with d := { s.d with
            core := { s.d.core with pc := s.d.core.pc + 4 }
            mem := { s.d.mem with stores := s.d.mem.stores ++ [r], nextStore := s.d.mem.nextStore + 1 } } })
    let at13 : Word := s.d.rd ra + BitVec.ofInt 64 off.toInt
    let sum : Word := s.d.rd ra + s.d.rd rb
    stores (.st .b rs ra off) at13 1 false ∧ stores (.st .h rs ra off) at13 2 false ∧ stores (.st .w rs ra off) at13 4 false ∧
    stores (.st .d rs ra off) at13 8 false ∧ stores (.st .q rs ra off) at13 16 false ∧
    ∀ ord, stores (.stx .b fq ord sc rs ra rb) sum 1 (releasing ord) ∧ stores (.stx .h fq ord sc rs ra rb) sum 2 (releasing ord) ∧
      stores (.stx .w fq ord sc rs ra rb) sum 4 (releasing ord) ∧ stores (.stx .d fq ord sc rs ra rb) sum 8 (releasing ord) ∧
      stores (.stx .q fq ord sc rs ra rb) sum 16 (releasing ord)

/-- R58, R64, R142: a plain load that no store in flight meets is supplied by the copy of the core's L1, or else by that of its slice, which
then enters the L1; an acquiring load at .pod reads at the home, past every copy. -/
def Claims.CachesSupply : Prop :=
  ∀ (s : State) (rd ra rb : SReg) (off : BitVec 13) (e : Word) (pa : Nat),
    let dev := leafDev e
    let k := s.d.cluster
    let l1 := s.d.l1For k (some s.d.core.id) dev pa 8
    let takes (c : SliceCopy) (t : State) : Prop := LoadedInto s t rd 8 false (leNat (c.slice pa 8)) ∧ GoesOn s t ∧ SameCore s t
    ((∀ r ∈ s.d.mem.stores, r.dev = dev → overlap pa 8 r.pa r.bytes.length = false) → pteDec e = false →
      s.d.Reaches .load (s.d.rd ra + BitVec.ofInt 64 off.toInt) 8 e pa →
      (∀ c, l1 = some c → Gives (exec (.ld .d rd ra off) s) (takes c)) ∧
      (∀ c, l1 = none → s.d.copyFor k dev pa 8 = some c → Gives (exec (.ld .d rd ra off) s) fun t =>
        takes c t ∧ t.d.mem.copies.head? = some { c with core := some s.d.core.id })) ∧
    (let g := grainBytes e
     s.d.Reaches .load (s.d.rd ra + s.d.rd rb) 8 e pa → s.d.badAt dev pa 8 = none →
      (∀ r ∈ s.d.mem.stores, r.dev = dev → overlap (grainBase pa g) g r.pa r.bytes.length = false) →
      (∀ r ∈ s.d.mem.partials, r.dev = dev → overlap (grainBase pa g) g r.request.pa (r.request.ty.bits / 8) = false) →
      Gives (exec (.ldx .d false .none .acq .pod rd ra rb) s) fun t =>
        LoadedInto s t rd 8 false (s.d.valueAt dev pa 8) ∧ GoesOn s t ∧ SameCore s t)

/-- LD, LDX, ST and STX of device memory and of the caches, with their frames. -/
def Obligations.LoadsAndStores : Prop :=
  Claims.LoadsFromMemory ∧ Claims.StoresToMemory ∧ Claims.CachesSupply

/-- R58, R145: from the moment of a store, the loads of every core of its cluster read its bytes, and every other byte reads for each of them as
before. -/
def Obligations.OwnStoresAreSeen : Prop :=
  ∀ (s : State) (rs ra : SReg) (off : BitVec 13) (z : Size) (e : Word) (pa : Nat), s.Inv →
    let n := match z with | .b => 1 | .h => 2 | .w => 4 | .d => 8 | .q => 16
    s.d.Reaches .store (s.d.rd ra + BitVec.ofInt 64 off.toInt) n e pa → pteDec e = false →
    Gives (exec (.st z rs ra off) s) fun t =>
      ∀ (core : Nat) dev a, t.d.seen core dev a =
        if dev = leafDev e ∧ pa ≤ a ∧ a < pa + n then BitVec.ofNat 8 (s.d.sourceNat rs n / 256 ^ (a - pa))
        else s.d.seen core dev a

/-- R135, R137, R159, R166: LD and ST through W0 of the core's own scratchpad, at user level outside the save area: a load reads the
bytes, a stale row as zeros; a store writes its bytes, every other byte reads as before, and no register changes. -/
def Claims.ScratchpadIsAccessed : Prop :=
  ∀ (s : State) (r ra : SReg) (off : BitVec 13) (o : Nat),
    let va : Word := s.d.rd ra + BitVec.ofInt 64 off.toInt
    let c := s.d.core
    let byte (x : State) (i : Nat) : Byte := x.d.core.pad.get x.d.gen i
    let reaches (n : Nat) : Prop :=
      va = u64 (0x00FFFF000FE00000 + o) ∧ o + n ≤ 262144 ∧ o % n = 0 ∧ c.pad.bad = [] ∧
      (c.status.pl = .supervisor ∨ c.savearea = 0)
    let loads (k : LdKind) (n : Nat) (signed : Bool) : Prop := reaches n → (n = 16 → r.toNat % 2 = 0) →
      Gives (exec (.ld k r ra off) s) fun t => LoadedInto s t r n signed
        ((List.range n).map fun i => (byte s (o + i)).toNat * 256 ^ i).sum ∧ GoesOn s t ∧ SameButScalars s t
    let stores (z : Size) (n : Nat) : Prop := reaches n →
      Gives (exec (.st z r ra off) s) fun t => GoesOn s t ∧
        (s.Inv → ∀ i, byte t i = if o ≤ i ∧ i < o + n then BitVec.ofNat 8 (s.d.sourceNat r n / 256 ^ (i - o)) else byte s i) ∧
        t = s.withCore { c with pc := t.d.core.pc, pad := t.d.core.pad }
    loads .bz 1 false ∧ loads .hz 2 false ∧ loads .wz 4 false ∧ loads .d 8 false ∧ loads .bs 1 true ∧ loads .hs 2 true ∧
    loads .ws 4 true ∧ loads .q 16 false ∧ stores .b 1 ∧ stores .h 2 ∧ stores .w 4 ∧ stores .d 8 ∧ stores .q 16

/-- R135, R139, R140, R166, R168: LDX and STX with the full/empty codes through W0 of the core's own scratchpad, their granule the 16 bytes that
hold the address. A load with .fe, .fk or .fc of a full granule delivers the bytes, and .fc clears its bit; of an empty one it waits, changing
nothing. A store with .fe writes its bytes and sets the bit; with no code it leaves the bit as it is. -/
def Claims.FullEmptyAccesses : Prop :=
  ∀ (s : State) (r ra rb : SReg) (o : Nat) (signed : Bool),
    let va : Word := s.d.rd ra + s.d.rd rb
    let c := s.d.core
    let byte (x : State) (i : Nat) : Byte := x.d.core.pad.get x.d.gen i
    let full (x : State) (g : Nat) : Prop := x.d.core.pad.isFull x.d.gen g = true
    let reaches (n : Nat) : Prop :=
      va = u64 (0x00FFFF000FE00000 + o) ∧ o + n ≤ 262144 ∧ o % n = 0 ∧ c.pad.bad = [] ∧
      (c.status.pl = .supervisor ∨ c.savearea = 0)
    let loads (z : Size) (n : Nat) : Prop := reaches n → (n = 16 → r.toNat % 2 = 0) → ∀ fq, fq ≠ Fe.none →
      (full s (o / 16) → Gives (exec (.ldx z signed fq .none .core r ra rb) s) fun t =>
        LoadedInto s t r n signed ((List.range n).map fun i => (byte s (o + i)).toNat * 256 ^ i).sum ∧ GoesOn s t ∧
        (∀ g, full t g ↔ full s g ∧ (fq = .fc → g ≠ o / 16)) ∧
        (∀ i, byte t i = byte s i) ∧ t = s.withCore { c with s := t.d.core.s, pc := t.d.core.pc, pad := t.d.core.pad }) ∧
      (¬full s (o / 16) → exec (.ldx z signed fq .none .core r ra rb) s = .next (s.withCore { c with stall := 5 }))
    let stores (z : Size) (n : Nat) : Prop := reaches n → ∀ fq, fq = Fe.none ∨ fq = .fe →
      Gives (exec (.stx z fq .none .core r ra rb) s) fun t => GoesOn s t ∧
        (∀ g, full t g ↔ full s g ∨ fq = .fe ∧ g = o / 16) ∧
        (s.Inv → ∀ i, byte t i = if o ≤ i ∧ i < o + n then BitVec.ofNat 8 (s.d.sourceNat r n / 256 ^ (i - o)) else byte s i) ∧
        t = s.withCore { c with pc := t.d.core.pc, pad := t.d.core.pad }
    loads .b 1 ∧ loads .h 2 ∧ loads .w 4 ∧ loads .d 8 ∧ loads .q 16 ∧
    stores .b 1 ∧ stores .h 2 ∧ stores .w 4 ∧ stores .d 8 ∧ stores .q 16

/-- R100, R136: at user level an access through W0 to bytes of the target core's save area raises PROT with 0b10 in FINFO [1:0] and changes
nothing else; one outside it, and every one at supervisor level, is performed. -/
def Claims.SaveAreaIsGuarded : Prop :=
  ∀ (s : State) (r ra : SReg) (off : BitVec 13) (k o : Nat),
    let va : Word := s.d.rd ra + BitVec.ofInt 64 off.toInt
    let x := s.d.coreAt (if k = 127 then s.d.core.id else s.d.core.id / 128 * 128 + k)
    let first := x.savearea.toNat / 2 ^ 10 % 2 ^ 8 * 1024
    let len := x.savearea.toNat / 2 ^ 20 % 2 ^ 8 * 1024
    k < 96 ∨ k = 127 → va = u64 (0x00FFFF0000000000 + k * 2 ^ 21 + o) → o + 8 ≤ 262144 → o % 8 = 0 →
    let inside : Prop := o < first + len ∧ first < o + 8 ∧ len ≠ 0
    (s.d.core.status.pl = .user → inside → CanTrap s →
      Gives (exec (.ld .d r ra off) s) (fun t => EnteredAt s t 0x05 va 2) ∧
      Gives (exec (.st .d r ra off) s) fun t => EnteredAt s t 0x05 va 0x12) ∧
    (s.d.core.status.pl = .supervisor ∨ ¬inside → x.pad.bad = [] → s.Inv →
      Gives (exec (.ld .d r ra off) s) (GoesOn s) ∧ Gives (exec (.st .d r ra off) s) (GoesOn s))

/-- R264, R267, R268, R270, R271: a load of one element through W1 to W4 or W7, or of the two of a byte through W5 or W6, delivers the code
that the window shows for the region: the stored value rounded to the window's format, the integer or the code. Where no descriptor
holds a region, the windows show the bytes as W0 does. -/
def Claims.WindowsShowElements : Prop :=
  ∀ (s : State) (rd ra : SReg) (off : BitVec 13) (d : BitVec 4) (r : Region) (win o x : Nat),
    let byte (i : Nat) : Byte := s.d.core.pad.get s.d.gen i
    let va : Word := s.d.rd ra + BitVec.ofInt 64 off.toInt
    let h := r.halves win
    let n := max 1 (h / 2)
    let kind (n : Nat) : LdKind := if n = 1 then .bz else if n = 2 then .hz else .wz
    (s.d.InView va win o d r → o = r.base + x * h / 2 → o + n ≤ 262144 → x < 32 * r.blocks * r.size → (h = 1 → x % 2 = 0) →
      Gives (exec (.ld (kind n) rd ra off) s) fun t => ∃ code,
        (if h = 1 then ∃ lo hi, r.Shows byte win x lo ∧ r.Shows byte win (x + 1) hi ∧ code = lo + 16 * hi else r.Shows byte win x code) ∧
        LoadedInto s t rd n false code ∧ GoesOn s t ∧ SameButScalars s t) ∧
    (∀ m, m = 1 ∨ m = 2 ∨ m = 4 → 1 ≤ win → win ≤ 7 → va = u64 (0x00FFFF000FE00000 + 2 ^ 18 * win + o) → o + m ≤ 262144 → o % m = 0 →
      s.d.core.pad.bad = [] → s.d.core.status.pl = .supervisor ∨ s.d.core.savearea = 0 →
      (∀ k : BitVec 4, (s.d.rdD k).toNat / 2 ^ 58 % 16 = 0) →
      Gives (exec (.ld (kind m) rd ra off) s) fun t =>
        LoadedInto s t rd m false ((List.range m).map fun i => (byte (o + i)).toNat * 256 ^ i).sum ∧ GoesOn s t ∧ SameButScalars s t)

/-- R233 to R237, R266, R269 to R271: a store through W1 to W7 into one block of a region writes the elements that its bytes meet; bytes that
it leaves of an element are those that the window shows. Through W1 to W5 the block is encoded anew, in plane form with its scale or on
the levels under its group's S, from those values and the others' exact ones; W5 of a region of kind E2M1 converts to MX first. W6 and W7
change codes and integers and no scale. Nothing else changes. -/
def Claims.WindowsEncodeBlocks : Prop :=
  ∀ (s : State) (rs ra : SReg) (off : BitVec 13) (z : Size) (d : BitVec 4) (r : Region) (win n o first : Nat),
    let c := s.d.core
    let old (i : Nat) : Byte := c.pad.get s.d.gen i
    let key := s.d.rdDs d
    let h := r.halves win
    let src := s.d.sourceNat rs n
    let place (x i : Nat) : Nat := r.base + x * h / 2 + i
    let hits (p : Nat) : Bool := decide (o ≤ p) && decide (p < o + n)
    let mine (x : Nat) : Prop := first ≤ x ∧ x < first + r.size
    let written (x : Nat) : Bool := (List.range (max 1 (h / 2))).any fun i => hits (place x i)
    let scaleAt := r.sbase + first / r.size
    let inBlock (i : Nat) : Prop := r.origin first ≤ i ∧ i < r.origin first + r.bb
    s.d.InView (s.d.rd ra + BitVec.ofInt 64 off.toInt) win o d r →
    (z = .b ∧ n = 1 ∨ z = .h ∧ n = 2 ∨ z = .w ∧ n = 4 ∨ z = .d ∧ n = 8 ∨ z = .q ∧ n = 16) → o % n = 0 →
    first % r.size = 0 → first < 32 * r.blocks * r.size → place first 0 ≤ o → o + n ≤ min 262144 (place (first + r.size) 0) → ¬ inBlock scaleAt →
    Gives (exec (.st z rs ra off) s) fun t => GoesOn s t ∧ t = s.withCore { c with pc := t.d.core.pc, pad := t.d.core.pad } ∧
      (s.Inv → ∃ code : Nat → Nat,
        let new (i : Nat) : Byte := t.d.core.pad.get t.d.gen i
        let half (x : Nat) : Bool := decide (2 ^ ((windowTy win).bits - 1) ≤ code x)
        (∀ i, ¬ inBlock i → i ≠ scaleAt ∨ 6 ≤ win → new i = old i) ∧
        (∀ x, mine x → written x = true →
          if h = 1 then code x = src / 256 ^ (place x 0 - o) / 16 ^ (x % 2) % 16
          else ∃ shown, r.Shows old win x shown ∧ code x = ((List.range (h / 2)).map fun i =>
            256 ^ i * if hits (place x i) then src / 256 ^ (place x i - o) % 256 else shown / 256 ^ i % 256).sum) ∧
        (win = 6 → ∀ x, mine x → r.code new x = if written x then code x else r.code old x) ∧
        (win = 7 → r.qn4 = true → ∀ x, mine x →
          (written x = true → ∃ i, LevelOf nearer |(((code x : Int).bmod 256 : Int) : Rat)| i ∧
            r.code new x = i + if (code x : Int).bmod 256 < 0 then 8 else 0) ∧
          (written x = false → r.code new x = r.code old x)) ∧
        (win = 7 → r.qn4 = false → ∀ x, mine x → r.int new x =
          if written x then max (-(2 ^ (r.w - 1))) (min (2 ^ (r.w - 1) - 1) ((code x : Int).bmod (2 ^ (4 * h)))) else r.int old x) ∧
        (win ≤ 5 → ∃ v u : Nat → Option Rat,
          (∀ x, mine x → v x =
            if written x then
              if code x % 2 ^ ((windowTy win).bits - 1) ≤ eltTop (windowTy win) then some (eltValue (windowTy win) (code x)) else none
            else r.value old x) ∧
          (win = 5 → r.kind = 5 → r.Mx key first v u) ∧ (¬ (win = 5 ∧ r.kind = 5) → u = v) ∧
          (r.qn4 = false → r.Encodes new key first u) ∧
          (r.qn4 = true → r.EncodesLevels old new key first u fun x =>
            if written x then half x = true else ∃ q, u x = some q ∧ q < 0)))

/-- Loads and stores of the own scratchpad: plain, with .fe, .fc and .fk, in the save area, and through the format windows. -/
def Obligations.ScratchpadAccesses : Prop :=
  Claims.ScratchpadIsAccessed ∧ Claims.FullEmptyAccesses ∧ Claims.SaveAreaIsGuarded ∧ Claims.WindowsShowElements ∧ Claims.WindowsEncodeBlocks

/-- R163, R95: LD and ST at an address that is no multiple of their size raise MISALIGN: FADDR is the address, FINFO [2:0] the size
and [4] a store; nothing is loaded or stored. -/
def Claims.MisalignedAccessesTrap : Prop :=
  ∀ (s : State) (r ra : SReg) (off : BitVec 13), CanTrap s →
    let va : Word := s.d.rd ra + BitVec.ofInt 64 off.toInt
    let traps (i : Instr) (n : Nat) (finfo : Word) : Prop := va.toNat % n ≠ 0 → Gives (exec i s) fun t => EnteredAt s t 0x03 va finfo
    traps (.ld .hz r ra off) 2 1 ∧ traps (.ld .hs r ra off) 2 1 ∧ traps (.ld .wz r ra off) 4 2 ∧ traps (.ld .ws r ra off) 4 2 ∧
    traps (.ld .d r ra off) 8 3 ∧ traps (.ld .q r ra off) 16 4 ∧ traps (.st .h r ra off) 2 0x11 ∧
    traps (.st .w r ra off) 4 0x12 ∧ traps (.st .d r ra off) 8 0x13 ∧ traps (.st .q r ra off) 16 0x14

/-- R152 to R154: the checks of an aligned access to a translated page, in their order: canonical, mapped, USR, W or COW, SL. Where the
translation cache does not hold the page, a walk comes first; one that finds a leaf is a step of its own after which the core tries again, and
one that finds none traps after it (the model's choice, log 7). -/
def Claims.PageChecks : Prop :=
  ∀ (s : State) (rd rs ra : SReg) (off : BitVec 13) (e : Word) (level : Nat), CanTrap s →
    let va : Word := s.d.rd ra + BitVec.ofInt 64 off.toInt
    let k := s.d.cluster
    let walk := s.d.leafFor k s.d.owner va
    let w := s.d.pageWalk k.val va
    let walked := s.withDev { w with core := { s.d.core with uncorr := w.core.uncorr } }
    let ld := exec (.ld .d rd ra off) s
    let st := exec (.st .d rs ra off) s
    va.toNat % 8 = 0 → inLocalRange va = false →
    (canonical va = false → Gives ld (fun t => EnteredAt s t 0x04 va 0x40) ∧ Gives st fun t => EnteredAt s t 0x04 va 0x50) ∧
    (canonical va = true → walk = .fails level →
      Gives ld (fun t => EnteredAt walked t 0x04 va (u64 level)) ∧
      (level < 8 → Gives st fun t => EnteredAt walked t 0x04 va (u64 (16 + level)))) ∧
    (canonical va = true → walk = .leaf e level → s.d.tlbLookup k s.d.owner va = none →
      let walks (t : State) : Prop := SameOutside s t ∧ t.d = { w with core := { s.d.core with stall := 0xC, uncorr := w.core.uncorr } }
      Gives ld walks ∧ Gives st walks) ∧
    (canonical va = true → walk = .leaf e level → pteMig e = false → (s.d.tlbLookup k s.d.owner va).isSome = true →
      (s.d.core.status.pl = .user → pteUsr e = false →
        Gives ld (fun t => EnteredAt s t 0x05 va 2) ∧ Gives st fun t => EnteredAt s t 0x05 va 0x12) ∧
      (s.d.core.status.pl = .supervisor ∨ pteUsr e = true →
        (pteW e = false → Gives st fun t => EnteredAt s t 0x05 va (if pteCow e then 0x11 else 0x10)) ∧
        (pteW e = true → pteSl e = true → Gives st fun t => EnteredAt s t 0x06 va (u64 (16 + 256 * pteSize e)))))

/-- R156: an access to a migrating page enters the cluster's hold queue: a load waits there with its core, a store is held and its core goes
on; the queue holds 64, and where it is full a store stalls its core. -/
def Claims.MigratingPagesHold : Prop :=
  ∀ (s : State) (rd rs ra : SReg) (off : BitVec 13) (e : Word) (level : Nat),
    let va : Word := s.d.rd ra + BitVec.ofInt 64 off.toInt
    let k := s.d.cluster
    let q := s.d.clusters[k].hold
    let joins (t : State) (h : HeldAccess) : Prop := t.d.clusters[k] = { s.d.clusters[k] with hold := q ++ [h] } ∧
      (∀ j, j ≠ k → t.d.clusters[j] = s.d.clusters[j]) ∧ t.d.mem = s.d.mem ∧ SameOutside s t
    va.toNat % 8 = 0 → inLocalRange va = false → canonical va = true → (s.d.tlbLookup k s.d.owner va).isSome = true →
    s.d.leafFor k s.d.owner va = .leaf e level → pteMig e = true →
    ((∀ x, HeldAccess.wait s.d.core.id x ∉ q) → q.length < 64 → Gives (exec (.ld .d rd ra off) s) fun t =>
      joins t (.wait s.d.core.id va) ∧ t.d.core = { s.d.core with stall := 0xC }) ∧
    (q.length < 64 → Gives (exec (.st .d rs ra off) s) fun t =>
      joins t (.store s.d.core.id s.d.owner s.d.core.kid s.d.core.status.pl va (bytesOf 8 (s.d.rd rs).toNat)) ∧
      t.d.core = { s.d.core with pc := s.d.core.pc + 4 }) ∧
    (64 ≤ q.length → exec (.st .d rs ra off) s = .next (s.withCore { s.d.core with stall := 0xC }))

/-- Alignment and page checks of scalar accesses, and pages in migration (choices: log 7). -/
def Obligations.AccessChecks : Prop :=
  Claims.MisalignedAccessesTrap ∧ Claims.PageChecks ∧ Claims.MigratingPagesHold

/-- R169 to R171: an atomic delivers the old value and performs one read-modify-write at the home, or in the own scratchpad; .w sign-extends,
and CAS writes only when the value was the expected one. Where only committed bytes concern the grain, and a release has nothing to wait
for, the old value is theirs and nothing else changes. -/
def Claims.AtomicResults : Prop :=
  ∀ (s : State) (z : Size) (ord : MemOrder) (sc : MemScope) (rd ra rb : SReg) (e : Word) (pa n o : Nat),
    (z = .w ∧ n = 4 ∨ z = .d ∧ n = 8 ∨ z = .q ∧ n = 16 ∧ rd.toNat % 2 = 0) →
    (releasing ord = true → s.d.holdsAny s.d.core.id = false) →
    let c := s.d.core
    let src := s.d.sourceNat rb n
    let signed (x : Nat) : Int := (x : Int).bmod (2 ^ (8 * n))
    let inMemory (i : Instr) (new : Nat → Nat) : Prop :=
      s.d.Reaches .store (s.d.rd ra) n e pa → pteDec e = false → s.d.badAt (leafDev e) pa n = none →
      Gives (exec i s) fun t => ∃ old, old < 2 ^ (8 * n) ∧ LoadedInto s t rd n (decide (n = 4)) old ∧
        GoesOn s t ∧ SameCoreButUncorr s t ∧ (s.Inv → t.d.valueAt (leafDev e) pa n = new old) ∧
        (s.Inv → s.d.SettledAt e pa → releasing ord = false ∨ s.d.Clear → old = s.d.valueAt (leafDev e) pa n ∧
          MemoryTakes s t (leafDev e) pa n (new old) ∧ SameCore s t ∧ SameButMemory s t)
    let byte (x : State) (i : Nat) : Byte := x.d.core.pad.get x.d.gen i
    let inPad (i : Instr) (new : Nat → Nat) : Prop :=
      s.d.rd ra = u64 (0x00FFFF000FE00000 + o) → o + n ≤ 262144 → o % n = 0 → c.pad.bad = [] →
      c.status.pl = .supervisor ∨ c.savearea = 0 → releasing ord = false ∨ s.d.Clear →
      let old := ((List.range n).map fun i => (byte s (o + i)).toNat * 256 ^ i).sum
      Gives (exec i s) fun t => LoadedInto s t rd n (decide (n = 4)) old ∧ GoesOn s t ∧
        (s.Inv → ∀ i, byte t i = if o ≤ i ∧ i < o + n then BitVec.ofNat 8 (new old / 256 ^ (i - o)) else byte s i) ∧
        t = s.withCore { c with s := t.d.core.s, pc := t.d.core.pc, pad := t.d.core.pad }
    let does (i : Instr) (new : Nat → Nat) : Prop := inMemory i new ∧ inPad i new
    does (.atomSwp z ord sc rd ra rb) (fun _ => src) ∧
    does (.atomCas z ord sc rd ra rb) (fun old => if old = s.d.sourceNat rd n then src else old) ∧
    does (.atomAdd z ord sc rd ra rb) (fun old => (old + src) % 2 ^ (8 * n)) ∧
    does (.atomAnd z ord sc rd ra rb) (fun old => old &&& src) ∧ does (.atomOr z ord sc rd ra rb) (fun old => old ||| src) ∧
    does (.atomXor z ord sc rd ra rb) (fun old => old ^^^ src) ∧
    does (.atomMax z ord sc rd ra rb) (fun old => if signed old < signed src then src else old) ∧
    does (.atomMin z ord sc rd ra rb) fun old => if signed src < signed old then src else old

/-- R55, R172 to R175: a reduction to device memory is accepted by the slice, behind its cluster's own stores: it joins the partial of its grain,
the copies that the home tracks are invalidated, and those that the cluster holds of another device's grain, nothing is delivered, and no committed
byte changes until a combine, but by those stores. One to the own scratchpad is performed there. -/
def Claims.ReductionsAreAccepted : Prop :=
  ∀ (s : State) (arr : Bool) (ty : Ty) (ord : MemOrder) (sc : MemScope) (ra rb : SReg) (e : Word) (pa o : Nat),
    let n := ty.bits / 8
    let c := s.d.core
    let g := grainBytes e
    let base := pa / g * g
    (releasing ord = true → s.d.holdsAny c.id = false) →
    let inMemory (i : Instr) (op : RedOp) : Prop := s.d.Reaches .store (s.d.rd ra) n e pa → pteDec e = false →
      let r : RedRequest := { pa := pa, va := s.d.rd ra, op := op, ty := ty, arr := arr, value := s.d.rd rb, owner := s.d.owner, kid := c.kid }
      let p : PartialRec := { core := c.id, cluster := some s.d.cluster.val, dev := leafDev e, base := base, request := r }
      Gives (exec i s) fun t => GoesOn s t ∧ t.d.core.s = c.s ∧ SameCoreButUncorr s t ∧ t.d.mem.partials.getLast? = some p ∧
        (∀ x ∈ t.d.mem.copies, x.dev = leafDev e → x.tracked = true → overlap x.base x.size base g = false) ∧
        ((∀ r ∈ s.d.mem.stores, r.cluster ≠ s.d.cluster.val) → t = { s with d := { s.d with
          core := { c with pc := c.pc + 4 }
          mem := { s.d.mem with
            copies := s.d.mem.copies.filter fun x => !(decide (x.dev = leafDev e) && overlap x.base x.size base g
              && (x.tracked || (pteRmt e && decide (x.cluster = s.d.cluster.val) && !x.cell)))
            partials := s.d.mem.partials ++ [p] } } })
    let byte (x : State) (i : Nat) : Byte := x.d.core.pad.get x.d.gen i
    let inPad (i : Instr) (new : Nat → Nat → Nat) : Prop := n = 4 ∨ n = 8 →
      s.d.rd ra = u64 (0x00FFFF000FE00000 + o) → o + n ≤ 262144 → o % n = 0 → c.pad.bad = [] →
      c.status.pl = .supervisor ∨ c.savearea = 0 → releasing ord = false ∨ s.d.Clear →
      let x := new ((List.range n).map fun i => (byte s (o + i)).toNat * 256 ^ i).sum ((s.d.rd rb).toNat % 2 ^ (8 * n))
      Gives (exec i s) fun t => GoesOn s t ∧
        (s.Inv → ∀ i, byte t i = if o ≤ i ∧ i < o + n then BitVec.ofNat 8 (x / 256 ^ (i - o)) else byte s i) ∧
        t = s.withCore { c with pc := t.d.core.pc, pad := t.d.core.pad }
    let signed (x : Nat) : Int := (x : Int).bmod (2 ^ (8 * n))
    let less (x y : Nat) : Bool := if ty = .i32 ∨ ty = .i64 then decide (signed x < signed y) else decide (x < y)
    let does (i : Instr) (op : RedOp) (new : Nat → Nat → Bool → Nat) (fp : Instr) : Prop :=
      inMemory i op ∧ (ty = .i32 ∨ ty = .i64 ∨ ty = .n32 ∨ ty = .n64 → inPad i fun old x => new old x (less x old)) ∧
      (ty = .f32 → op ≠ .and ∧ op ≠ .or ∧ op ≠ .xor → ∃ f, ScalarLike .f32 fp f ∧ inPad i fun old x => (f old x 0).1)
    does (.redAdd arr ty ord sc ra rb) .add (fun old x _ => (old + x) % 2 ^ (8 * n)) (.fadd .f32 .rne 4 1 2) ∧
    does (.redAnd arr ty ord sc ra rb) .and (fun old x _ => old &&& x) .nop ∧
    does (.redOr arr ty ord sc ra rb) .or (fun old x _ => old ||| x) .nop ∧
    does (.redXor arr ty ord sc ra rb) .xor (fun old x _ => old ^^^ x) .nop ∧
    does (.redMin arr ty ord sc ra rb) .min (fun old x below => if below then x else old) (.fmin .f32 4 1 2) ∧
    does (.redMax arr ty ord sc ra rb) .max (fun old x below => if below ∨ x = old then old else x) (.fmax .f32 4 1 2)

/-- R178 to R180: a region whose body passes its checks is one read-modify-write of a 128-byte line at the home: its body runs on the bytes
of the line, only bytes of the line change, and the pc goes past ALRE. An empty body goes past it too, and with an order it acts as a
FENCE of that order and scope. -/
def Claims.RegionsAreAtomic : Prop :=
  ∀ (s : State) (ord : MemOrder) (sc : MemScope) (ra : SReg) (body : List BodyWord) (e : Word) (pa : Nat),
    s.d.regionBody 16 (s.d.core.pc + 4) [] = .ok (body, true) →
    let accs := body.filterMap bodyAccess
    let line := regionLine (s.d.rd ra) accs
    let g := max 128 (grainBytes e)
    (body = [] → ord = .none → exec (.alrb ord sc ra) s = .next (s.withCore { s.d.core with pc := s.d.core.pc + 8 })) ∧
    (body = [] → ord ≠ .none → (releasing ord = true → s.d.holdsAny s.d.core.id = false) →
      ∃ t : State, exec (.fence ord sc) s = .next t ∧
        exec (.alrb ord sc ra) s = .next (t.withCore { t.d.core with pc := s.d.core.pc + 8 })) ∧
    (body ≠ [] → s.d.regionReason ra body = none → s.d.heldOver s.d.core.id line 128 = false →
      s.d.translate s.d.cluster s.d.owner s.d.core.status.pl (if accs.any (·.store) then .store else .load) line = .ok e pa →
      (accs.any (·.store) = true → pteDec e = false) → s.d.badAt none pa 128 = none →
      (releasing ord = true → s.d.holdsAny s.d.core.id = false) →
      Gives (exec (.alrb ord sc ra) s) fun t => ∃ old : List Byte,
        let run := runRegion (s.d.rd ra) line body (s.d, old)
        old.length = 128 ∧ t.d.core.s = run.1.core.s ∧ t.d.core.pc = s.d.core.pc + 4 * u64 (body.length + 2) ∧
        SameCoreButUncorr s t ∧ (s.Inv → t.d.homeRead none pa 128 = run.2) ∧
        (s.Inv → s.d.Settled none (grainBase pa g) g → releasing ord = false ∨ s.d.Clear →
          old = s.d.homeRead none pa 128 ∧ SameCore s t ∧ SameButMemory s t ∧
          ∀ a, a < pa ∨ pa + 128 ≤ a → t.d.mem.hbm.get a = s.d.mem.hbm.get a))

/-- R179, R180: how a body runs on the bytes of its line, word by word: LD delivers the bytes at its offset, those of earlier stores of the
body among them; ST, and ALRSW and ALRSD where the register of their condition is not 0, replace them; an ALU word does what it does
outside a region. -/
def Claims.BodiesRunInOrder : Prop :=
  ∀ (s : State) (base line : Word) (bytes : List Byte), bytes.length = 128 →
    let run (b : List BodyWord) : Dev × List Byte := runRegion base line b (s.d, bytes)
    let place (off : Word) : Nat := (base + off - line).toNat
    (∀ x y, runRegion base line (x ++ y) (s.d, bytes) = runRegion base line y (run x)) ∧
    (∀ k rd ra (off : BitVec 13), let r := run [.instr (.ld k rd ra off)]
      let n := match k with | .bz | .bs => 1 | .hz | .hs => 2 | .wz | .ws => 4 | .d => 8 | .q => 16
      let o := place (BitVec.ofInt 64 off.toInt)
      o + n ≤ 128 → (n = 16 → rd.toNat % 2 = 0) → r.2 = bytes ∧
        LoadedInto s (s.withDev r.1) rd n (decide (k = .bs ∨ k = .hs ∨ k = .ws)) ((List.range n).map fun i =>
          (bytes.getD (o + i) 0).toNat * 256 ^ i).sum ∧ r.1 = { s.d with core := { s.d.core with s := r.1.core.s } }) ∧
    (let puts (b : BodyWord) (rs : SReg) (off : Word) (n : Nat) : Prop := place off + n ≤ 128 → (run [b]).1 = s.d ∧
      (run [b]).2.length = 128 ∧ ∀ i, i < 128 → (run [b]).2.getD i 0 =
        if place off ≤ i ∧ i < place off + n then BitVec.ofNat 8 (s.d.sourceNat rs n / 256 ^ (i - place off)) else bytes.getD i 0
     ∀ (rs ra rc : SReg) (off : BitVec 13) (o4 : BitVec 5) (o8 : BitVec 4),
      puts (.instr (.st .b rs ra off)) rs (BitVec.ofInt 64 off.toInt) 1 ∧ puts (.instr (.st .h rs ra off)) rs (BitVec.ofInt 64 off.toInt) 2 ∧
      puts (.instr (.st .w rs ra off)) rs (BitVec.ofInt 64 off.toInt) 4 ∧ puts (.instr (.st .d rs ra off)) rs (BitVec.ofInt 64 off.toInt) 8 ∧
      puts (.instr (.st .q rs ra off)) rs (BitVec.ofInt 64 off.toInt) 16 ∧
      (s.d.rd rc = 0 → run [.alrsw rs ra o4 rc] = (s.d, bytes) ∧ run [.alrsd rs ra o8 rc] = (s.d, bytes)) ∧
      (s.d.rd rc ≠ 0 → puts (.alrsw rs ra o4 rc) rs (u64 (4 * o4.toNat)) 4 ∧ puts (.alrsd rs ra o8 rc) rs (u64 (8 * o8.toNat)) 8)) ∧
    ∀ i, (regionAlu s.d i).isSome = true → (run [.instr i]).2 = bytes ∧
      Gives (exec i s) fun t => (run [.instr i]).1 = { s.d with core := { s.d.core with s := t.d.core.s } } ∧ SameButScalars s t

/-- Atomics, reductions and single-line atomic regions. -/
def Obligations.AtomicsReductionsAndRegions : Prop :=
  Claims.AtomicResults ∧ Claims.ReductionsAreAccepted ∧ Claims.RegionsAreAtomic ∧ Claims.BodiesRunInOrder

/-- R60, R62, R182: FENCE completes, with the matrix queue retired; when it releases, no store of its cluster to a home of its scope is still on its
way. A fence that does not release, or whose scope is the core or the cluster, changes nothing else. -/
def Claims.FencesOrder : Prop :=
  ∀ (s : State) (ord : MemOrder) (sc : MemScope), (releasing ord = true → s.d.holdsAny s.d.core.id = false) →
    Gives (exec (.fence ord sc) s) fun t =>
      GoesOn s t ∧ t.d.core.s = s.d.core.s ∧ t.d.core.matrix = [] ∧ SameOutside s t ∧
      (∀ r ∈ t.d.mem.stores, ∃ y ∈ s.d.mem.stores, r = { y with phase := r.phase }) ∧
      (releasing ord = true → ∀ r ∈ t.d.mem.stores, r.cluster = s.d.cluster.val →
        (sc = .pod → False) ∧ (sc = .die ∨ sc = .dev → r.dev ≠ none)) ∧
      (s.d.core.matrix = [] → releasing ord = false ∨ sc = .core ∨ sc = .cl → SameButPc s t)

/-- R157, R158, R183: SEAL and UNSEAL of a region whose pages pass their checks complete, after the walks to them (R154); of a length of 0 they
do nothing else. For one page they set and clear SL in every replica
of its entry, change no other byte of memory, take its copies out of the directory or invalidate them, and invalidate the translations
that overlap it. -/
def Claims.SealsPages : Prop :=
  ∀ (s : State) (rl ra : SReg),
    let base := s.d.rd ra
    let len := (s.d.rd rl).toNat
    let o := s.d.owner
    let w := Dev.sealWalks (base.toNat + len) (len / 4096) base.toNat s.d
    let passes (a : Word) (e : Word) : Prop := canonical a = true ∧ (∃ level, w.walk o a = .leaf e level) ∧ pteMig e = false ∧
      (s.d.core.status.pl = .user → pteUsr e = true) ∧ pteW e = true ∧ pteRmt e = false ∧ pteDec e = false
    (base.toNat % 4096 = 0 → len % 4096 = 0 → base.toNat + len ≤ 2 ^ 64 →
      (∀ a : Word, base.toNat ≤ a.toNat → a.toNat < base.toNat + len → ∃ e, passes a e) →
      ∀ i, i = .seal rl ra ∨ i = .unseal rl ra → Gives (exec i s) fun t => GoesOn s t ∧ t.d.core.s = s.d.core.s ∧ SameOutside s t ∧
        (len = 0 → SameButPc s t)) ∧
    ∀ e, base.toNat % 4096 = 0 → len = 4096 → base.toNat + len ≤ 2 ^ 64 → passes base e →
      (∀ k : Fin 32, s.d.clusters[k].owner = o → s.d.clusters[k].hold = []) →
      let entries := w.replicas o base
      let sets (i : Instr) (sl : Nat) (new : Nat → Nat) (copies : List SliceCopy) : Prop := Gives (exec i s) fun t =>
        GoesOn s t ∧ SameOutside s t ∧ (s.Inv → ∀ a ∈ entries, t.d.valueAt none a 8 / 0x400 % 2 = sl) ∧
        (∀ k : Fin 32, t.d.clusters[k].tlb =
          if s.d.clusters[k].owner = o then
            s.d.clusters[k].tlb.filter fun x => !(decide (x.owner = o) && overlap base.toNat 4096 x.va x.size)
          else s.d.clusters[k].tlb) ∧
        (s.Inv → s.d.mem.stores = [] → s.d.mem.partials = [] → SameButPc s (s.withCore t.d.core) ∧
          (∀ a ∈ entries, t.d.valueAt none a 8 = new (s.d.valueAt none a 8)) ∧
          (∀ x, (∀ a ∈ entries, x < a ∨ a + 8 ≤ x) → t.d.mem.hbm.get x = s.d.mem.hbm.get x) ∧
          ((∀ a ∈ entries, ∀ c ∈ s.d.mem.copies, overlap c.base c.size a 8 = false) → t.d.mem.copies = copies))
      let inPage (c : SliceCopy) : Bool := decide (c.dev = none) && overlap c.base c.size (pteAddr e) (pageBytes e)
      sets (.seal rl ra) 1 (fun x => x ||| 0x400) (s.d.mem.copies.map fun c => if inPage c then { c with tracked := false } else c) ∧
      sets (.unseal rl ra) 0 (fun x => x &&& (2 ^ 64 - 1 - 0x400)) (s.d.mem.copies.filter fun c => !(inPage c && decide (c.owner = o)))

/-- R153, R184: XINV and XINVA of the own partition drop the translations of the address, or all, in every cluster of the owner, after which what
the clusters hold is tried again (here they hold nothing); the forms that name an owner need machine level, which no compute core holds. -/
def Claims.TranslationsAreInvalidated : Prop :=
  ∀ (s : State) (ro ra : SReg),
    let o := s.d.owner
    let va := (s.d.rd ra).toNat
    (s.d.core.status.pl = .supervisor →
      let drops (i : Instr) (p : TlbEntry → Bool) : Prop := Gives (exec i s) fun t => GoesOn s t ∧ t.d.core.s = s.d.core.s ∧
        ((∀ k : Fin 32, s.d.clusters[k].owner = o → s.d.clusters[k].hold = []) →
        t.d = { s.d with core := { s.d.core with pc := s.d.core.pc + 4 }, clusters := t.d.clusters } ∧ SameOutside s t ∧
        ∀ k : Fin 32, t.d.clusters[k] =
          if s.d.clusters[k].owner = o then
            { s.d.clusters[k] with tlb := s.d.clusters[k].tlb.filter fun x => !(decide (x.owner = o) && p x) }
          else s.d.clusters[k])
      drops (.xinv 0 ra) (fun x => decide (x.va ≤ va) && decide (va < x.va + x.size)) ∧ drops (.xinva 0) fun _ => true) ∧
    (CanTrap s → ro ≠ 0 → ∀ w,
      (encode (.xinv ro ra) = some w → Gives (exec (.xinv ro ra) s) fun t => EnteredAt s t 0x02 s.d.core.pc (u64 (w.toNat + 2 ^ 33))) ∧
      (encode (.xinva ro) = some w → Gives (exec (.xinva ro) s) fun t => EnteredAt s t 0x02 s.d.core.pc (u64 (w.toNat + 2 ^ 33))))

/-- R64, R142, R144, R154, R184: after the walk that their page takes, RINV drops the copies of a remote grain that its cluster holds, and does
nothing else (of an address in the local range nothing at all: the model's reading, log 11). CPREF fills the grain of a local page into the
slice with its committed bytes, recorded by the directory unless the page is sealed, and displaces other copies only from a full set; it
never faults and never waits. -/
def Claims.CopiesAreManaged : Prop :=
  ∀ (s : State) (ra : SReg) (e : Word) (level : Nat),
    let va := s.d.rd ra
    let k := s.d.cluster
    let pa := leafPa e va
    let g := grainBytes e
    let base := pa / g * g
    let w := s.d.pageWalk k.val va
    let only (t : State) (copies : List SliceCopy) : Prop :=
      t = { s with d := { w with core := { w.core with pc := s.d.core.pc + 4 }, mem := { w.mem with copies := copies } } } ∧ SameCoreButUncorr s t
    (inLocalRange va = true → Gives (exec (.rinv ra) s) fun t => GoesOn s t ∧ SameButPc s t) ∧
    (inLocalRange va = false → canonical va = true → w.leafFor k s.d.owner va = .leaf e level →
      (pteRmt e = true → Gives (exec (.rinv ra) s) fun t => only t (w.mem.copies.filter fun c =>
        !(decide (c.cluster = k.val) && decide (c.dev = some (pteDev e)) && overlap c.base c.size base g))) ∧
      (pteRmt e = false → Gives (exec (.rinv ra) s) fun t => only t w.mem.copies)) ∧
    (Gives (exec (.cpref ra) s) fun t => GoesOn s t ∧ t.d.core.s = s.d.core.s ∧ SameCoreButUncorr s t) ∧
    (let x := w.translateNow k s.d.owner s.d.core.status.pl .load va
     let new : SliceCopy :=
      { cluster := k.val, core := none, code := false, owner := s.d.owner, dev := none, base := base, size := g, gen := s.d.gen
        tracked := !pteSl e, cell := false, bytes := w.homeRead none base g }
     let room : Prop := (((w.mem.copies.filter fun c => decide (c.cluster = k.val) && decide (c.core = none) && !c.code
        && decide (c.base / 512 % Config.sliceSets = base / 512 % Config.sliceSets) && decide ((c.dev, c.base / 512) ≠ (none, base / 512))).map
          fun c => (c.dev, c.base / 512)).eraseDups).length < Config.sliceWays
     (inLocalRange va = false → x = .ok e pa → pteRmt e = false → pteDec e = false → w.Settled none base g →
      Gives (exec (.cpref ra) s) fun t =>
        SameButMemory (s.withDev w) t ∧ t.d.core = { w.core with pc := s.d.core.pc + 4 } ∧ t.d.mem.hbm = w.mem.hbm ∧
        t.d.mem.copies.head? = some new ∧ (∀ c ∈ t.d.mem.copies, c = new ∨ c ∈ w.mem.copies) ∧
        (room → t.d.mem = { w.mem with msc := t.d.mem.msc, stores := t.d.mem.stores, copies := new :: w.mem.copies })) ∧
     (∀ code finfo, x = .fault code finfo → Gives (exec (.cpref ra) s) fun t => GoesOn s t ∧ SameButPc (s.withDev w) t))

/-- R177, R184: after the walk to its page ORPH counts the partition's refused writes to the grain (of 32 bytes on an unmapped page: the model's
choice, log 11); abandoned ones are gone, and each one's launch is marked as one that lost a write. Where the hold queues are empty no write
takes the entries that became free. -/
def Claims.OrphanedWrites : Prop :=
  ∀ (s : State) (abandon : Bool) (rd ra : SReg), s.d.core.status.pl = .supervisor →
    let o := s.d.owner
    let va := (s.d.rd ra).toNat
    let w := s.d.pageWalk s.d.cluster.val (s.d.rd ra)
    let g := match w.leafFor s.d.cluster o (s.d.rd ra) with | .leaf e _ => grainBytes e | .fails _ => 32
    let mine (x : Orphan) : Bool := decide (x.owner = o) && decide (x.va.toNat / g = va / g)
    let ofCluster (k : Fin 32) : Nat := if s.d.clusters[k].owner = o then (s.d.clusters[k].orphans.filter mine).length else 0
    Gives (exec (.orph abandon rd ra) s) fun t =>
      t.d.rd rd = (if rd = 0 then 0 else u64 ((List.finRange 32).map ofCluster).sum) ∧ (∀ r, r ≠ rd → t.d.rd r = s.d.rd r) ∧ GoesOn s t ∧
      (abandon = true → t.d.mem = w.mem ∧
        ((∀ k : Fin 32, s.d.clusters[k].owner = o → s.d.clusters[k].hold = []) → ∀ k : Fin 32, t.d.clusters[k].orphans =
          if s.d.clusters[k].owner = o then s.d.clusters[k].orphans.filter (fun x => !mine x) else s.d.clusters[k].orphans) ∧
        ∀ k : Fin 32, s.d.clusters[k].owner = o → ∀ x ∈ s.d.clusters[k].orphans, mine x = true → ∀ l, x.kid.launch = some l →
          l ∈ (t.d.ownerAt o).lost)

/-- Fences, seals, invalidations, fills and orphaned writes (choices: log 11). -/
def Obligations.MemsysOperations : Prop :=
  Claims.FencesOrder ∧ Claims.SealsPages ∧ Claims.TranslationsAreInvalidated ∧ Claims.CopiesAreManaged ∧ Claims.OrphanedWrites

/-- R239, R246: every VINT, element by element: an element governed on takes the result that the table gives, mod 2^w, and the others
keep their value; no flag is raised. -/
def Obligations.VectorIntegerResults : Prop :=
  ∀ (s : State) (ty : ITy) (pg : PReg) (vd va vb : VReg),
    let w := ityBits ty
    let signed := decide (ty = .i8 ∨ ty = .i16 ∨ ty = .i32 ∨ ty = .i64)
    let lo : Int := if signed then -2 ^ (w - 1) else 0
    let hi : Int := if signed then 2 ^ (w - 1) - 1 else 2 ^ w - 1
    let v (x : Nat) : Int := if signed then (x : Int).bmod (2 ^ w) else x
    let low (z : Int) : Nat := (z % 2 ^ w).toNat
    let writes (i : Instr) (f : Nat → Nat → Nat) : Prop := Gives (exec i s) fun t =>
      WritesLanes s t vd w (fun k => if s.d.on pg w k then f (elem w (s.d.rdV va) k) (elem w (s.d.rdV vb) k) else elem w (s.d.rdV vd) k)
        Flags.none
    writes (.vadd ty pg vd va vb) (fun x y => low (x + y)) ∧ writes (.vsub ty pg vd va vb) (fun x y => low (x - y)) ∧
    writes (.vmul ty pg vd va vb) (fun x y => low (x * y)) ∧ writes (.vmulh ty pg vd va vb) (fun x y => low (v x * v y / 2 ^ w)) ∧
    writes (.vmin ty pg vd va vb) (fun x y => low (min (v x) (v y))) ∧
    writes (.vmax ty pg vd va vb) (fun x y => low (max (v x) (v y))) ∧
    writes (.vand ty pg vd va vb) (fun x y => x &&& y) ∧ writes (.vor ty pg vd va vb) (fun x y => x ||| y) ∧
    writes (.vxor ty pg vd va vb) (fun x y => x ^^^ y) ∧ writes (.vandn ty pg vd va vb) (fun x y => x &&& (2 ^ w - 1 - y)) ∧
    writes (.vsll ty pg vd va vb) (fun x y => low (x * 2 ^ (y % w))) ∧ writes (.vsrl ty pg vd va vb) (fun x y => x / 2 ^ (y % w)) ∧
    writes (.vsra ty pg vd va vb) (fun x y => low ((x : Int).bmod (2 ^ w) / 2 ^ (y % w))) ∧
    writes (.vadds ty pg vd va vb) (fun x y => low (max lo (min hi (v x + v y)))) ∧
    writes (.vsubs ty pg vd va vb) (fun x y => low (max lo (min hi (v x - v y)))) ∧
    writes (.vabsd ty pg vd va vb) (fun x y => (v x - v y).natAbs) ∧
    writes (.vavg ty pg vd va vb) (fun x y => low ((v x + v y + 1) / 2)) ∧
    writes (.vneg ty pg vd va) (fun x _ => low (-x)) ∧ writes (.vabs ty pg vd va) (fun x _ => (v x).natAbs) ∧
    writes (.vpopc ty pg vd va) (fun x _ => ((List.range w).filter fun i => decide (x / 2 ^ i % 2 = 1)).length)

/-- R229, R239, R247, R248: every VFP and VFMA computes each element as the scalar instruction does, rounded by RNE; an element governed
off keeps its value and raises nothing. -/
def Obligations.VectorFpResults : Prop :=
  ∀ (s : State) (f : FFmt) (pg : PReg) (vd va vb vc : VReg),
    let w := fpWidth f
    let a (k : Nat) := elem w (s.d.rdV va) k
    let b (k : Nat) := elem w (s.d.rdV vb) k
    let c (k : Nat) := elem w (s.d.rdV vc) k
    let like (i scalar : Instr) : Prop := ∃ op, ScalarLike f scalar op ∧
      Gives (exec i s) fun t => WritesLanes s t vd w (fun k => if s.d.on pg w k then (op (a k) (b k) (c k)).1 else elem w (s.d.rdV vd) k)
        (anyFlags (lanes w) fun k => if s.d.on pg w k then (op (a k) (b k) (c k)).2 else Flags.none)
    like (.vfadd f pg vd va vb) (.fadd f .rne 4 1 2) ∧ like (.vfsub f pg vd va vb) (.fsub f .rne 4 1 2) ∧
    like (.vfmul f pg vd va vb) (.fmul f .rne 4 1 2) ∧ like (.vfdiv f pg vd va vb) (.fdiv f .rne 4 1 2) ∧
    like (.vfsqrt f pg vd va) (.fsqrt f .rne 4 1) ∧ like (.vfmin f pg vd va vb) (.fmin f 4 1 2) ∧
    like (.vfmax f pg vd va vb) (.fmax f 4 1 2) ∧ like (.vfcopysg f pg vd va vb) (.fcopysg f 4 1 2) ∧
    like (.vfneg f pg vd va) (.fneg f 4 1) ∧ like (.vfabs f pg vd va) (.fabs f 4 1) ∧ like (.vfkind f pg vd va) (.fkind f 4 1) ∧
    like (.vfma f pg vd va vb vc) (.fmadd f .rne 4 1 2 3) ∧ like (.vfms f pg vd va vb vc) (.fmsub f .rne 4 1 2 3)

/-- R239, R249, R250: the permutes. VSQZ writes every element; VTRN exchanges rows and columns of eight registers. -/
def Claims.PermutesMoveElements : Prop :=
  ∀ (s : State) (z : ESize) (pg : PReg) (vd va vb : VReg) (rb : SReg),
    let w := esizeBits z
    let L := lanes w
    let x := elem w (s.d.rdV va)
    let y := elem w (s.d.rdV vb)
    let n := (s.d.rd rb).toNat
    let both (j : Nat) : Nat := if j < L then x j else y (j - L)
    let writes (i : Instr) (f : Nat → Nat) : Prop := Gives (exec i s) fun t =>
      WritesLanes s t vd w (fun k => if s.d.on pg w k then f k else elem w (s.d.rdV vd) k) Flags.none
    writes (.vperm z pg vd va vb) (fun i => x (y i % L)) ∧
    writes (.vlift z pg vd va rb) (fun i => if i < n then 0 else x (i - n)) ∧
    writes (.vdrop z pg vd va rb) (fun i => if i + n < L then x (i + n) else 0) ∧
    writes (.vrev z pg vd va) (fun i => x (L - 1 - i)) ∧
    writes (.vknitl z pg vd va vb) (fun i => if i % 2 = 0 then x (i / 2) else y (i / 2)) ∧
    writes (.vknith z pg vd va vb) (fun i => if i % 2 = 0 then x (i / 2 + L / 2) else y (i / 2 + L / 2)) ∧
    writes (.vsiftev z pg vd va vb) (fun i => both (2 * i)) ∧ writes (.vsiftod z pg vd va vb) (fun i => both (2 * i + 1)) ∧
    -- VSQZ: element k is the k-th active element of va
    Gives (exec (.vsqz z pg vd va) s) (fun t => ∃ g : Nat → Nat, WritesLanes s t vd w g Flags.none ∧
      (∀ i, i < L → s.d.on pg w i → g ((List.range i).filter (s.d.on pg w)).length = x i) ∧
      ∀ k, k < L → ((List.range L).filter (s.d.on pg w)).length ≤ k → g k = 0) ∧
    -- VTRN on vd to vd + 7
    (vd.toNat % 8 = 0 → Gives (exec (.vtrn z vd) s) fun t =>
      (∀ r c g : Nat, r < 8 → c < 8 → g < L / 8 →
        elem w (t.d.rdV (vd + BitVec.ofNat 5 r)) (8 * g + c) = elem w (s.d.rdV (vd + BitVec.ofNat 5 c)) (8 * g + r)) ∧
      (∀ v : VReg, v.toNat / 8 ≠ vd.toNat / 8 → t.d.rdV v = s.d.rdV v) ∧ GoesOn s t ∧ SameButVectors s t)

/-- R256: moves between scalars and vectors, indices, and the width. -/
def Claims.VectorMoves : Prop :=
  ∀ (s : State) (z : ESize) (pg : PReg) (vd va : VReg) (rd ra rb : SReg),
    let w := esizeBits z
    let x := (s.d.rd ra).toNat
    let y := (s.d.rd rb).toNat
    let writes (i : Instr) (w : Nat) (f : Nat → Nat) : Prop := Gives (exec i s) fun t => WritesLanes s t vd w f Flags.none
    writes (.vmov pg vd va) 8 (fun k => if s.d.on pg 8 k then elem 8 (s.d.rdV va) k else elem 8 (s.d.rdV vd) k) ∧
    writes (.vdup z pg vd ra) w (fun k => if s.d.on pg w k then x % 2 ^ w else elem w (s.d.rdV vd) k) ∧
    writes (.vins z vd ra rb) w (fun k => if k = y then x % 2 ^ w else elem w (s.d.rdV vd) k) ∧
    writes (.vidx z pg vd ra rb) w (fun k => if s.d.on pg w k then (x + k * y) % 2 ^ w else elem w (s.d.rdV vd) k) ∧
    Gives (exec (.vextr z rd va rb) s) (fun t => WritesScalar s t rd (u64 (if y < lanes w then elem w (s.d.rdV va) y else 0))) ∧
    Gives (exec (.vwidth rd) s) fun t => WritesScalar s t rd 256

/-- Permutes, transposes, and moves between scalars and vectors. -/
def Obligations.VectorPermutesAndMoves : Prop :=
  Claims.PermutesMoveElements ∧ Claims.VectorMoves

/-- R251: comparisons, bounds and operations of predicates, and the counts that a predicate gives a scalar register. -/
def Claims.PredicateResults : Prop :=
  ∀ (s : State) (ty : Ty) (ity : ITy) (pg pd pa pb : PReg) (va vb : VReg) (rd ra rb : SReg),
    let w := ty.bits
    let a := elem w (s.d.rdV va)
    let b := elem w (s.d.rdV vb)
    let signed := decide (ty = .i8 ∨ ty = .i16 ∨ ty = .i32 ∨ ty = .i64)
    let v (x : Nat) : Int := if signed then (x : Int).bmod (2 ^ w) else x
    let f (x : Nat) : FVal := (tyFmt ty).decode x
    let compares (i : Instr) (p : Nat → Nat → Bool) (nv : Nat → Nat → Bool) : Prop := Gives (exec i s) fun t =>
      ∃ x, WritesPredicate s t pd x
          { Flags.none with nv := (List.range (lanes w)).any fun k => s.d.on pg w k && nv (a k) (b k) } ∧
        ∀ j, j < 256 → x.getLsbD j = (s.d.on pg w (8 * j / w) && p (a (8 * j / w)) (b (8 * j / w)))
    let none' (_ _ : Nat) : Bool := false
    let quiet (x y : Nat) : Bool := decide (f x = .nan true ∨ f y = .nan true)
    let anyNaN (x y : Nat) : Bool := (f x).isNaN || (f y).isNaN
    (ty.isInt = true →
      compares (.vceq ty pg pd va vb) (fun x y => decide (x = y)) none' ∧
      compares (.vcne ty pg pd va vb) (fun x y => decide (x ≠ y)) none' ∧
      compares (.vclt ty pg pd va vb) (fun x y => decide (v x < v y)) none' ∧
      compares (.vcle ty pg pd va vb) (fun x y => decide (v x ≤ v y)) none') ∧
    (ty.isInt = false → ty ≠ .e2m1 →
      compares (.vceq ty pg pd va vb) (fun x y => (f x).equals (f y)) quiet ∧
      compares (.vcne ty pg pd va vb) (fun x y => !(f x).equals (f y)) quiet ∧
      compares (.vclt ty pg pd va vb) (fun x y => (f x).lessThan (f y)) anyNaN ∧
      compares (.vcle ty pg pd va vb) (fun x y => (f x).lessThan (f y) || (f x).equals (f y)) anyNaN) ∧
    (let iw := ityBits ity
     let value (r : SReg) : Int :=
       if ity = .i8 ∨ ity = .i16 ∨ ity = .i32 ∨ ity = .i64 then (s.d.rd r).toInt else (s.d.rd r).toNat
     Gives (exec (.vbound ity pd ra rb) s) fun t => ∃ x, WritesPredicate s t pd x Flags.none ∧
       ∀ j, j < 256 → x.getLsbD j = decide (value ra + ((8 * j / iw : Nat) : Int) < value rb)) ∧
    Gives (exec (.pand pd pa pb) s) (fun t => WritesPredicate s t pd (s.d.rdP pa &&& s.d.rdP pb) Flags.none) ∧
    Gives (exec (.por pd pa pb) s) (fun t => WritesPredicate s t pd (s.d.rdP pa ||| s.d.rdP pb) Flags.none) ∧
    Gives (exec (.pxor pd pa pb) s) (fun t => WritesPredicate s t pd (s.d.rdP pa ^^^ s.d.rdP pb) Flags.none) ∧
    Gives (exec (.pandn pd pa pb) s) (fun t => WritesPredicate s t pd (s.d.rdP pa &&& ~~~ s.d.rdP pb) Flags.none) ∧
    (let set := (List.range (lanes w)).filter (s.d.on pa w)
     Gives (exec (.pcnt ty rd pa) s) (fun t => WritesScalar s t rd (u64 set.length)) ∧
     Gives (exec (.pfirst ty rd pa) s) fun t => WritesScalar s t rd (u64 (set.headD (lanes w))))

/-- R252, R253: reductions through the fixed tree of neighbours, with vb's element 0 combined last, on the left; VRSUM.ARR adds the active
elements in ascending order. Element 0 takes the result and every other element is 0. -/
def Claims.ReductionsOfVectors : Prop :=
  ∀ (s : State) (pg : PReg) (vd va vb : VReg),
    let combines (i : Instr) (w levels : Nat) (op : Nat → Nat → Nat × Flags) (identity : Nat) : Prop := 2 ^ levels = lanes w →
      let root := treeAt op (fun k => if s.d.on pg w k then elem w (s.d.rdV va) k else identity) levels 0
      let out := op (elem w (s.d.rdV vb) 0) root.1
      Gives (exec i s) fun t => WritesLanes s t vd w (fun k => if k = 0 then out.1 else 0) (root.2.or out.2)
    (∀ (ty : Ty) (n : Nat), ty.isInt = true →
      let w := ty.bits
      let signed := decide (ty = .i8 ∨ ty = .i16 ∨ ty = .i32 ∨ ty = .i64)
      let v (x : Nat) : Int := if signed then (x : Int).bmod (2 ^ w) else x
      let exact (f : Nat → Nat → Int) (x y : Nat) : Nat × Flags := ((f x y % 2 ^ w).toNat, Flags.none)
      let largest : Nat := if signed then 2 ^ (w - 1) - 1 else 2 ^ w - 1
      let smallest : Nat := if signed then 2 ^ (w - 1) else 0
      combines (.vrsum ty pg vd va vb) w n (exact fun x y => x + y) 0 ∧
      combines (.vrmin ty pg vd va vb) w n (exact fun x y => min (v x) (v y)) largest ∧
      combines (.vrmax ty pg vd va vb) w n (exact fun x y => max (v x) (v y)) smallest ∧
      combines (.vrand ty pg vd va vb) w n (exact fun x y => ((x &&& y : Nat) : Int)) (2 ^ w - 1) ∧
      combines (.vror ty pg vd va vb) w n (exact fun x y => ((x ||| y : Nat) : Int)) 0 ∧
      combines (.vrxor ty pg vd va vb) w n (exact fun x y => ((x ^^^ y : Nat) : Int)) 0) ∧
    (∀ (ty : Ty) (f : FFmt) (n : Nat), (ty = .f32 ∧ f = .f32 ∨ ty = .f16 ∧ f = .f16 ∨ ty = .bf16 ∧ f = .bf16) →
      let w := fpWidth f
      (∃ op, ScalarLike f (.fadd f .rne 4 1 2) (fun x y _ => op x y) ∧ combines (.vrsum ty pg vd va vb) w n op 0 ∧
        -- VRSUM.ARR
        (let sum := ((List.range (lanes w)).filter (s.d.on pg w)).foldl
           (fun acc k => let o := op acc.1 (elem w (s.d.rdV va) k); (o.1, acc.2.or o.2)) (elem w (s.d.rdV vb) 0, Flags.none)
         Gives (exec (.vrsumArr ty pg vd va vb) s) fun t => WritesLanes s t vd w (fun k => if k = 0 then sum.1 else 0) sum.2)) ∧
      (∃ op, ScalarLike f (.fmin f 4 1 2) (fun x y _ => op x y) ∧ combines (.vrmin ty pg vd va vb) w n op (fpInfinity f)) ∧
      ∃ op, ScalarLike f (.fmax f 4 1 2) (fun x y _ => op x y) ∧
        combines (.vrmax ty pg vd va vb) w n op (fpWithSign f true (fpInfinity f)))

/-- Predicates, bounds and counts, and reductions of vectors. -/
def Obligations.PredicatesAndReductions : Prop :=
  Claims.PredicateResults ∧ Claims.ReductionsOfVectors

/-- R223 to R226, R254, R255: which element of va each element of a VCVT takes, and the conversions between integers, between
floating-point formats, and between the two, with their rounding, saturation and flags. -/
def Claims.VectorConversions : Prop :=
  ∀ (s : State) (dst src : Ty) (rm : Rm) (part : BitVec 3) (pg : PReg) (vd va : VReg), (Instr.vcvt dst src rm part pg vd va).wf = true →
    let wd := dst.bits
    let ws := src.bits
    let c := 2048 / max wd ws
    let p := part.toNat
    -- the source element of destination element k, while k is in the part and governed on
    let source (k : Nat) : Option Nat :=
      if wd < ws then (if p * c ≤ k ∧ k < p * c + c ∧ s.d.on pg ws (k - p * c) then some (k - p * c) else none)
      else if s.d.on pg wd k then some (if ws < wd then p * c + k else k) else none
    ∃ conv : Nat → Nat × Flags,
      Gives (exec (.vcvt dst src rm part pg vd va) s) (fun t =>
        WritesLanes s t vd wd
          (fun k => match source k with | some j => (conv (elem ws (s.d.rdV va) j)).1 | none => elem wd (s.d.rdV vd) k)
          (anyFlags (lanes wd) fun k => match source k with | some j => (conv (elem ws (s.d.rdV va) j)).2 | none => Flags.none)) ∧
      (dst.isInt = true → src.isInt = true → ∀ x : Nat, x < 2 ^ ws →
        let v : Int := if src = .i8 ∨ src = .i16 ∨ src = .i32 ∨ src = .i64 then (x : Int).bmod (2 ^ ws) else x
        let signed := decide (dst = .i8 ∨ dst = .i16 ∨ dst = .i32 ∨ dst = .i64)
        let lo : Int := if signed then -2 ^ (wd - 1) else 0
        let hi : Int := if signed then 2 ^ (wd - 1) - 1 else 2 ^ wd - 1
        conv x = (((if ws < wd then v else max lo (min hi v)) % 2 ^ wd).toNat, Flags.none)) ∧
      (dst.isInt = false → src.isInt = true → ∀ x : Nat, x < 2 ^ ws →
        let v : Int := if src = .i8 ∨ src = .i16 ∨ src = .i32 ∨ src = .i64 then (x : Int).bmod (2 ^ ws) else x
        ∃ e : Exact, 0 < e.den ∧ e.rat = v ∧ (v = 0 → e.neg = false) ∧ conv x = (tyFmt dst).round (modeOf rm) e) ∧
      (dst.isInt = false → src.isInt = false → ∀ x : Nat, x < 2 ^ ws → ConvertsFloat dst src (modeOf rm) x (conv x)) ∧
      (dst.isInt = true → src.isInt = false → ∀ x : Nat, x < 2 ^ ws →
        let mag := x % 2 ^ (ws - 1)
        let signed := decide (dst = .i8 ∨ dst = .i16 ∨ dst = .i32 ∨ dst = .i64)
        let lo : Int := if signed then -2 ^ (wd - 1) else 0
        let hi : Int := if signed then 2 ^ (wd - 1) - 1 else 2 ^ wd - 1
        let code (i : Int) : Nat := (i % 2 ^ wd).toNat
        let invalid : Flags := { Flags.none with nv := true }
        (eltTop src < mag → eltInf src ≠ some mag → conv x = (0, invalid)) ∧
        (eltInf src = some mag → conv x = (code (if 2 ^ (ws - 1) ≤ x then lo else hi), invalid)) ∧
        (mag ≤ eltTop src → ∃ i : Int, RoundsToInt rm (eltValue src x) i ∧
          conv x = (code (max lo (min hi i)),
            if i < lo ∨ hi < i then invalid else { Flags.none with nx := decide ((i : Rat) ≠ eltValue src x) })))

/-- R189, R227, R257 to R259: draws into vectors: every lane is written, and a lane's value depends only on the stream's key and the
lane's index. The stochastic conversions convert every source element in place with the draw of its tensor index. -/
def Claims.VectorDraws : Prop :=
  ∀ (s : State) (vd : VReg) (ds : BitVec 4) (ra : SReg),
    let key := s.d.rdDs ds
    let x := (s.d.rd ra).toNat
    let draw (n : Nat) : Nat := (fount key (BitVec.ofNat 32 n)).toNat
    let writes (i : Instr) (w : Nat) (f : Nat → Nat) : Prop := Gives (exec i s) fun t => WritesLanes s t vd w f Flags.none
    let table (j : Nat) : Nat := gumbelTable.getD j 0
    let converts (i : Instr) (dst src : Ty) (k m : Nat) : Prop := Gives (exec i s) fun t => ∃ r : Nat → Nat × Flags,
      (∀ j, j < lanes src.bits →
        let e := (x + j) % 2 ^ 64
        ConvertsFloat dst src (.sr k (draw (e / m) / 2 ^ (k * (e % m)) % 2 ^ k)) (elem src.bits (s.d.rdV vd) j) (r j)) ∧
      WritesLanes s t vd dst.bits (fun j => if j < lanes src.bits then (r j).1 else 0) (anyFlags (lanes src.bits) fun j => (r j).2)
    writes (.vdraw vd ds ra) 32 (fun i => draw (x + i)) ∧
    writes (.vdrawb vd ds ra) 8 (fun i => let e := (x + i) % 2 ^ 64; draw (e / 4) / 2 ^ (8 * (e % 4)) % 256) ∧
    Gives (exec (.vdrawu vd ds ra) s) (fun t => ∃ f, WritesLanes s t vd 32 f Flags.none ∧
      ∀ i, i < 64 → fpFinite .f32 (f i) ∧ fpNeg .f32 (f i) = false ∧
        fpValue .f32 (f i) = ((draw (x + i) / 2 ^ 8 : Nat) : Rat) / 2 ^ 24) ∧
    -- Gumbel noise: T[j] + (T[j + 1] - T[j]) x f / 2^11, each step rounded
    Gives (exec (.vnoiseG vd ds ra) s) (fun t => ∃ g : Nat → Nat, WritesLanes s t vd 32 g Flags.none ∧
      ∀ i, i < 64 →
        let j := draw (x + i) / 2 ^ 27
        let f : Nat := draw (x + i) / 2 ^ 16 % 2 ^ 11
        ∃ diff step : Nat, diff = (Fmt.f32.fsub .rne (table (j + 1)) (table j)).1 ∧
          (∃ e : Exact, 0 < e.den ∧ e.rat = fpValue .f32 diff * f / 2 ^ 11 ∧ step = (Fmt.f32.round .rne e).1) ∧
          g i = (Fmt.f32.fadd .rne (table j) step).1) ∧
    converts (.vsrcvtBf16F32 vd ds ra) .bf16 .f32 16 2 ∧ converts (.vsrcvtF16F32 vd ds ra) .f16 .f32 16 2 ∧
    converts (.vsrcvtE4m3F32 vd ds ra) .e4m3 .f32 8 4 ∧ converts (.vsrcvtE5m2F32 vd ds ra) .e5m2 .f32 8 4 ∧
    converts (.vsrcvtE2m1F32 vd ds ra) .e2m1 .f32 8 4 ∧ converts (.vsrcvtE4m3F16 vd ds ra) .e4m3 .f16 8 4 ∧
    converts (.vsrcvtE5m2F16 vd ds ra) .e5m2 .f16 8 4 ∧ converts (.vsrcvtE4m3Bf16 vd ds ra) .e4m3 .bf16 8 4

/-- Conversions of vectors, and draws into vectors. -/
def Obligations.VectorConversionsAndDraws : Prop :=
  Claims.VectorConversions ∧ Claims.VectorDraws

/-- R244, R245, R139: vector loads and stores through W0 of the core's own scratchpad, in the four address modes. Active elements are
loaded, the others keep their value; of overlapping stores the higher-numbered element's bytes remain; .fc empties the granules that it
waited for, and a store with .fe fills its own. -/
def Claims.VectorScratchpad : Prop :=
  ∀ (s : State) (z : ESize) (fq : Fe) (adv : Bool) (pg : PReg) (vr : VReg) (ra : SReg) (rb : BitVec 5) (off : Nat → Nat),
    let c := s.d.core
    let w := esizeBits z
    let n := w / 8
    let active (i : Nat) : Prop := i < lanes w ∧ s.d.on pg w i
    let byte (x : State) (o : Nat) : Byte := x.d.core.pad.get x.d.gen o
    let signed (x : Nat) : Int := (x : Int).bmod (2 ^ w)
    let unit (i : Nat) : Word := s.d.rd ra + s.d.rd rb + u64 (i * n)
    let stride (i : Nat) : Word := s.d.rd ra + s.d.rd rb * u64 i
    let index (i : Nat) : Word := s.d.rd ra + s64 (signed (elem w (s.d.rdV rb) i) * n)
    let same (_ : Nat) : Word := s.d.rd ra + s.d.rd rb
    let reaches (addr : Nat → Word) : Prop :=
      (∀ i, active i → addr i = u64 (0x00FFFF000FE00000 + off i) ∧ off i + n ≤ 262144 ∧ off i % n = 0) ∧ c.pad.bad = [] ∧
      (c.status.pl = .supervisor ∨ c.savearea = 0)
    let loads (i : Instr) (addr : Nat → Word) : Prop := reaches addr →
      (fq ≠ .none → ∀ i, active i → c.pad.isFull s.d.gen (off i / 16) = true) →
      Gives (exec i s) fun t =>
        WritesLanes s (t.withCore { t.d.core with pad := c.pad }) vr w
          (fun k => if s.d.on pg w k then ((List.range n).map fun j => (byte s (off k + j)).toNat * 256 ^ j).sum
            else elem w (s.d.rdV vr) k) Flags.none ∧
        t.d.core.pad = { c.pad with full := if fq = .fc then t.d.core.pad.full else c.pad.full } ∧
        (fq = .fc → ∀ g, g ∈ t.d.core.pad.full ↔ g ∈ c.pad.full ∧ ∀ i, active i → g ≠ off i / 16)
    let stores (i : Instr) (addr : Nat → Word) : Prop := reaches addr →
      Gives (exec i s) fun t =>
        let covers (i o : Nat) : Prop := active i ∧ off i ≤ o ∧ o < off i + n
        GoesOn s t ∧ t = s.withCore { c with pc := t.d.core.pc, pad := t.d.core.pad } ∧
        (s.Inv → ∀ o, (∀ i, ¬ covers i o) → byte t o = byte s o) ∧
        (s.Inv → ∀ i o, covers i o → (∀ j, i < j → ¬ covers j o) →
          byte t o = BitVec.ofNat 8 (elem w (s.d.rdV vr) i / 256 ^ (o - off i))) ∧
        ∀ g, t.d.core.pad.isFull t.d.gen g = true ↔
          c.pad.isFull s.d.gen g = true ∨ (fq = .fe ∧ ∃ i, active i ∧ g = off i / 16)
    loads (.vld z fq adv pg vr ra rb) unit ∧ loads (.vlds z fq adv pg vr ra rb) stride ∧ loads (.vldx z fq adv pg vr ra rb) index ∧
    loads (.vldr z fq adv pg vr ra rb) same ∧
    stores (.vst z fq adv pg vr ra rb) unit ∧ stores (.vsts z fq adv pg vr ra rb) stride ∧ stores (.vstx z fq adv pg vr ra rb) index

/-- R141, R145, R244, R245: vector loads and stores of device memory, in the four address modes. Active elements are loaded from the committed
bytes, where only those concern their grains, and the others keep their value; a store hands the bytes of its active elements to the slice in
ascending order. Full/empty codes have no effect there. -/
def Claims.VectorDeviceMemory : Prop :=
  ∀ (s : State) (z : ESize) (fq : Fe) (adv : Bool) (pg : PReg) (vr : VReg) (ra : SReg) (rb : BitVec 5) (e : Nat → Word) (pa : Nat → Nat),
    let w := esizeBits z
    let n := w / 8
    let actives := (List.range (lanes w)).filter fun i => s.d.on pg w i
    let signed (x : Nat) : Int := (x : Int).bmod (2 ^ w)
    let unit (i : Nat) : Word := s.d.rd ra + s.d.rd rb + u64 (i * n)
    let stride (i : Nat) : Word := s.d.rd ra + s.d.rd rb * u64 i
    let index (i : Nat) : Word := s.d.rd ra + s64 (signed (elem w (s.d.rdV rb) i) * n)
    let same (_ : Nat) : Word := s.d.rd ra + s.d.rd rb
    let loads (i : Instr) (addr : Nat → Word) : Prop :=
      (∀ k ∈ actives, s.d.Reaches .load (addr k) n (e k) (pa k) ∧ s.d.badAt (leafDev (e k)) (pa k) n = none ∧ s.d.SettledAt (e k) (pa k)) →
      Gives (exec i s) fun t =>
        (∀ k, k < lanes w → elem w (t.d.rdV vr) k =
          if s.d.on pg w k then s.d.valueAt (leafDev (e k)) (pa k) n else elem w (s.d.rdV vr) k) ∧
        (∀ r, r ≠ vr → t.d.rdV r = s.d.rdV r) ∧ GoesOn s t ∧ t.d.core = { s.d.core with v := t.d.core.v, pc := t.d.core.pc } ∧
        SameButMemory s t ∧ t.d.mem.hbm = s.d.mem.hbm ∧ t.d.mem.pod = s.d.mem.pod
    let stores (i : Instr) (addr : Nat → Word) : Prop :=
      (∀ k ∈ actives, s.d.Reaches .store (addr k) n (e k) (pa k) ∧ pteDec (e k) = false) →
      Gives (exec i s) fun t => t = { s with d := { s.d with
        core := { s.d.core with pc := s.d.core.pc + 4 }
        mem := { s.d.mem with
          stores := s.d.mem.stores ++ actives.mapIdx fun j k =>
            { s.d.sentStore (addr k) (e k) (pa k) (bytesOf n (elem w (s.d.rdV vr) k)) with id := s.d.mem.nextStore + j }
          nextStore := s.d.mem.nextStore + actives.length } } }
    loads (.vld z fq adv pg vr ra rb) unit ∧ loads (.vlds z fq adv pg vr ra rb) stride ∧ loads (.vldx z fq adv pg vr ra rb) index ∧
    loads (.vldr z fq adv pg vr ra rb) same ∧
    stores (.vst z fq adv pg vr ra rb) unit ∧ stores (.vsts z fq adv pg vr ra rb) stride ∧ stores (.vstx z fq adv pg vr ra rb) index

/-- Vector loads and stores of the own scratchpad in the four address modes, and of device memory. -/
def Obligations.VectorMemoryAccesses : Prop :=
  Claims.VectorScratchpad ∧ Claims.VectorDeviceMemory

/-- R260, R261: FRAME captures the words that follow it with the values of their scalar sources, and goes on past them; it stands at
replay 0 and position 0. -/
def Claims.FrameCapturesItsBody : Prop :=
  ∀ (s : State) (sv : BitVec 5) (n1 : BitVec 4) (k1 : BitVec 8) (sp : BitVec 2) (word : Nat → Word32) (ins : Nat → Instr),
    let c := s.d.core
    let n := n1.toNat + 1
    let at' (j : Nat) : Word := c.pc + 4 * u64 (j + 1)
    c.frame = none →
    (∀ j, j < n → s.d.fetchAt c.status.pl (at' j) (at' j) = .ok (word j) ∧ decodeWord (word j) = .ok (.inl (ins j)) ∧
      isVector s.d (ins j) = true) →
    let body : List Captured := (List.range n).map fun j =>
      { instr := ins j, ra := s.d.rd (scalarSources (ins j)).1, rb := s.d.rd (scalarSources (ins j)).2 }
    Gives (exec (.frame sv n1 k1 sp) s) fun t => ∃ f, t = s.withCore { c with pc := at' n, frame := some f } ∧
      f.addr = c.pc ∧ f.count = k1.toNat + 1 ∧ f.sv = sv ∧ f.sp = sp ∧ f.body = body ∧ f.rep = 0 ∧ f.pos = 0

/-- R244, R261, R262: a replay performs the instruction at the FRAME's position with its vector fields moved by r x sv and its predicate
fields by r x sp, p0 staying p0, with its captured scalar sources, an address with ADV and a draw's index moved on by what r replays
cover. The pc stays, and the FRAME moves to the next position, the next replay, or its end. What it traps or waits for, the replay does.
Where software has written FRST, a FRAME at a position past its body ends at once, and one at a replay past its count ends with its body (the
model's choice, log 21). -/
def Claims.FrameReplays : Prop :=
  ∀ (s : State) (f : FrameExec), s.d.core.frame = some f →
    let v (n : VReg) : VReg := n + BitVec.ofNat 5 (f.rep * f.sv.toNat)
    let q (n : PReg) : PReg := if n = 0 then 0 else n + BitVec.ofNat 3 (f.rep * f.sp.toNat)
    let after : Option FrameExec :=
      if f.pos + 1 < f.body.length then some { f with pos := f.pos + 1 }
      else if f.rep + 1 < f.count then some { f with rep := f.rep + 1, pos := 0 } else none
    (f.body.length ≤ f.pos → exec .frameReplay s = .next (s.withCore { s.d.core with frame := none })) ∧
    ∀ (x : Captured) (i : Instr) (u w : State), f.body[f.pos]? = some x → moved v q x.instr = some i →
      -- as if the scalar sources stood in s1 and s2
      u = s.withCore { s.d.core with s := u.d.core.s } → u.d.rd 1 = x.ra + movedBase f.rep x.rb x.instr → u.d.rd 2 = x.rb →
      (isVectorAccess i = false → Gives (exec i u) (GoesOn u) ∧
        Gives (exec .frameReplay s) fun t => t.d.core.pc = s.d.core.pc ∧ t.d.core.frame = after ∧ t.d.core.traps = s.d.core.traps) ∧
      (exec i u = .next w →
        (w.d.core.traps = s.d.core.traps → GoesOn u w → Gives (exec .frameReplay s) fun t =>
          t = w.withCore { w.d.core with s := t.d.core.s, pc := s.d.core.pc, frame := after } ∧
          match scalarWritten i with
          | none => t.d.core.s = s.d.core.s
          | some rd => ScalarIs s t rd (w.d.rd rd)) ∧
        (w.d.core.traps = s.d.core.traps → w.d.core.pc = s.d.core.pc →
          exec .frameReplay s = .next (w.withCore { w.d.core with s := s.d.core.s })) ∧
        (w.d.core.traps ≠ s.d.core.traps → Gives (exec .frameReplay s) fun t =>
          t = w.withCore { w.d.core with s := t.d.core.s, tstack := t.d.core.tstack }))

/-- R96, R241, R242: a step of a core whose vector engine has earlier instructions to complete, with no input and no cause due. A word of major opcode 1
to 15 is performed ahead of them; a vector instruction that writes no scalar register is handed on while the sequencer has room, with the values of
its scalar sources. Any other word, one that is no instruction and one that cannot be fetched wait, and the step performs the next vector
instruction; so does every word behind a FRAME whose body writes a scalar register. Which of the two a step does, and that a vector instruction with
a scalar result waits, are the model's choices (log 7). -/
def Claims.CoresRunAhead : Prop :=
  ∀ s : State, s.inputs = [] → s.d.coreOn = true → s.d.dueMember = none → s.d.core.run = .running → s.d.core.gang = none →
    s.d.core.leaving = false → ¬ s.Quiet →
    let c := s.d.core
    let u := s.withCore { c with stall := 0 }
    let becomes (r : Result State) : Prop := ∃ v owners, r = .next v ∧ step s = .next ((v.withDev { v.d with owners := owners }).pass 1)
    let replays : Prop := becomes (exec .frameReplay (u.settled (.inl .frameReplay)))
    ((∃ f, c.frame = some f ∧ f.saved = none) → replays) ∧
    ((∀ f, c.frame = some f → f.saved.isSome = true) →
      (∀ w i, s.d.fetch = .ok w → decode w = .ok i →
        let mo := w.toNat / 2 ^ 26
        let handed : Prop := isVector s.d i = true ∧ scalarWritten i = none ∧ c.sequencer.length < 16
        (1 ≤ mo ∧ mo ≤ 15 → becomes (exec i (u.settled (.inl i)))) ∧
        (handed → step s = .next (State.pass 1 (s.withCore { c with
          stall := 0, pc := c.pc + 4
          sequencer := c.sequencer ++ [{ addr := c.pc, saved := c.s, body := { instr := i, ra := s.d.rd (scalarSources i).1
                                                                               rb := s.d.rd (scalarSources i).2 } }] }))) ∧
        (mo < 1 ∨ 15 < mo → ¬ handed → replays)) ∧
      (∀ w r, s.d.fetch = .ok w → decode w = .error r → replays) ∧
      (∀ e, s.d.fetch = .error e → replays))

/-- R96, R241, R242: with no FRAME active, the sequencer's oldest instruction is performed as the core itself would perform it, with the values that
its scalar sources had when it was handed on; it then leaves the sequencer, and the pc and the scalar registers stay. Where it waits, it stays; a
trap that it takes is that of the instruction, which names its address. -/
def Claims.VectorsAreHandedOn : Prop :=
  ∀ (s : State) (h : Handed) (rest : List Handed) (i : Instr) (u w : State), s.d.core.frame = none → s.d.core.sequencer = h :: rest →
    moved id id h.body.instr = some i → scalarWritten i = none →
    -- as if the scalar sources stood in s1 and s2
    u = s.withCore { s.d.core with s := u.d.core.s } → u.d.rd 1 = h.body.ra → u.d.rd 2 = h.body.rb →
    (isVectorAccess i = false → Gives (exec .frameReplay s) fun t => t.d.core.pc = s.d.core.pc ∧ t.d.core.sequencer = rest ∧
      t.d.core.traps = s.d.core.traps ∧ t.d.core.s = s.d.core.s) ∧
    (exec i u = .next w →
      (w.d.core.traps = s.d.core.traps → GoesOn u w →
        exec .frameReplay s = .next (w.withCore { w.d.core with s := s.d.core.s, pc := s.d.core.pc, sequencer := rest })) ∧
      (w.d.core.traps = s.d.core.traps → w.d.core.pc = s.d.core.pc →
        exec .frameReplay s = .next (w.withCore { w.d.core with s := s.d.core.s })) ∧
      (w.d.core.traps ≠ s.d.core.traps → s.d.core.status.cons = true → exec .frameReplay s = .next w ∧ w.d.core.epc = h.addr))

/-- FRAME captures its body and replays it with moved fields, and vector instructions are handed on behind it (choices: log 7, 21). -/
def Obligations.FramesCaptureAndReplay : Prop :=
  Claims.FrameCapturesItsBody ∧ Claims.FrameReplays ∧ Claims.CoresRunAhead ∧ Claims.VectorsAreHandedOn

/-- R282, R285, R290 to R292: MMA, MZERO, MLDA, MSTO and MROW enter the matrix queue with their operands as they are at issue, and the core
goes on. While the queue is full they wait, in which one entry is performed, the oldest in the model (R340; log 7, log 22). -/
def Claims.MatrixEntriesAreQueued : Prop :=
  ∀ (s : State) (acc : BitVec 2) (dA dB : BitVec 4) (sk so ra : SReg) (pm1 : BitVec 4) (rnd z fe : Bool) (vd : VReg),
    let c := s.d.core
    let o := (s.d.rd ra).toNat % 2 ^ 18
    let queues (i : Instr) (op : MatrixOp) : Prop := Gives (exec i s) fun t =>
      (c.matrix.length < Config.matrixDepth →
        t = s.withCore { c with pc := c.pc + 4, matrix := c.matrix ++ [{ set := acc, op := op }] }) ∧
      (Config.matrixDepth ≤ c.matrix.length → t.d.core.stall = 7 ∧ t.d.core.pc = c.pc ∧ t.d.core.s = c.s ∧ SameOutside s t ∧
        t.d.core.matrix = c.matrix.tail)
    queues (.mzero acc) .zero ∧ queues (.mrow vd acc ra) (.row vd ((s.d.rd ra).toNat % 32)) ∧
    ((c.status.pl = .supervisor ∨ c.savearea = 0) →
    queues (.mma acc dA dB sk so pm1 rnd z) (.mma dA dB (s.d.rd sk) (s.d.rd so) pm1 rnd z (s.d.rdD dA) (s.d.rdD dB)) ∧
    (o % 64 = 0 → queues (.mlda acc ra) (.load (u64 o)) ∧ queues (.msto fe acc ra) (.store fe (u64 o))))

/-- R274 to R276: an MMA of one K-block, with every magnitude plane of A: each element of the working bank becomes the sum of its old
value, or of zero when z = 1, and the exact products of the 32 elements, rounded once by RNE; a special block contributes zero and flags
its row or column. -/
def Claims.MatrixProducts : Prop :=
  ∀ (s : State) (acc : BitVec 2) (dA dB : BitVec 4) (sk so : Word) (pm1 : BitVec 4) (rnd z : Bool) (wA wB : Word)
    (rest : List MatrixEntry),
    let c := s.d.core
    let g := s.d.gen
    let tA := PlaneDesc.ofWord wA
    let tB := PlaneDesc.ofWord wB
    let a0 := so.toNat % 2 ^ 12
    let b0 := so.toNat / 2 ^ 16 % 2 ^ 12
    let set := s.d.accAt acc
    c.matrix = { set := acc, op := .mma dA dB sk so pm1 rnd z wA wB } :: rest → c.halt = none → c.pad.bad = [] → set.poison = none →
    sk.toNat % 2 ^ 12 = 1 → tA.depth ≤ pm1.toNat + 1 → descOk wA = true → descOk wB = true →
    -- the value of element x of a line, and whether it counts
    let block (t : PlaneDesc) (k : Nat) : Nat := 32 * k / t.size
    let value (t : PlaneDesc) (m x : Nat) : Rat :=
      match (blockValues c.pad g t m (x / t.size)).getD (x % t.size) (.nan false) with | .fin e => e.rat | .inf _ => 0 | .nan _ => 0
    let special (t : PlaneDesc) (m k : Nat) : Bool := decide (t.kb ≤ k) || blockSpecial c.pad g t m (block t k)
    let old (i : Fin 512) : Word32 := if z then 0 else set.working.at g i
    Gives (exec (.matrixQueueEntry c.id false none) s) fun t =>
      let new := t.d.accAt acc
      t.d.core.matrix = rest ∧ t.d.core.pc = c.pc ∧ t.d.core.pad = c.pad ∧ t.d.core.s = c.s ∧ t.d.core.v = c.v ∧
      (∀ m, m ≠ acc → t.d.accAt m = s.d.accAt m) ∧ new.visible = set.visible ∧ new.poison = none ∧
      (∀ m, m < 32 → new.rowNaN.getLsbD m = ((!z && set.rowNaN.getLsbD m) || special tA m a0)) ∧
      (∀ n, n < 16 → new.colNaN.getLsbD n = ((!z && set.colNaN.getLsbD n) || special tB n b0)) ∧
      ∀ i : Fin 512,
        let m := i.val / 16
        let n := i.val % 16
        let sum : Rat := if special tA m a0 || special tB n b0 then 0 else
          ((List.range 32).map fun j => value tA m (32 * a0 + j) * value tB n (32 * b0 + j)).sum
        match Fmt.f32.decode (old i).toNat with
        | .fin x => ∃ e : Exact, 0 < e.den ∧ e.rat = x.rat + sum ∧ new.working.at g i = BitVec.ofNat 32 (Fmt.f32.round .rne e).1
        | .inf _ => new.working.at g i = old i
        | .nan _ => new.working.at g i = 0x7FC00000

/-- Matrix entries are queued with their operands, and an MMA adds its exact products (choices: log 7, 22). -/
def Obligations.MatrixQueueAndProducts : Prop :=
  Claims.MatrixEntriesAreQueued ∧ Claims.MatrixProducts

/-- R278, R279, R290, R340: MSWAP and MWAIT wait while the queue holds an MCTL entry, or an MMA into the set, with the entries before it; one entry is
performed in a step of the wait (log 7). With none, and the set not poisoned, MSWAP exchanges the banks and drains the working one, an element of a
flagged row or column as the canonical NaN, and MWAIT only goes on. -/
def Claims.BanksSwap : Prop :=
  ∀ (s : State) (n : BitVec 2),
    let awaited (e : MatrixEntry) : Prop := e.isMctl = true ∨ e.set = n
    ((∃ e ∈ s.d.core.matrix, awaited e) → ∀ i, i = .mwait n ∨ i = .mswap n → Gives (exec i s) fun u =>
      SameOutside s u ∧ u.d.core.stall = 8 ∧ u.d.core.pc = s.d.core.pc ∧ u.d.core.s = s.d.core.s ∧
      ∃ e ∈ s.d.core.matrix, u.d.core.matrix = s.d.core.matrix.erase e) ∧
    ((∀ e ∈ s.d.core.matrix, ¬ awaited e) → (s.d.accAt n).poison = none →
    let a := s.d.accAt n
    let g := s.d.gen
    Gives (exec (.mwait n) s) (fun t => GoesOn s t ∧ SameButPc s t) ∧
    Gives (exec (.mswap n) s) fun t =>
      let b := t.d.accAt n
      (∀ i : Fin 512, b.working.at g i = a.visible.at g i ∧
        b.visible.at g i = if a.rowNaN.getLsbD (i.val / 16) || a.colNaN.getLsbD (i.val % 16) then 0x7FC00000 else a.working.at g i) ∧
      b.rowNaN = 0 ∧ b.colNaN = 0 ∧ b.poison = none ∧ (∀ m, m ≠ n → t.d.accAt m = s.d.accAt m) ∧ GoesOn s t ∧
      t = s.withCore { s.d.core with pc := t.d.core.pc, acc := t.d.core.acc })

/-- R95, R280: MWAIT and MSWAP of a poisoned set take MATRIX, deferred: FADDR is the failed block's, FINFO names the set, the descriptor
and the block; the set reads as NaNs and is no longer poisoned. -/
def Claims.PoisonedSetsReport : Prop :=
  ∀ (s : State) (n : BitVec 2) (p : Poison), CanTrap s → (∀ e ∈ s.d.core.matrix, e.isMctl = false ∧ e.set ≠ n) →
    (s.d.accAt n).poison = some p →
    let traps (i : Instr) : Prop := Gives (exec i s) fun t =>
      Entered (s.withCore { s.d.core with acc := t.d.core.acc }) t 0x0A s.d.core.pc p.faddr
        (u64 (n.toNat + 16 * p.desc.toNat + 65536 * p.block)) false true ∧
      (t.d.accAt n).poison = none ∧ (∀ i, (t.d.accAt n).working.at s.d.gen i = 0x7FC00000) ∧
      ∀ m, m ≠ n → t.d.accAt m = s.d.accAt m
    traps (.mwait n) ∧ traps (.mswap n)

/-- R290, R291: the MCTL entry at the head of the queue: MZERO clears the visible bank, MLDA loads it from the scratchpad, MSTO stores it
there; the 2 KiB go round at the scratchpad's end. -/
def Claims.BanksMove : Prop :=
  ∀ (s : State) (n : BitVec 2) (a : Word) (fe : Bool) (rest : List MatrixEntry), s.d.core.halt = none → a.toNat % 64 = 0 → a.toNat < 262144 →
    let c := s.d.core
    let g := s.d.gen
    let o (i : Nat) : Nat := (a.toNat + 4 * i) % 262144
    let word (x : State) (o : Nat) : Nat := ((List.range 4).map fun j => (x.d.core.pad.get g (o + j)).toNat * 256 ^ j).sum
    let performs (op : MatrixOp) (p : State → Prop) : Prop := c.matrix = { set := n, op := op } :: rest →
      Gives (exec (.matrixQueueEntry c.id true none) s) fun t =>
        p t ∧ t = s.withCore { c with matrix := rest, acc := t.d.core.acc, pad := t.d.core.pad }
    performs .zero (fun t => (∀ i, (t.d.accAt n).visible.at g i = 0) ∧ t.d.core.pad = c.pad) ∧
    performs (.load a) (fun t => (∀ i : Fin 512, ((t.d.accAt n).visible.at g i).toNat = word s (o i.val)) ∧ t.d.core.pad = c.pad) ∧
    performs (.store fe a) fun t => t.d.core.acc = c.acc ∧ (s.Inv → ∀ i : Fin 512, word t (o i.val) = ((s.d.accAt n).visible.at g i).toNat) ∧
      (s.Inv → ∀ x, x < 262144 → (∀ i : Fin 512, x < o i.val ∨ o i.val + 4 ≤ x) → t.d.core.pad.get g x = c.pad.get g x) ∧
      ∀ gr, gr < 16384 → (t.d.core.pad.isFull g gr = true ↔
        c.pad.isFull g gr = true ∨ (fe = true ∧ ∃ i : Fin 512, gr = o i.val / 16))

/-- R282, R292: MROW, an entry of the queue, delivers four rows of the visible bank from row S[ra] mod 32, row after row, going round at the
last one. -/
def Claims.RowsAreRead : Prop :=
  ∀ (s : State) (vd : VReg) (n : BitVec 2) (m0 : Nat) (rest : List MatrixEntry), s.d.core.halt = none →
    s.d.core.matrix = { set := n, op := .row vd m0 } :: rest →
    Gives (exec (.matrixQueueEntry s.d.core.id true none) s) fun t =>
      (∀ i, i < 64 → elem 32 (t.d.rdV vd) i =
        ((s.d.accAt n).visible.at s.d.gen (Fin.ofNat 512 (16 * ((m0 + i / 16) % 32) + i % 16))).toNat) ∧
      (∀ r, r ≠ vd → t.d.rdV r = s.d.rdV r) ∧ t = s.withCore { s.d.core with matrix := rest, v := t.d.core.v }

/-- R264, R265, R293: PDESC loads and PDSET moves a valid value into a descriptor, PDRD reads one; an invalid value raises PROT, with FADDR the
address that PDESC read and 0 for PDSET, and installs nothing. -/
def Claims.DescriptorsAreSet : Prop :=
  ∀ (s : State) (n : BitVec 4) (rd ra : SReg) (off : BitVec 10) (e : Word) (pa : Nat),
    let sets (i : Instr) (x : Word) : Prop := Gives (exec i s) fun t =>
      t.d.rdD n = x ∧ (∀ m, m ≠ n → t.d.rdD m = s.d.rdD m) ∧ GoesOn s t ∧ SameButMemory s t ∧ t.d.mem.hbm = s.d.mem.hbm ∧
      t.d.core = { s.d.core with desc := t.d.core.desc, pc := t.d.core.pc }
    Gives (exec (.pdrd rd n) s) (fun t => WritesScalar s t rd (s.d.rdD n)) ∧
    (descOk (s.d.rd ra) = true → sets (.pdset n ra) (s.d.rd ra)) ∧
    (descOk (s.d.rd ra) = false → CanTrap s → Gives (exec (.pdset n ra) s) fun t => EnteredAt s t 0x05 0 2) ∧
    (let va : Word := s.d.rd ra + s64 (8 * off.toInt)
     let x := u64 (s.d.valueAt (leafDev e) pa 8)
     s.d.Reaches .load va 8 e pa → s.d.SettledAt e pa →
      (descOk x = true → sets (.pdesc n ra off) x) ∧
      (descOk x = false → CanTrap s → Gives (exec (.pdesc n ra off) s) fun t => EnteredAt s t 0x05 va 2)) ∧
    -- from the own scratchpad
    (∀ o, s.d.rd ra + s64 (8 * off.toInt) = u64 (0x00FFFF000FE00000 + o) → o + 8 ≤ 262144 → o % 8 = 0 → s.d.core.pad.bad = [] →
      (s.d.core.status.pl = .supervisor ∨ s.d.core.savearea = 0) →
      let x := u64 ((List.range 8).map fun i => (s.d.core.pad.get s.d.gen (o + i)).toNat * 256 ^ i).sum
      (descOk x = true → sets (.pdesc n ra off) x) ∧
      (descOk x = false → CanTrap s → Gives (exec (.pdesc n ra off) s) fun t =>
        EnteredAt s t 0x05 (s.d.rd ra + s64 (8 * off.toInt)) 2))

/-- R266, R294: PSCALE writes one scale byte, and PGSCALE one group scale of a QN4 region, at the place that the descriptor gives its
index; no other byte of the scratchpad changes. Without such a region, or past its end, each raises PROT, as a store (the mark of a store
in FINFO is log 11). -/
def Claims.ScalesAreWritten : Prop :=
  ∀ (s : State) (n : BitVec 4) (ra rb : SReg),
    let c := s.d.core
    let t := PlaneDesc.ofWord (s.d.rdD n)
    let x := (s.d.rd rb).toNat
    let v := (s.d.rd ra).toNat
    (c.status.pl = .supervisor ∨ c.savearea = 0) → c.pad.bad = [] →
    let writes (i : Instr) (o bytes : Nat) : Prop := Gives (exec i s) fun u =>
      (s.Inv → ∀ k, u.d.core.pad.get s.d.gen k = if o ≤ k ∧ k < o + bytes then BitVec.ofNat 8 (v / 256 ^ (k - o)) else c.pad.get s.d.gen k) ∧
      GoesOn s u ∧ u = s.withCore { c with pc := u.d.core.pc, pad := u.d.core.pad }
    (t.kind ≠ 0 → x < 32 * t.nblk → writes (.pscale n ra rb) (t.sbase + x) 1) ∧
    (t.kind = 6 → x < (32 * t.nblk + 255) / 256 → writes (.pgscale n ra rb) (t.sbase + 32 * t.nblk + 4 * x) 4) ∧
    (CanTrap s → (t.kind = 0 → Gives (exec (.pscale n ra rb) s) fun u => EnteredAt s u 0x05 0 0x12) ∧
      (t.kind ≠ 0 → 32 * t.nblk ≤ x → Gives (exec (.pscale n ra rb) s) fun u => EnteredAt s u 0x05 (u64 (0x00FFFF000FE00000 + t.sbase + x)) 0x12) ∧
      (t.kind ≠ 6 → Gives (exec (.pgscale n ra rb) s) fun u => EnteredAt s u 0x05 0 0x12) ∧
      (t.kind = 6 → (32 * t.nblk + 255) / 256 ≤ x → Gives (exec (.pgscale n ra rb) s) fun u =>
        EnteredAt s u 0x05 (u64 (0x00FFFF000FE00000 + t.sbase + 32 * t.nblk + 4 * x)) 0x12))

/-- Banks, poison, rows, plane descriptors and block scales. -/
def Obligations.BanksPlanesAndScales : Prop :=
  Claims.BanksSwap ∧ Claims.PoisonedSetsReport ∧ Claims.BanksMove ∧ Claims.RowsAreRead ∧ Claims.DescriptorsAreSet ∧ Claims.ScalesAreWritten

/-- R299, R306, R310 to R312: QPUSH hands a command to a port that has room, after its release; QPOP and QTRY take the oldest completion
element, QPOP raising ENGINE for one whose code is not OK; QSTAT counts the port; QABORT ends the commands that have not started with ABORTED.
QSTAT, the depth that QPUSH meets and QABORT speak of the commands of the task that runs, where R312 says those of the port (the model's
reading, log 24). -/
def Claims.PortInstructions : Prop :=
  ∀ (s : State) (port : BitVec 2) (rd ra : SReg), rd.toNat % 2 = 0 →
    let c := s.d.core
    let q := c.port[port.toFin]
    let context := c.task.map (·.piece)
    let own := q.commands.filter fun x => decide (x.task = context)
    let only (t : State) (p : Port) : Prop := t.d.core.port = c.port.set port.toFin p
    let pair (t : State) (lo hi : Word) : Prop :=
      t.d.rd rd = (if rd = 0 then 0 else lo) ∧ t.d.rd (rd + 1) = hi ∧ ∀ r, r ≠ rd → r ≠ rd + 1 → t.d.rd r = s.d.rd r
    -- slots that commands in work have reserved
    let reserved (n : Fin 4) : Nat := ((List.finRange 4).filter fun p => match c.port[p].commands.head? with
      | some y => y.started && !y.nc && decide (y.cq = n) && decide (y.task = context)
      | none => false).length
    (own.length < 16 → s.d.holdsAny c.id = false → Gives (exec (.qpush port rd ra) s) fun t => ∃ x : Command,
      only t { q with commands := q.commands ++ [x] } ∧ x.level = c.status.pl ∧ x.task = context ∧ x.kid = c.kid ∧
      x.dw 0 = s.d.rd rd ∧ x.dw 1 = s.d.rd (rd + 1) ∧ x.dw 2 = s.d.rd ra ∧ x.dw 3 = s.d.rd (ra + 1) ∧
      x.started = false ∧ x.rowsDone = 0 ∧ x.result = none ∧ GoesOn s t ∧ t.d.core.s = c.s ∧
      (s.d.Clear → t = s.withCore { c with pc := t.d.core.pc, port := t.d.core.port })) ∧
    (∀ x rest, q.done = x :: rest →
      let takes (t : State) : Prop := only t { q with done := rest } ∧ pair t x.lo x.hi ∧ GoesOn s t ∧
        t = s.withCore { c with pc := t.d.core.pc, s := t.d.core.s, port := t.d.core.port }
      Gives (exec (.qtry port rd) s) takes ∧ (x.hi.toNat % 256 = 0 → Gives (exec (.qpop port rd) s) takes) ∧
      (x.hi.toNat % 256 ≠ 0 → CanTrap s → Gives (exec (.qpop port rd) s) fun t => only t { q with done := rest } ∧
        Entered (s.withCore { c with port := t.d.core.port }) t 0x0B c.pc x.lo x.hi false true)) ∧
    (q.done = [] → Gives (exec (.qtry port rd) s) fun t => pair t 0 0xFF ∧ GoesOn s t ∧ SameButScalars s t) ∧
    (own.length < 256 → q.done.length < 256 → Gives (exec (.qstat port rd) s) fun t =>
      WritesScalar s t rd (u64 (own.length + 2 ^ 8 * q.done.length + 2 ^ 16 * 16 + 2 ^ 24 * 16))) ∧
    (q.done = [] → (∀ p : Fin 4, c.port[p].commands = []) → exec (.qpop port rd) s = .next (s.withCore { c with stall := 0x9 })) ∧
    (let fresh := own.filter fun x => !x.started
     c.status.pl = .supervisor → c.yielded = [] → (∀ n : Fin 4, c.port[n].done.length + reserved n + fresh.length ≤ 16) →
      Gives (exec (.qabort port) s) fun t => GoesOn s t ∧ t = s.withCore { c with pc := t.d.core.pc, port := t.d.core.port } ∧
        ∀ n : Fin 4, t.d.core.port[n] =
          { commands := if n = port.toFin then q.commands.filter (fun x => !(decide (x.task = context) && !x.started)) else c.port[n].commands
            done := c.port[n].done ++ (fresh.filter fun x => decide (x.cq = n)).map fun x =>
              elementOf (x.dw 2) 0 x.tag.toNat port.toNat 0x0B })

/-- R301 to R306: COPY and FILL between places of the core's own scratchpad, and MCAST to a rectangle of its cluster, all in W0: every row
takes its bytes, the granules written become full, and the command leaves its port with a completion element that counts the rows. Here
the rows of the destination do not overlap, and lie above those of the source. -/
def Claims.CommandsMoveBytes : Prop :=
  ∀ (s : State) (port : BitVec 2) (c : Command) (rest : List Command) (src dst : Nat),
    let x := s.d.core
    let g := s.d.gen
    let len := c.len
    let rows := c.rows
    let own (o : Nat) : Word := u64 (0x00FFFF000FE00000 + o)
    x.port[port.toFin].commands = c :: rest → c.started = false → c.rowsDone = 0 → c.low = [] → c.result = none → x.halt = none →
    s.Inv → c.task = x.task.map (·.piece) → (∀ p : Fin 4, p ≠ port.toFin → ∀ y ∈ x.port[p].commands.head?, y.started = false) →
    c.malformed = false → c.misaligned = false → 0 < len →
    dst + (rows - 1) * c.dstr + len ≤ 262144 → (rows = 1 ∨ len ≤ c.dstr) → (c.level = .supervisor ∨ x.savearea = 0) → x.pad.bad = [] →
    x.yielded = [] → c.nc = false → x.port[c.cq].done.length < 16 →
    let fills (t : State) (n : Nat) (byte : Nat → Nat → Byte) : Prop :=
      s.Inv → ∀ r i, r < rows → i < len → (t.d.coreAt n).pad.get g (dst + r * c.dstr + i) = byte r i ∧
        (t.d.coreAt n).pad.isFull g ((dst + r * c.dstr + i) / 16) = true
    let keeps (t : State) (n : Nat) : Prop := s.Inv →
      ∀ o, (∀ r, r < rows → o < dst + r * c.dstr ∨ dst + r * c.dstr + len ≤ o) → (t.d.coreAt n).pad.get g o = (s.d.coreAt n).pad.get g o
    let ends (t : State) : Prop := t.d.core.pc = x.pc ∧ t.d.core.s = x.s ∧ t.d.core.v = x.v ∧ (s.d.Clear → t.d.mem = s.d.mem) ∧
      t.d.core.port[port.toFin].commands = rest ∧
      t.d.core.port[c.cq].done = x.port[c.cq].done ++ [elementOf (c.dw 2) rows c.tag.toNat port.toNat 0]
    let from' (r i : Nat) : Byte := x.pad.get g (src + r * c.sstr + i)
    let below : Prop := src + (rows - 1) * c.sstr + len ≤ dst
    (c.kind = 0 → c.dw 1 = own src → c.dw 2 = own dst → below → Gives (exec (.copy x.id port none) s) fun t =>
      fills t x.id from' ∧ keeps t x.id ∧ ends t) ∧
    (c.kind = 2 → c.dw 2 = own dst → Gives (exec (.fill x.id port) s) fun t =>
      fills t x.id (fun _ i => BitVec.ofNat 8 ((c.dw 1).toNat / 256 ^ (i % 8))) ∧ keeps t x.id ∧ ends t) ∧
    (c.kind = 1 → c.dw 1 = own src → (c.dw 2).toNat % 2 ^ 21 = dst → below →
      let row0 := (c.dw 2).toNat / 2 ^ 21 % 8
      let col0 := (c.dw 2).toNat / 2 ^ 27 % 16
      let inside (n : Nat) : Prop := row0 ≤ n / 12 ∧ n / 12 ≤ row0 + (c.dw 2).toNat / 2 ^ 24 % 8 ∧
        col0 ≤ n % 12 ∧ n % 12 ≤ col0 + (c.dw 2).toNat / 2 ^ 31 % 16
      (∀ n, n < 96 → (s.d.coreAt (x.id / 128 * 128 + n)).savearea = 0) →
      Gives (exec (.mcast x.id port none) s) fun t =>
        (∀ n, n < 96 → inside n → fills t (x.id / 128 * 128 + n) from' ∧ keeps t (x.id / 128 * 128 + n)) ∧
        (∀ n, (∀ j, j < 96 → inside j → n ≠ x.id / 128 * 128 + j) → (t.d.coreAt n).pad = (s.d.coreAt n).pad) ∧ ends t)

/-- R164, R304, R305: COPY of 16 bytes from device memory to the own scratchpad delivers the committed bytes, where only they concern the
grain, and makes the granule full; COPY from the scratchpad to a local page hands the bytes to the slice as a store of the command. -/
def Claims.CommandsReachMemory : Prop :=
  ∀ (s : State) (port : BitVec 2) (c : Command) (rest : List Command) (o : Nat) (e : Word) (pa : Nat),
    let x := s.d.core
    let g := s.d.gen
    let own : Word := u64 (0x00FFFF000FE00000 + o)
    let maps (va : Word) (kind : AccessKind) : Prop := va.toNat < 2 ^ 60 ∧ inLocalRange va = false ∧ remoteRefuses e = false ∧
      s.d.translate s.d.cluster s.d.owner c.level kind va = .ok e pa
    x.port[port.toFin].commands = c :: rest → c.started = false → c.rowsDone = 0 → c.low = [] → c.result = none → x.halt = none → x.yielded = [] →
    c.task = x.task.map (·.piece) →
    (∀ p : Fin 4, p ≠ port.toFin → ∀ y ∈ x.port[p].commands.head?, y.started = false) → x.port[c.cq].done.length < 16 →
    c.malformed = false → c.misaligned = false → c.kind = 0 → c.len = 16 → c.rows = 1 → c.nc = false →
    o + 16 ≤ 262144 → (c.level = .supervisor ∨ x.savearea = 0) → x.pad.bad = [] →
    let ends (t : State) : Prop := t.d.core.pc = x.pc ∧ t.d.core.s = x.s ∧ t.d.core.port[port.toFin].commands = rest ∧
      t.d.core.port[c.cq].done = x.port[c.cq].done ++ [elementOf (c.dw 2) 1 c.tag.toNat port.toNat 0]
    (c.dw 2 = own → maps (c.dw 1) .load → s.d.SettledAt e pa → Gives (exec (.copy x.id port none) s) fun t =>
      ends t ∧ t.d.core.pad.isFull g (o / 16) = true ∧
      (s.Inv → ∀ i, t.d.core.pad.get g i = if o ≤ i ∧ i < o + 16 then s.d.byteAt (leafDev e) (pa + (i - o)) else x.pad.get g i)) ∧
    ((∀ r ∈ s.d.mem.stores, r.cluster = s.d.cluster.val → r.dev = none) → c.dw 1 = own → maps (c.dw 2) .store → pteDec e = false →
      pteRmt e = false → wideScope c.scope = false →
      Gives (exec (.copy x.id port none) s) fun t => ends t ∧ t.d.core.pad = x.pad ∧ t.d.mem = { s.d.mem with
        stores := s.d.mem.stores ++ [{ s.d.sentStore (c.dw 2) e pa ((List.range 16).map fun i => x.pad.get g (o + i)) with
          level := c.level, kid := c.kid }]
        nextStore := s.d.mem.nextStore + 1 })

/-- R303, R306: a command that is malformed or misaligned moves nothing and ends with BADCMD or MISALIGNED, whatever its NC bit. -/
def Claims.BadCommandsEnd : Prop :=
  ∀ (s : State) (port : BitVec 2) (c : Command) (rest : List Command),
    let x := s.d.core
    x.port[port.toFin].commands = c :: rest → c.started = false → c.rowsDone = 0 → c.result = none → x.halt = none → x.yielded = [] →
    c.task = x.task.map (·.piece) →
    (∀ p : Fin 4, p ≠ port.toFin → ∀ y ∈ x.port[p].commands.head?, y.started = false) → x.port[c.cq].done.length < 16 →
    (c.malformed = true ∨ c.misaligned = true) →
    let ends (i : Instr) : Prop := Gives (exec i s) fun t =>
      t.d.core.port[port.toFin].commands = rest ∧
      t.d.core.port[c.cq].done =
        x.port[c.cq].done ++ [elementOf (c.dw 2) 0 c.tag.toNat port.toNat (if c.malformed then 1 else 2)] ∧
      t = s.withCore { x with port := t.d.core.port }
    ((c.kind = 0 ∨ 2 < c.kind) → ends (.copy x.id port none)) ∧ (c.kind = 1 → ends (.mcast x.id port none)) ∧
    (c.kind = 2 → ends (.fill x.id port))

/-- The instructions of the copy ports, and what their commands move (choices: log 24). -/
def Obligations.CopyEngineCommands : Prop :=
  Claims.PortInstructions ∧ Claims.CommandsMoveBytes ∧ Claims.CommandsReachMemory ∧ Claims.BadCommandsEnd

/-- R320, R326: BARV arrives at a barrier in use after its release and delivers the phase in which the arrival counts; BARW delivers 0, or 1
after a timeout, once the phase has passed. A barrier that is not in use answers all ones, or 2. -/
def Claims.BarrierArrivals : Prop :=
  ∀ (s : State) (rd ra : SReg) (b : BitVec 8),
    let k := s.d.cluster
    let x := (s.d.clusters[k].unit).barrier b.toNat
    let phase := (s.d.rd ra).toNat % 2 ^ 32
    (x.en = false → Gives (exec (.barv rd b) s) (fun t => WritesScalar s t rd (u64 (2 ^ 64 - 1))) ∧
      Gives (exec (.barw rd ra b) s) fun t => WritesScalar s t rd 2) ∧
    (x.en = true → s.d.holdsAny s.d.core.id = false → Gives (exec (.barv rd b) s) fun t =>
      let a := x.afterArrival (s.d.barRef k b) s.d.owner s.gcycle none
      (t.d.clusters[k].unit).barrier b.toNat = a.1 ∧
      ScalarIs s t rd (u64 ((x.gen.toNat + if x.relw then 1 else 0) % 2 ^ 32)) ∧ GoesOn s t ∧ SameCoreButUncorr s t ∧
      (s.d.Clear → BarrierBecomes s t k b a.1 s.d.messages a.2 ∧ SameCore s t)) ∧
    (x.en = true → 1 ≤ (x.gen.toNat + 2 ^ 32 - phase) % 2 ^ 32 → (x.gen.toNat + 2 ^ 32 - phase) % 2 ^ 32 < 2 ^ 31 →
      Gives (exec (.barw rd ra b) s) fun t => WritesScalar s t rd (one01 x.timedOut))

/-- R318, R326, R327, R328: messages that reach a barrier in use at its unit, and the timeout of a root. -/
def Claims.BarrierMessages : Prop :=
  ∀ (s : State) (m : BarMsg) (col : Bool) (rest : List Flight),
    let k : Fin 32 := Fin.ofNat 32 m.dst.unit.cluster.toNat
    let b := m.dst.bar
    let me := m.dst
    let x := (s.d.clusters[k].unit).barrier b.toNat
    m.dst.unit.dev = s.d.deviceId → s.d.stops = [] → s.d.contexts.find m.owner = none → s.d.clusters[k].owner = m.owner → x.en = true →
    let inFlight (u : UnitMsg) : Prop := s.d.messages = { colour := col, owner := m.owner, msg := u } :: rest
    let onward (ms : List BarRef) (late : Bool) : List UnitMsg := ms.map fun c => .release { owner := m.owner, src := me, dst := c } late
    let toParent (u : BarMsg → UnitMsg) : List UnitMsg := [u { owner := m.owner, src := me, dst := parentRef x.parent }]
    let becomes (i : Instr) (y : Barrier) (out : List UnitMsg) : Prop := Gives (exec i s) fun t =>
      BarrierBecomes s t k b y rest out ∧ t.d.core = s.d.core
    (inFlight (.arrive m) →
      let a := x.afterArrival me m.owner s.gcycle (some m.src)
      becomes (.arrive m) a.1 a.2) ∧
    (∀ late, inFlight (.release m late) →
      (x.relw = false → becomes (.release m late) x []) ∧
      (x.relw = true → x.arrived < x.expect →
        becomes (.release m late) { x with relw := false, timedOut := late, gen := x.gen + 1, awaiting := [] } (onward x.awaiting late))) ∧
    (inFlight (.absent m) → becomes (.absent m) { x with absent := x.absent + 1, timer := none }
      (if x.pv ∧ x.absent = 0 then toParent .absent else [])) ∧
    (inFlight (.present m) → 0 < x.absent → becomes (.present m)
      { x with absent := x.absent - 1
               timer := if x.absent = 1 ∧ x.pv = false ∧ x.arrived ≠ 0 then some s.gcycle else x.timer }
      (if x.pv ∧ x.absent = 1 then toParent .present else [])) ∧
    (∀ start, x.timer = some start → x.pv = false → x.timeout ≠ 0 → x.absent = 0 → start + 1024 * x.timeout ≤ s.gcycle →
      s.d.messages = rest → m.dst.unit = { dev := s.d.deviceId, cluster := BitVec.ofNat 5 k.val } →
      becomes (.barrierTimeout k.val b) { x with arrived := 0, timedOut := true, gen := x.gen + 1, timer := none, children := [] }
        (onward x.children true))

/-- R318, R326: a message that its target refuses, here for belonging to another owner, comes back to its sender, whose waiting cores
complete with TO = 1 (how the refusal reaches the sender, and which phases it ends there, are log 16: both, where ARRIVED has reached EXPECT in the
next one too). -/
def Claims.RefusedMessagesReturn : Prop :=
  ∀ (s : State) (m : BarMsg) (late col : Bool) (rest : List Flight) (i : Instr) (u : UnitMsg),
    let k : Fin 32 := Fin.ofNat 32 m.dst.unit.cluster.toNat
    let j : Fin 32 := Fin.ofNat 32 m.src.unit.cluster.toNat
    let y := (s.d.clusters[j].unit).barrier m.src.bar.toNat
    m.dst.unit.dev = s.d.deviceId → m.src.unit.dev = s.d.deviceId → s.d.stops = [] → s.d.contexts.find m.owner = none →
    s.d.clusters[k].owner ≠ m.owner → s.d.clusters[j].owner = m.owner →
    (i, u) ∈ [(.arrive m, .arrive m), (.release m late, .release m late), (.absent m, .absent m), (.present m, .present m)] →
    s.d.messages = { colour := col, owner := m.owner, msg := u } :: rest →
    Gives (exec i s) fun t => t.d.core = s.d.core ∧ BarrierBecomes s t j m.src.bar
      (if y.relw = true ∧ y.arrived < y.expect then { y with relw := false, timedOut := true, gen := y.gen + 1, awaiting := [] }
       else { y with relw := false, arrived := 0, timedOut := true, gen := y.gen + if y.relw then 2 else 1, awaiting := []
                     timer := none, children := [] })
      rest []

/-- Arrivals and waits at a barrier, and the messages of chained barriers. -/
def Obligations.BarriersPass : Prop :=
  Claims.BarrierArrivals ∧ Claims.BarrierMessages ∧ Claims.RefusedMessagesReturn

/-- R321: signals add to the count of an event, saturating, or serve the core that has waited longest; EVWAIT takes one when the count is
not 0, and EVTRY takes one if there is one, delivering the count as it was. -/
def Claims.EventCounts : Prop :=
  ∀ (s : State) (rd ra : SReg) (e : BitVec 8),
    let k := s.d.cluster
    let unit := s.d.clusters[k].unit
    let x := unit.event e.toNat
    let me := s.d.core.id % 128
    let becomes (t : State) (y : EventWord) : Prop :=
      (∀ n, (t.d.clusters[k].unit).event n = if n = e.toNat then y else unit.event n) ∧
      (t.d.clusters[k].unit).barriers = unit.barriers ∧ (t.d.clusters[k].unit).mutexes = unit.mutexes ∧
      t.d.mem = s.d.mem ∧ SameOutside s t
    let signalled : EventWord := match x.waiting with
      | [] => { x with count := min (2 ^ 32 - 1) (x.count + 1) }
      | c :: others => { count := 0, waiting := others, granted := x.granted ++ [(c, 0)] }
    let sane : Prop := x.waiting ≠ [] → x.count = 0
    (sane → s.d.holdsAny s.d.core.id = false → s.d.rd ra = 0 → Gives (exec (.evsig ra e) s) fun t =>
      becomes t signalled ∧ GoesOn s t ∧ t.d.core = { s.d.core with pc := t.d.core.pc }) ∧
    (x.granted.find? (fun g => decide (g.1 = me)) = none → 0 < x.count → Gives (exec (.evwait rd e) s) fun t =>
      becomes t { x with count := x.count - 1 } ∧ ScalarIs s t rd (u64 (x.count - 1)) ∧ GoesOn s t ∧ SameCore s t) ∧
    (∀ n, x.granted.find? (fun g => decide (g.1 = me)) = some (me, n) → Gives (exec (.evwait rd e) s) fun t =>
      becomes t { x with granted := x.granted.filter fun g => decide (g.1 ≠ me) } ∧ ScalarIs s t rd (u64 n) ∧ GoesOn s t ∧ SameCore s t) ∧
    Gives (exec (.evtry rd e) s) (fun t =>
      becomes t { x with count := x.count - 1 } ∧ ScalarIs s t rd (u64 x.count) ∧ GoesOn s t ∧ SameCore s t) ∧
    (x.granted.find? (fun g => decide (g.1 = me)) = none → x.count = 0 → me ∉ x.waiting → Gives (exec (.evwait rd e) s) fun t =>
      becomes t { x with waiting := x.waiting ++ [me] } ∧ t.d.core = { s.d.core with stall := 0xA }) ∧
    (∀ col rest sc, s.d.stops = [] → s.d.contexts.find s.d.owner = none → sane →
      let m : SignalMsg := { owner := s.d.owner, dst := { dev := s.d.deviceId, cluster := BitVec.ofNat 5 k.val }, ev := e, scope := sc }
      s.d.messages = { colour := col, owner := s.d.owner, msg := .signal m } :: rest →
      Gives (exec (.eventSignal m) s) fun t => becomes t signalled ∧ t.d.messages = rest ∧ t.d.core = s.d.core)

/-- R322: a free mutex is taken by MLOCK and MTRY; MTRY answers 1 when it is held; MUNLOCK of the holder frees it, or passes it to the core
that has waited longest, and of another core answers 1. -/
def Claims.MutexesAreHeld : Prop :=
  ∀ (s : State) (rd : SReg) (m : BitVec 6),
    let k := s.d.cluster
    let unit := s.d.clusters[k].unit
    let x := unit.mutex m.toNat
    let me := s.d.core.id % 128
    let becomes (t : State) (y : Mutex) : Prop :=
      (∀ n, (t.d.clusters[k].unit).mutex n = if n = m.toNat then y else unit.mutex n) ∧
      (t.d.clusters[k].unit).barriers = unit.barriers ∧ (t.d.clusters[k].unit).events = unit.events ∧
      t.d.mem = s.d.mem ∧ SameOutside s t ∧ GoesOn s t ∧ SameCore s t
    (x.holder = none →
      Gives (exec (.mlock m) s) (fun t => becomes t { x with holder := some me, granted := false } ∧ t.d.core.s = s.d.core.s) ∧
      Gives (exec (.mtry rd m) s) fun t => becomes t { x with holder := some me, granted := false } ∧ ScalarIs s t rd 0) ∧
    (x.holder ≠ none → Gives (exec (.mtry rd m) s) fun t => WritesScalar s t rd 1) ∧
    (x.holder = some me → x.granted = true → Gives (exec (.mlock m) s) fun t => becomes t { x with granted := false }) ∧
    (x.holder = some me → s.d.holdsAny s.d.core.id = false → Gives (exec (.munlock rd m) s) fun t =>
      becomes t (match x.waiting with
        | [] => { holder := none, granted := false, waiting := [] }
        | c :: others => { holder := some c, granted := true, waiting := others }) ∧ ScalarIs s t rd 0) ∧
    (x.holder ≠ some me → Gives (exec (.munlock rd m) s) fun t => WritesScalar s t rd 1)

/-- R323: a monitored doubleword that differs from the expected value is delivered at once; while it does not, the core waits. Here it lies
in a settled grain of a local page, or in the own scratchpad. -/
def Claims.MonitorDelivers : Prop :=
  ∀ (s : State) (acq : Bool) (sc : MemScope) (rd ra rb : SReg) (e : Word) (pa o : Nat),
    s.d.core.status.pl = .supervisor → s.d.core.gang = none →
    let i : Instr := .monitorAndWait acq sc rd ra rb
    let here := u64 ((List.range 8).map fun i => (s.d.core.pad.get s.d.gen (o + i)).toNat * 256 ^ i).sum
    (s.d.Reaches .load (s.d.rd ra) 8 e pa → pteRmt e = false → s.d.SettledAt e pa →
      let x := u64 (s.d.valueAt none pa 8)
      (x ≠ s.d.rd rb → Gives (exec i s) fun t => ScalarIs s t rd x ∧ GoesOn s t ∧ SameCore s t ∧ SameButMemory s t) ∧
      (x = s.d.rd rb → exec i s = .next (s.withCore { s.d.core with stall := 0xE }))) ∧
    (s.d.rd ra = u64 (0x00FFFF000FE00000 + o) → o + 8 ≤ 262144 → o % 8 = 0 → s.d.core.pad.bad = [] →
      (here ≠ s.d.rd rb → Gives (exec i s) fun t => WritesScalar s t rd here) ∧
      (here = s.d.rd rb → exec i s = .next (s.withCore { s.d.core with stall := 0xE })))

/-- R316, R318: stores to the unit: CFG and PARENT take a permitted value, an event word its count; a value that is not permitted, another
place of the unit and another size raise PROT, which is what EVENT_UNIT_WRITE does; at a place that a store may write it leaves the store to
that place's own step. By the model's reading (log 16) such a step acts as a store of the current core, traps there, and leaves the pc. -/
def Claims.UnitRegistersAreWritten : Prop :=
  ∀ (s : State) (b e : BitVec 8) (value : Word) (o : BitVec 21),
    let k := s.d.cluster
    let unit := s.d.clusters[k].unit
    let self : UnitRef := { dev := s.d.deviceId, cluster := BitVec.ofNat 5 k.val }
    let x := unit.barrier b.toNat
    let y := unit.event e.toNat
    (configOk self b.toNat x true value x.parent = true → Gives (exec (.barrierCfgWrite b value) s) fun t =>
      BarrierBecomes s t k b { x with cfg := value } s.d.messages [] ∧ t.d.core = s.d.core) ∧
    (configOk self b.toNat x false x.cfg value = true → Gives (exec (.barrierParentWrite b value) s) fun t =>
      BarrierBecomes s t k b { x with parent := value } s.d.messages [] ∧ t.d.core = s.d.core) ∧
    (value.toNat < 2 ^ 32 → s.d.holdsAny s.d.core.id = false → y.waiting = [] → Gives (exec (.eventWordWrite e value) s) fun t =>
      (∀ n, (t.d.clusters[k].unit).event n = if n = e.toNat then { y with count := value.toNat } else unit.event n) ∧
      (t.d.clusters[k].unit).barriers = unit.barriers ∧ (t.d.clusters[k].unit).mutexes = unit.mutexes ∧ t.d.core = s.d.core ∧
      t.d.mem = s.d.mem) ∧
    ((o.toNat < 0x2000 ∧ (o.toNat % 32 = 0 ∨ o.toNat % 32 = 8)) ∨ (0x2000 ≤ o.toNat ∧ o.toNat < 0x2800 ∧ o.toNat % 8 = 0) →
      Gives (exec (.eventUnitWrite o .d) s) fun t => t = s) ∧
    (CanTrap s →
      let at' (o : Nat) : Word := u64 (0x00FFFF000FC00000 + o)
      let refused (i : Instr) (o : Nat) : Prop := Gives (exec i s) fun t => EnteredAt s t 0x05 (at' o) 0x12
      (configOk self b.toNat x true value x.parent = false → refused (.barrierCfgWrite b value) (32 * b.toNat)) ∧
      (configOk self b.toNat x false x.cfg value = false → refused (.barrierParentWrite b value) (32 * b.toNat + 8)) ∧
      (2 ^ 32 ≤ value.toNat → s.d.holdsAny s.d.core.id = false → refused (.eventWordWrite e value) (0x2000 + 8 * e.toNat)) ∧
      (o.toNat < 0x2000 → o.toNat % 32 = 16 ∨ o.toNat % 32 = 24 → refused (.eventUnitWrite o .d) o.toNat) ∧
      (0x2800 ≤ o.toNat → o.toNat % 8 = 0 → refused (.eventUnitWrite o .d) o.toNat) ∧
      refused (.eventUnitWrite o .b) o.toNat ∧ (o.toNat % 2 = 0 → refused (.eventUnitWrite o .h) o.toNat) ∧
      (o.toNat % 4 = 0 → refused (.eventUnitWrite o .w) o.toNat) ∧ (o.toNat % 16 = 0 → refused (.eventUnitWrite o .q) o.toNat))

/-- Events, mutexes, the monitor and the registers of the event unit (choices: log 16). -/
def Obligations.EventsMutexesAndMonitors : Prop :=
  Claims.EventCounts ∧ Claims.MutexesAreHeld ∧ Claims.MonitorDelivers ∧ Claims.UnitRegistersAreWritten

/-- R351: LAUNCH of a record that passes its checks appends it to an open queue of the owner and delivers its sequence number; a full queue
delivers 0. A queue of another owner raises TASK with reason 1, and a record that is not at a multiple of 64 with reason 3. The NEXT field of
the record before it is stored first, and where that store waits LAUNCH waits with it. That the launch is placed when it is appended is the
model's choice, and what the store does to an address that refuses it (log 17). -/
def Claims.LaunchesAreAppended : Prop :=
  ∀ (s : State) (rd ra : SReg) (q : BitVec 10),
    let a := s.d.rd ra
    let x := s.d.queueAt q.toNat
    let go := exec (.launch rd ra q) s
    (x.boundTo s.d.owner = false → CanTrap s → Gives go fun t => EnteredAt s t 0x0F 0 1) ∧
    (x.boundTo s.d.owner = true → a.toNat % 64 ≠ 0 → CanTrap s → Gives go fun t => EnteredAt s t 0x0F a 3) ∧
    ∀ b k p f, x.boundTo s.d.owner = true → a.toNat % 64 = 0 → s.d.readWhole a 64 = .ok b →
      let r := wordsOf 8 b.1
      recordOk (x.last.map (·.2)) r = true → b.2.readKernel a r[1] = .ok k → k.2.checkAnchor r[3] = .ok p →
      k.2.startFrontier r = .ok f → x.state = .opened → s.d.holdsAny s.d.core.id = false →
      (x.pending.length < Config.launchDepth →
        x.last = none ∨ (∃ e g, f.2.release .dev = .ok e ∧ e.storeNext q.toNat a = .ok g) → Gives go fun t =>
        t.d.queueAt q.toNat =
          { x with nextSeq := x.nextSeq + 1, last := some (a, r)
                   pending := x.pending ++ [{ seq := x.nextSeq, addr := a, record := r, kernel := k.1, place := p, started := false
                                              clusters := [], reported := [], dies := [], frontier := f.1 }] } ∧
        (∀ n, n ≠ q.toNat → t.d.queueAt n = s.d.queueAt n) ∧ ScalarIs s t rd (u64 x.nextSeq) ∧ GoesOn s t) ∧
      (∀ e w, x.pending.length < Config.launchDepth → f.2.release .dev = .ok e → e.storeNext q.toNat a = .error w → Gives go fun t =>
        t.d.queues = s.d.queues ∧ t.d.core.pc = s.d.core.pc ∧ t.d.core.traps = s.d.core.traps) ∧
      (Config.launchDepth ≤ x.pending.length → Gives go fun t =>
        t.d.queues = s.d.queues ∧ ScalarIs s t rd 0 ∧ GoesOn s t)

/-- R360, R361, R363: TSPAWN sends a CORE packet that passed its checks within the launch of its task, to the own cluster when its anchor is
0 and to the core that a window anchor names; a MEMRED packet sends its reduction. -/
def Claims.SpawnsAreSent : Prop :=
  ∀ (s : State) (ra : SReg) (t0 : Task) (b : List Byte × Dev),
    let a := s.d.rd ra
    let p := wordsOf 4 b.1
    let k := s.d.cluster
    s.d.core.task = some t0 → a.toNat % 32 = 0 → s.d.readWhole a 32 = .ok b → packetOk p = true →
    s.d.holdsAny s.d.core.id = false →
    let sends (body : PacketBody) : Prop := Gives (exec (.tspawn ra) s) fun t =>
      t.d.packets.find s.d.nextPacket = some { colour := s.d.clusters[k].ends.colour, owner := s.d.owner, cluster := k.val
                                               queue := t0.work.queue, seq := t0.work.seq, body := body } ∧
      (∀ n, n ≠ s.d.nextPacket → t.d.packets.find n = s.d.packets.find n) ∧ t.d.nextPacket = s.d.nextPacket + 1 ∧
      t.d.core.s = s.d.core.s ∧ GoesOn s t
    (∀ kd, packetIsRed p = false → refusedAnchor p[3] = false → b.2.readKernel a p[1] = .ok kd →
      (s.d.queueAt t0.work.queue).abort = false →
      let w : Work := { t0.work with kind := .core, entry := kd.1[0], uses := kd.1[1], args := p[2], anchor := p[3] }
      (p[3] = 0 → sends (.core w k.val none)) ∧
      (inWindow p[3] = true →
        sends (.core w k.val (some (if winCore p[3] = 127 then s.d.core.id else 128 * k.val + winCore p[3]))))) ∧
    (∀ op ty e pa, packetIsRed p = true → packetRed p = some (op, ty) →
      b.2.place s.d.core.status.pl .store p[3] (ty.bits / 8) true = .ok (.home e pa) → pteDec e = false →
      sends (.memred s.d.core.status.pl
        { pa := 0, va := p[3], op := op, ty := ty, arr := false, value := p[1], owner := s.d.owner, kid := s.d.core.kid }))

/-- R353, R355, R363: the oldest launch of a queue starts, when its owner has clusters for it: a RANGE launch sends its pieces to the clusters of
its die, here one cluster, to which the whole range goes. A launch with an empty range completes at once. That the clusters are chosen
when the launch starts is the model's choice (log 17). -/
def Claims.LaunchesStart : Prop :=
  ∀ (s : State) (q : BitVec 10) (l : Launch) (rest : List Launch) (k : Fin 32),
    let x := s.d.queueAt q.toNat
    let o := x.owner
    let lo := l.record[4].toNat
    let hi := l.record[5].toNat
    x.pending = l :: rest → l.started = false → l.clusters = [] → x.abort = false → s.d.frozen o = false → recFrontier l.record = false →
    recChn l.record = false → l.place = .die (k.val / 8) → s.d.dieClusters o (k.val / 8) = [k] → (∀ m ∈ rest, m.seq ≠ l.seq) →
    (lo < hi → 0 < recGrain l.record → Gives (exec (.launchStart q l.seq) s) fun t =>
      (∃ l', (t.d.queueAt q.toNat).findLaunch l.seq = some l' ∧ l'.started = true ∧ l'.place = l.place ∧ l'.clusters = [k.val] ∧
        l'.record = l.record) ∧ (t.d.queueAt q.toNat).lastPlace = some l.place ∧
      (∃ p, t.d.packets.find s.d.nextPacket = some { colour := s.d.clusters[k].ends.colour, owner := o, cluster := k.val, queue := q.toNat
                                                     seq := l.seq, body := .piece p k.val } ∧
        p.cur = lo ∧ p.hi = hi ∧ p.work.kind = .range ∧
        p.work.entry = l.kernel[0] ∧ p.work.args = l.record[2] ∧ p.work.queue = q.toNat ∧ p.work.seq = l.seq ∧ p.work.lo = lo ∧
        p.work.hi = hi) ∧
      t.d.core = s.d.core ∧ t.d.mem = s.d.mem) ∧
    (lo = hi → s.d.orphanOf q.toNat l.seq = false → s.d.mem.stores = [] → s.d.mem.partials = [] →
      (∀ e level, s.d.walk o x.word = .leaf e level → pteMig e = false) →
      Gives (exec (.launchStart q l.seq) s) fun t =>
        t.d.queueAt q.toNat = { x with pending := rest, lastPlace := some l.place
                                       state := if rest = [] ∧ x.state = .closing then .closed else x.state })

/-- R355: the pieces of a range over c clusters lie in order without a gap from LO to HI, none is empty, each starts at a multiple of GRAIN
from LO, and there are at most c. -/
def Claims.RangesArePartitioned : Prop :=
  ∀ lo hi grain c : Nat, 0 < grain → 0 < c → lo < hi →
    let ps := rangePieces lo hi grain c
    ps.length ≤ c ∧ (∀ x ∈ ps, lo ≤ x.2.1 ∧ x.2.1 < x.2.2 ∧ x.2.2 ≤ hi ∧ (x.2.1 - lo) % grain = 0 ∧ x.1 < c) ∧
    (∀ i, lo ≤ i → i < hi → ∃ x ∈ ps, x.2.1 ≤ i ∧ i < x.2.2) ∧ ps.Pairwise fun x y => x.2.2 ≤ y.2.1 ∧ x.1 < y.1

/-- Launches are appended and start, ranges are partitioned, tasks are spawned (choices: log 17). -/
def Obligations.LaunchesAndSpawns : Prop :=
  Claims.LaunchesAreAppended ∧ Claims.SpawnsAreSent ∧ Claims.LaunchesStart ∧ Claims.RangesArePartitioned

/-- R357, R359, R362: TNEXT claims the next chunk of the task's piece, at most GRAIN iterations, and delivers 0 when nothing is left. TEND of
the last holder of a piece with nothing left ends the task; with no other work the core is idle. AWAIT goes on at once when its granule is
full. -/
def Claims.TasksRun : Prop :=
  ∀ (s : State) (rd ra : SReg) (t0 : Task), rd.toNat % 2 = 0 → s.d.core.task = some t0 → s.d.core.gang = none →
    let c := s.d.core
    let pair (t : State) (lo hi : Nat) : Prop :=
      t.d.rd rd = (if rd = 0 then 0 else u64 lo) ∧ t.d.rd (rd + 1) = u64 hi ∧ ∀ r, r ≠ rd → r ≠ rd + 1 → t.d.rd r = s.d.rd r
    (∀ p, s.d.pieces.find t0.piece = some p → p.work.kind = .range →
      (p.cur < p.hi → (s.d.queueAt p.work.queue).abort = false →
        let n := min p.work.grain (p.hi - p.cur)
        Gives (exec (.tnext rd) s) fun t => pair t p.cur n ∧ t.d.pieces.find t0.piece = some { p with cur := p.cur + n } ∧
          (∀ k, k ≠ t0.piece → t.d.pieces.find k = s.d.pieces.find k) ∧ GoesOn s t ∧ SameCore s t ∧
          t.d = { s.d with core := t.d.core, pieces := t.d.pieces } ∧ SameOutside s t) ∧
      (p.hi ≤ p.cur → Gives (exec (.tnext rd) s) fun t => pair t 0 0 ∧ GoesOn s t ∧ SameButScalars s t)) ∧
    ((∀ n : Fin 4, c.port[n].commands = []) → s.d.holdsAny c.id = false → Gives (exec .tend s) fun t =>
      (t.d.core.task = none ∧ t.d.core.run = .idle) ∨ (t.d.core.task.isSome = true ∧ t.d.core.run = .running)) ∧
    (∀ p, s.d.pieces = [(t0.piece, p)] → p.hi ≤ p.cur → (t0.work.kind = .range ∨ t0.work.kind = .core) → s.d.holders t0.piece = 1 →
      (∀ n : Fin 4, c.port[n].commands = []) → s.d.Clear → c.yielded = [] → c.named = [] →
      (∀ k : Fin 32, s.d.clusters[k].pending = []) → (∀ x ∈ s.d.queues, ∀ l ∈ x.2.pending, recFrontier l.record = false) →
      (s.d.queueAt t0.work.queue).cut = none → (s.d.queueAt t0.work.queue).cutDone = false →
      Gives (exec .tend s) fun t =>
        t = { s with d := { s.d with core := { c with task := none, run := .idle, pc := c.pc + 4 }, pieces := [] } }) ∧
    (c.pad.isFull s.d.gen ((s.d.rd ra).toNat / 16 % 2 ^ 14) = true → Gives (exec (.await ra) s) fun t =>
      t = s.withCore { c with pc := c.pc + 4, parked := false })

/-- R362, R314: AWAIT of an empty granule yields the core to work that waits for it by name; where there is no work it waits for the granule,
and no longer for work. When the granule has become full, the yielded task resumes with its registers, its pc past the AWAIT, and the elements
kept for it; those that an ended task left are gone (log 24). -/
def Claims.TasksYieldAndResume : Prop :=
  ∀ (s : State) (ra : SReg),
    let c := s.d.core
    let gr := (s.d.rd ra).toNat / 16 % 2 ^ 14
    (∀ t0, c.task = some t0 → c.gang = none → c.pad.isFull s.d.gen gr = false → c.parked = true →
      exec (.await ra) s = .next (s.withCore { c with stall := 0xB })) ∧
    (∀ t0, c.task = some t0 → c.gang = none → c.pad.isFull s.d.gen gr = false → c.yielded.length = 3 →
      exec (.await ra) s = .next (s.withCore { c with stall := 0xB, parked := true })) ∧
    (∀ t0 w rest, c.task = some t0 → c.gang = none → c.parked = false → c.pad.isFull s.d.gen gr = false → c.yielded = [] → c.named = w :: rest →
      usesDisjoint t0.work.uses w.uses = true →
      Gives (exec (.await ra) s) fun t => StartsOn s t { work := w, cur := 0, hi := 0 } ∧ t.d.core.named = rest ∧
        ∃ y, t.d.core.yielded = [y] ∧ y.task = t0 ∧ y.granule = gr ∧ y.pc = c.pc + 4 ∧ y.status = c.status ∧ y.s = c.s ∧ y.v = c.v ∧
          y.p = c.p ∧ y.desc = c.desc ∧ y.stream = c.stream ∧ y.fflags = c.fflags ∧ y.frst = c.frst ∧
          ∀ n : Fin 4, y.kept[n] = c.port[n].done) ∧
    (∀ y, coreExists c.id = true → c.run = .idle → c.task = none → c.gang = none → c.halt = none →
      s.d.clusters[s.d.cluster].retired = false → c.yielded = [y] → c.pad.isFull s.d.gen y.granule = true →
      Gives (exec (.awaitResume c.id) s) fun t =>
        let e := t.d.core
        e.task = some y.task ∧ e.run = .running ∧ e.pc = y.pc ∧ e.status = y.status ∧ e.s = y.s ∧ e.v = y.v ∧ e.p = y.p ∧
        e.desc = y.desc ∧ e.stream = y.stream ∧ e.fflags = y.fflags ∧ e.frst = y.frst ∧ e.yielded = [] ∧
        (∀ n : Fin 4, e.port[n] = { c.port[n] with done := y.kept[n] }) ∧ e.acc = c.acc ∧ e.pad = c.pad ∧
        t = s.withCore e)

/-- Tasks claim chunks, end, yield with AWAIT and resume. -/
def Obligations.TasksRunAndYield : Prop :=
  Claims.TasksRun ∧ Claims.TasksYieldAndResume

/-- R364, R367: what TINFO, TQSTAT and TCLOSE deliver, and what TCLOSE leaves of the queue. The zeros that TQSTAT writes beside
state 3 for an unbound queue are the model's choice (log 17). -/
def Claims.QueueAndTaskFields : Prop :=
  ∀ (s : State) (rd ra : SReg) (q : BitVec 10) (t0 : Task),
    let x := s.d.queueAt q.toNat
    let w := t0.work
    let code := match x.state with | .opened => 0 | .closing => 1 | .closed => 2 | .unbound => 3
    (s.d.core.task = some t0 →
      let field (k : BitVec 3) (v : Word) : Prop := Gives (exec (.tinfo rd k) s) fun t => WritesScalar s t rd v
      field 0 (u64 w.kid.toNat) ∧ field 1 w.args ∧ field 5 (u64 w.seq) ∧ field 6 w.anchor ∧
      (w.kind = .range → field 2 (u64 w.lo) ∧ field 3 (u64 w.hi) ∧ field 4 (u64 w.grain)) ∧
      (w.kind ≠ .range → ∀ k ∈ [2, 3, 4], Gives (exec (.tinfo rd k) s) fun t => GoesOn s t ∧ ∀ r, r ≠ rd → t.d.rd r = s.d.rd r)) ∧
    (x.state ≠ .unbound → x.owner = s.d.owner → x.pending.length < 256 → Gives (exec (.tqstat rd q) s) fun t =>
      WritesScalar s t rd (u64 (code + (if x.abort then 4 else 0) + 2 ^ 8 * x.pending.length + 2 ^ 16 * x.nextSeq))) ∧
    (x.state = .unbound → Gives (exec (.tqstat rd q) s) fun t => WritesScalar s t rd 3) ∧
    (s.d.core.status.pl = .supervisor → x.boundTo s.d.owner = true → s.d.host.unmaps = [] → Gives (exec (.tclose rd ra q) s) fun t =>
      let abort : Bool := decide ((s.d.rd ra).toNat % 2 = 1)
      t.d.queueAt q.toNat = { x with
        abort := x.abort || abort
        state := if x.state = .closed then .closed else if x.pending = [] then .closed else .closing } ∧
      (∀ n, n ≠ q.toNat → t.d.queueAt n = s.d.queueAt n) ∧
      (x.abort || abort → (∀ k : Fin 32, ∀ p ∈ t.d.clusters[k].pending, p.work.queue ≠ q.toNat) ∧
        ∀ v ∈ t.d.core.named, v.queue ≠ q.toNat) ∧
      ScalarIs s t rd (u64 (x.nextSeq - 1)) ∧ GoesOn s t)

/-- R355, R356, R361, R363, R364: the steps of the dispatcher: a free core takes the pending work of its cluster, or work that waits for it by
name; a task packet reaches its cluster, where it is discarded in abort mode (that it is
discarded there and not before is the model's choice, log 17); a cluster and then its die report a launch that counts
nowhere in them; and the oldest launch completes, its completion word first. -/
def Claims.DispatcherSteps : Prop :=
  ∀ (s : State),
    let c := s.d.core
    let k := s.d.cluster
    let noPoints : Prop := ∀ x ∈ s.d.queues, ∀ l ∈ x.2.pending, recFrontier l.record = false
    (s.d.FreeHere → noPoints → ∀ p, s.d.clusters[k].pending = [p] →
      Gives (exec (.taskStart c.id) s) fun t => StartsOn s t p ∧ t.d.clusters[k].pending = []) ∧
    (∀ w, ({ s.d with core := { c with inbox := [] } } : Dev).FreeHere → c.named = [w] →
      Gives (exec (.taskStart c.id) s) fun t => StartsOn s t { work := w, cur := 0, hi := 0 } ∧ t.d.core.named = []) ∧
    (∀ id p, s.d.packets.find id = some p → s.d.stops = [] → s.d.contexts.find p.owner = none →
      let arrives (w : Work) (n : Nat) (p' : Piece) : Prop := n < 32 →
        let j : Fin 32 := Fin.ofNat 32 n
        Gives (exec (.spawnPacket id) s) fun t => t.d.packets = s.d.packets.erase id ∧ t.d.mem = s.d.mem ∧
          ((s.d.queueAt p.queue).abort = true → t.d.core = c ∧ t.d.others = s.d.others ∧ t.d.clusters[j].pending = s.d.clusters[j].pending) ∧
          ((s.d.queueAt p.queue).abort = false → p.body = .core w n none ∨ s.d.idleCore j = none →
            t.d.core = c ∧ t.d.others = s.d.others ∧ t.d.clusters[j].pending = s.d.clusters[j].pending ++ [p']) ∧
          ∀ i, (s.d.queueAt p.queue).abort = false → p.body = .piece p' n → s.d.idleCore j = some i →
            let y := t.d.coreAt i
            y.task = some { piece := s.d.nextPiece, work := p'.work } ∧ y.run = .running ∧ y.pc = p'.work.entry ∧
              t.d.pieces.find s.d.nextPiece = some p' ∧ t.d.clusters[j].pending = s.d.clusters[j].pending
      (∀ w n, p.body = .core w n none → arrives w n { work := w, cur := 0, hi := 0 }) ∧
      (∀ x n, p.body = .piece x n → arrives x.work n x)) ∧
    (∀ (q : BitVec 10) (seq n : Nat) (l : Launch), (s.d.queueAt q.toNat).findLaunch seq = some l →
      let x := s.d.queueAt q.toNat
      l.started = true → s.d.frozen x.owner = false →
      (n ∈ l.clusters → n ∉ l.reported → s.d.workCount q.toNat seq n = 0 → Gives (exec (.clusterReport q seq n) s) fun t =>
        (∃ l', (t.d.queueAt q.toNat).findLaunch seq = some l' ∧ n ∈ l'.reported ∧ l'.dies = l.dies ∧ l'.clusters = l.clusters) ∧
        t.d = { s.d with queues := t.d.queues }) ∧
      (n ∉ l.dies → (∃ j ∈ l.clusters, j / 8 = n) → (∀ j ∈ l.clusters, j / 8 = n → j ∈ l.reported) →
        (∀ p ∈ s.d.flying, p.queue = q.toNat → p.seq = seq → p.touches n = false) →
        Gives (exec (.dieReport q seq n) s) fun t =>
          (∃ l', (t.d.queueAt q.toNat).findLaunch seq = some l' ∧ n ∈ l'.dies ∧ l'.reported = l.reported) ∧
          t.d = { s.d with queues := t.d.queues })) ∧
    (∀ (q : BitVec 10) (l : Launch) (rest : List Launch) (e : Word) (level : Nat), s.Inv →
      let x := s.d.queueAt q.toNat
      let word := x.word
      x.pending = l :: rest → s.d.canComplete q.toNat x l = true → (x.cut = none ∨ x.cutDone = true) →
      (((s.d.clustersOf x.owner).foldl (fun d k => d.awaitAcks k .dev) s.d).tablesRead x.owner word).walk x.owner word = .leaf e level →
        pteMig e = false → pteW e = true → pteSl e = false → pteDec e = false → pteRmt e = false →
      inLocalRange word = false → word.toNat % 8 = 0 →
      Gives (exec (.launchCompletion q l.seq) s) fun t =>
        let status := if x.abort then 2 else if (q.toNat, l.seq) ∈ (s.d.ownerAt x.owner).lost then 1 else 0
        (s.d.mem.stores = [] → s.d.mem.partials = [] → s.d.host.unmaps = [] →
          MemoryTakes s t none (leafPa e word) 8 ((status + 2 ^ 16 * l.seq) % 2 ^ 64)) ∧
        t.d.queueAt q.toNat = { x with
          pending := rest, state := if rest = [] ∧ x.state = .closing then .closed else x.state })

/-- TINFO, TQSTAT, TCLOSE, and the steps of the dispatcher up to a completion (choices: log 17). -/
def Obligations.QueuesAndDispatcherSteps : Prop :=
  Claims.QueueAndTaskFields ∧ Claims.DispatcherSteps

/-- R14, R368: FUSE of n idle cores that follow the leader on its chain forms a gang: each follower takes the leader's scalar registers, level,
task and pc, and its index, and holds no element that an earlier task left in its ports (the model's choice, log 24); the leader reads 0.
Where they are not idle, or the chain ends, it reads all ones and nothing else happens. -/
def Obligations.GangsForm : Prop :=
  ∀ (s : State) (rd : SReg) (n : BitVec 5), s.d.core.gang = none → 2 ≤ n.toNat → n.toNat ≤ 16 →
    let c := s.d.core
    let chain (x : Nat) : Nat := 12 * (x / 12) + if x / 12 % 2 = 0 then x % 12 else 11 - x % 12
    let follower (j : Nat) : Nat := c.id / 128 * 128 + chain (chain (c.id % 128) + j)
    let fits : Prop := chain (c.id % 128) + n.toNat ≤ 96 ∧ ∀ j, 1 ≤ j → j < n.toNat → (s.d.coreAt (follower j)).isIdle = true
    Gives (exec (.fuse rd n) s) fun t => GoesOn s t ∧ SameOutside s t ∧ t.d.mem = s.d.mem ∧
      (s.Inv → c.id % 128 < 96 →
        (fits →
          ScalarIs s t rd 0 ∧ t.d.core.gang = some { leader := c.id, index := 0, size := n.toNat } ∧
          (∀ j, 1 ≤ j → j < n.toNat →
            let x := t.d.coreAt (follower j)
            let y := s.d.coreAt (follower j)
            x = { y with s := t.d.core.s, pc := t.d.core.pc, run := .running, task := c.task, stall := 0
                         gang := some { leader := c.id, index := j, size := n.toNat }, status := { y.status with pl := c.status.pl }
                         port := y.port.map fun p => { p with done := [] } }) ∧
          ∀ m, m ≠ c.id → (∀ j, 1 ≤ j → j < n.toNat → m ≠ follower j) → t.d.coreAt m = s.d.coreAt m) ∧
        (¬ fits → WritesScalar s t rd (u64 (2 ^ 64 - 1))))

/-- R370, R371: in a gang, GRED gives every member the combination of the members' values, and every member goes on; SPLIT makes each a core of
its own past the instruction; GIDX and GSIZE read the member's place. A core alone is a gang of one, which GRED leaves its own value. -/
def Claims.GangsCombine : Prop :=
  ∀ (s : State) (rd ra : SReg),
    let index (f : Gang → Nat) (alone : Nat) : Nat := match s.d.core.gang with | none => alone | some g => f g
    let inGang (g : Gang) (ms : List Nat) : Prop :=
      s.Inv ∧ s.d.core.gang = some g ∧ ms = gangCores g.leader g.size ∧ s.d.core.id ∈ ms ∧ (∀ m ∈ ms, clusterIx m = s.d.cluster) ∧ ms.Nodup
    let value (m : Nat) : Word := (s.d.coreAt m).readS s.d.gen ra
    let gives (i : Instr) (p : List Word → Word → Prop) : Prop := Gives (exec i s) fun t =>
      (s.d.core.gang = none → WritesScalar s t rd (s.d.rd ra)) ∧ t.d.mem = s.d.mem ∧ SameOutside s t ∧
      ∀ g ms, inGang g ms → ∃ x, p (ms.map value) x ∧
        (∀ m ∈ ms, t.d.coreAt m = { (s.d.coreAt m).writeS s.d.gen rd x with pc := (s.d.coreAt m).pc + 4 }) ∧
        ∀ m, m ∉ ms → t.d.coreAt m = s.d.coreAt m
    let bits (f : List Bool → Bool) (vs : List Word) (x : Word) : Prop := ∀ j, j < 64 → x.getLsbD j = f (vs.map fun v => v.getLsbD j)
    let least (le : Word → Word → Prop) (vs : List Word) (x : Word) : Prop := x ∈ vs ∧ ∀ v ∈ vs, le x v
    gives (.gredAdd rd ra) (fun vs x => x = u64 (vs.map BitVec.toNat).sum) ∧ gives (.gredAnd rd ra) (bits fun l => l.all id) ∧
    gives (.gredOr rd ra) (bits fun l => l.any id) ∧ gives (.gredXor rd ra) (bits fun l => decide ((l.filter id).length % 2 = 1)) ∧
    gives (.gredMin rd ra) (least fun x v => x.toInt ≤ v.toInt) ∧ gives (.gredMax rd ra) (least fun x v => v.toInt ≤ x.toInt) ∧
    gives (.gredMinn rd ra) (least fun x v => x.toNat ≤ v.toNat) ∧ gives (.gredMaxn rd ra) (least fun x v => v.toNat ≤ x.toNat) ∧
    (s.d.core.gang.isSome = true → Gives (exec .split s) fun t => t.d.mem = s.d.mem ∧ SameOutside s t ∧ ∀ g ms, inGang g ms →
      (∀ m ∈ ms, t.d.coreAt m = { s.d.coreAt m with gang := none, pc := (s.d.coreAt m).pc + 4 }) ∧
      ∀ m, m ∉ ms → t.d.coreAt m = s.d.coreAt m) ∧
    Gives (exec (.gidx rd) s) (fun t => WritesScalar s t rd (u64 (index (fun g => g.index) 0))) ∧
    Gives (exec (.gsize rd) s) fun t => WritesScalar s t rd (u64 (index (fun g => g.size) 1))

/-- R371, R372: what a gang does not permit raises GANG with reason 1; SPLIT outside one raises reason 2, and a FUSE of fewer than two or more
than sixteen cores reason 3. -/
def Claims.GangTraps : Prop :=
  ∀ (s : State) (rd ra rb : SReg) (n slot : BitVec 5) (q : BitVec 10) (acq : Bool) (sc : MemScope), CanTrap s →
    let traps (i : Instr) (reason : Word) : Prop := Gives (exec i s) fun t => EnteredAt s t 0x10 0 reason
    (s.d.core.gang.isSome = true → traps .halt 1 ∧ traps (.fuse rd n) 1 ∧
      (s.d.core.task.isSome = true → traps (.tnext rd) 1 ∧ traps .tend 1 ∧ traps (.await ra) 1) ∧
      (s.d.core.status.pl = .supervisor →
        traps (.reseed rd) 1 ∧ traps (.seedset rd ra) 1 ∧ traps (.fcut rd ra q) 1 ∧ traps (.monitorAndWait acq sc rd ra rb) 1 ∧
        traps (.ctsel ra slot) 1 ∧ traps (.proof rd ra) 1)) ∧
    (s.d.core.gang = none → traps .split 2 ∧ (n.toNat < 2 ∨ 16 < n.toNat → traps (.fuse rd n) 3))

/-- R42, R369, R371, R372: a step of a gang. A word that is no instruction traps the leader, and the others take GANG with reason 4 there. GRED and
SPLIT are performed once for all. Every other instruction is performed by each member: while one waits, all do; without a trap all go on where the
leader's decision leads; a trap dissolves the gang, and what has completed takes GANG with reason 4 at the leader's next instruction. A member that
still waited takes it outside the gang, once its instruction is complete. That the others stand at a word that is no instruction, and that a member
that waits leaves and completes outside, are the model's choices (log 20). No store in flight reaches the bound of its age with the step. -/
def Claims.GangsStep : Prop :=
  ∀ s : State, s.Inv → s.inputs = [] → s.d.coreOn = true → s.d.dueMember = none → s.d.core.run = .running → s.d.stops = [] →
    let pc := s.d.core.pc
    let left (c x : Core) (at' : Word) : Prop :=
      x.gang = none ∧ x.leaving = false ∧ x.cause.code = 0x10 ∧ x.cause.async = false ∧ x.epc = at' ∧ x.faddr = 0 ∧ x.finfo = 4 ∧ x.pc = c.tvec
    (∀ g, s.d.core.gang = some g →
      let ms := gangCores g.leader g.size
      let l := s.d.switchTo g.leader
      let lead (u : State) : Core := u.d.coreAt g.leader
      s.d.core.id ∈ ms → g.leader ∈ ms → ms.Nodup →
      (∀ m ∈ ms, let c := s.d.coreAt m
        clusterIx m = s.d.cluster ∧ c.stall = 0 ∧ c.frame = none ∧ c.sequencer = [] ∧ c.pc = pc ∧ c.leaving = false ∧ c.status.cons = true) →
      (∀ w r, l.fetch = .ok w → decode w = .error r → ∃ t, step s = .next t ∧ ∀ m ∈ ms,
        let c := s.d.coreAt m
        let x := t.d.coreAt m
        (m = g.leader → x.gang = none ∧ x.cause.code = 0x01 ∧ x.epc = pc ∧ x.faddr = pc ∧ x.finfo = zext (r ++ w) ∧ x.pc = c.tvec) ∧
        (m ≠ g.leader → left c x pc)) ∧
      ∀ w i, l.fetch = .ok w → decode w = .ok i →
        (isGredOrSplit i = true →
          ∃ v owners, exec i ((s.withDev l).settled (.inl i)) = .next v ∧ step s = .next ((v.withDev { v.d with owners := owners }).pass 1)) ∧
        (isGredOrSplit i = false → isCapture i = false → ∀ u, Performs i ms s u → u.Inv → u.d.stops = [] →
          (∀ r ∈ u.d.mem.stores, r.age + 1 < Config.storeBound) →
          let tr (m : Nat) : Prop := (u.d.coreAt m).traps ≠ (s.d.coreAt m).traps
          let waits (m : Nat) : Prop := (u.d.coreAt m).stall ≠ 0
          ∃ t, step s = .next t ∧ ∀ m ∈ ms,
            let c := u.d.coreAt m
            let x := t.d.coreAt m
            ((∀ j ∈ ms, ¬ tr j) → (∃ j ∈ ms, waits j) → x = c) ∧
            ((∀ j ∈ ms, ¬ tr j ∧ ¬ waits j) → x = { c with pc := (lead u).pc }) ∧
            ((∃ j ∈ ms, tr j) →
              (tr m → x = { c with gang := none }) ∧
              (¬ tr m → waits m → x = { c with gang := none, leaving := true }) ∧
              (¬ tr m → ¬ waits m → c.frame = none → c.sequencer = [] → c.leaving = false → c.status.cons = true → ¬ tr g.leader →
                ¬ waits g.leader → left c x (lead u).pc)))) ∧
    (s.d.core.gang = none → s.Quiet → s.d.core.leaving = true → s.d.core.stall = 0 →
      ∀ w i v, s.d.fetch = .ok w → decode w = .ok i → exec i (s.settled (.inl i)) = .next v → v.d.core.stall = 0 → v.d.core.traps = s.d.core.traps →
        v.d.core.status.cons = true → v.Quiet → v.d.core.gang = none → v.d.stops = [] → v.d.core.id = s.d.core.id →
        v.d.core.leaving = true → ∃ t, step s = .next t ∧ left v.d.core t.d.core v.d.core.pc)

/-- GRED, SPLIT, GIDX and GSIZE, what a gang does not permit, and how a gang steps and dissolves (choices: log 20). -/
def Obligations.GangsWorkAndTrap : Prop :=
  Claims.GangsCombine ∧ Claims.GangTraps ∧ Claims.GangsStep

/-- R377, R390, R392: FPT reads the coordinates of the task's point, and FPROG the first row that is not complete and the points in flight of
the queue's first live launch, or all ones; without a point FPT raises FRONT with reason 1. -/
def Claims.FrontierReads : Prop :=
  ∀ (s : State) (rd : SReg) (q : BitVec 10),
    let x := s.d.queueAt q.toNat
    (∀ t0 x0 x1 x2, s.d.core.task = some t0 → t0.work.kind = .point x0 x1 x2 → x0 < 2 ^ 21 → x1 < 2 ^ 21 → x2 < 2 ^ 21 →
      Gives (exec (.fpt rd) s) fun t => WritesScalar s t rd (u64 (x2 + 2 ^ 21 * x1 + 2 ^ 42 * x0))) ∧
    (s.d.core.task = none → CanTrap s → Gives (exec (.fpt rd) s) fun t => EnteredAt s t 0x0E 0 1) ∧
    (x.boundTo s.d.owner = true → x.liveFrontiers = [] → Gives (exec (.fprog rd q) s) fun t => WritesScalar s t rd (u64 (2 ^ 64 - 1))) ∧
    (∀ l rest, x.boundTo s.d.owner = true → x.liveFrontiers = l :: rest → l.frontier.row0 < 2 ^ 42 →
      Gives (exec (.fprog rd q) s) fun t =>
        WritesScalar s t rd (u64 (l.frontier.row0 + 2 ^ 48 * min 65535 l.frontier.inFlight.length))) ∧
    (x.boundTo s.d.owner = false → CanTrap s → Gives (exec (.fprog rd q) s) fun t => EnteredAt s t 0x0E 0 2)

/-- R391: FCUT of a queue with no live frontier launch closes it in abort mode, marks it as cut, and delivers 0 records; of a queue that is cut
and whose records are written it delivers their number again. -/
def Claims.CutsClose : Prop :=
  ∀ (s : State) (rd ra : SReg) (q : BitVec 10),
    let x := s.d.queueAt q.toNat
    s.d.core.status.pl = .supervisor → s.d.core.gang = none → x.boundTo s.d.owner = true → x.liveFrontiers = [] →
    (x.cut = none → (s.d.rd ra).toNat % 64 = 0 → Gives (exec (.fcut rd ra q) s) fun t =>
      ScalarIs s t rd 0 ∧ GoesOn s t ∧ SameOutside s t ∧
      (s.d.host.unmaps = [] →
        t.d.queueAt q.toNat = { x with
          abort := true, cut := some (s.d.rd ra), cutCount := 0, cutDone := true
          state := if x.state = .closed then .closed else if x.pending = [] then .closed else .closing } ∧
        (∀ n, n ≠ q.toNat → t.d.queueAt n = s.d.queueAt n) ∧ t.d.mem = s.d.mem)) ∧
    (x.cut.isSome = true → x.cutDone = true → Gives (exec (.fcut rd ra q) s) fun t => WritesScalar s t rd (u64 x.cutCount))

/-- R377, R379, R396: a fireable point is offered to the lowest-numbered idle core of the owner's clusters in service on the launch's die; where
its cluster has no other work ready and no other queue of its priority or a higher one offers points, the core starts on it and it is in
flight. -/
def Claims.PointsFire : Prop :=
  ∀ (s : State) (q : BitVec 10) (l : Launch) (x0 x1 x2 : Nat),
    let x := s.d.queueAt q.toNat
    let c := s.d.core.id
    let serves (n : Nat) : Prop := coreExists n = true ∧ n < 4096 ∧ s.d.clusters[clusterIx n].owner = x.owner ∧ n / 1024 = l.place.dieOf ∧
      s.d.clusters[clusterIx n].retired = false ∧ (s.d.coreAt n).isIdle = true
    x.findLaunch l.seq = some l → l.started = true → recFrontier l.record = true → x.abort = false → s.d.firesNone x.owner = false →
    l.fireable (x.before l.seq) x0 x1 x2 = true → s.d.clusters[s.d.cluster].pending = [] →
    (∀ y ∈ s.d.queues, y.1 ≠ q.toNat → y.2.liveFrontiers = [] ∨ (s.d.queueAt y.1).prio < x.prio) →
    serves c → (∀ n, serves n → c ≤ n) →
    Gives (exec (.pointFire q l.seq x0 x1 x2) s) fun t =>
      StartsOn s t { work := l.work q.toNat (.point x0 x1 x2), cur := 0, hi := 0 } ∧
      ∃ l', (t.d.queueAt q.toNat).findLaunch l.seq = some l' ∧ l'.frontier.inFlight = l.frontier.inFlight ++ [(x0, x1, x2)] ∧
        l'.frontier.row0 = l.frontier.row0 ∧ l'.frontier.rows = l.frontier.rows ∧ s.d.cluster.val ∈ l'.clusters

/-- R374, R378, R379: in a launch that is not chained, a point is fireable exactly when it lies in the space, is neither complete nor in
flight, its row and column lie in the window, and every predecessor in the space is complete. -/
def Claims.FireableMeans : Prop :=
  ∀ (l : Launch) (before : Option Launch) (x0 x1 x2 : Nat), recChained l.record = false →
    let r := l.record
    let f := l.frontier
    let row (a b : Nat) : Nat := a * recE1 r + b
    l.fireable before x0 x1 x2 = true ↔
      x0 < recE0 r ∧ x1 < recE1 r ∧ x2 < recE2 r ∧ f.isDone (row x0 x1) x2 = false ∧ (x0, x1, x2) ∉ f.inFlight ∧
      row x0 x1 < f.row0 + Config.bandRows ∧ x2 ≤ (f.row (row x0 x1)).1 + 64 ∧
      ∀ i, i < recNv r → ∀ p0 p1 p2 : Nat,
        let v := slotVec (recSlot r i)
        (p0 : Int) = x0 - v.1 → (p1 : Int) = x1 - v.2.1 → (p2 : Int) = x2 - v.2.2 →
        p0 < recE0 r → p1 < recE1 r → p2 < recE2 r → f.isDone (row p0 p1) p2 = true

/-- R378, R380: completing a column of a row, at most 64 past its prefix, makes that column done and leaves every other column as it was. -/
def Claims.ColumnsComplete : Prop :=
  ∀ (done' : Nat) (beyond : BitVec 64) (c : Nat), c ≤ done' + 64 →
    let done (x : Nat × BitVec 64) (k : Nat) : Prop := k < x.1 ∨ (x.1 < k ∧ x.2.getLsbD (k - x.1 - 1) = true)
    ∀ k, done (completeColumn (done', beyond) c) k ↔ done (done', beyond) k ∨ k = c

/-- Frontier launches: reads, cuts, firing and completion of points. -/
def Obligations.FrontierLaunches : Prop :=
  Claims.FrontierReads ∧ Claims.CutsClose ∧ Claims.PointsFire ∧ Claims.FireableMeans ∧ Claims.ColumnsComplete

/-- R189, R190, R213: what DRAW, DKEY, DKSET, DKRD, RESEED, SEEDSET, SEEDRD, EXQ and EXQM write, with FOUNT and its keys spelled out over
numbers. RESEED and SEEDSET change nothing while a window is open. -/
def Claims.DrawUnitInstructions : Prop :=
  ∀ (s : State) (rd ra : SReg) (ds : BitVec 4) (t : BitVec 10) (c : BitVec 3),
    let o := s.d.owner
    let x := s.d.ownerAt o
    let streams (i : Instr) (key : Nat) : Prop := Gives (exec i s) fun u =>
      (∀ k, u.d.rdDs k = if k = ds then u64 key else s.d.rdDs k) ∧ GoesOn s u ∧
      u = s.withCore { s.d.core with stream := u.d.core.stream, pc := u.d.core.pc }
    let installs (i : Instr) (seed : Word → Prop) : Prop :=
      s.d.core.status.pl = .supervisor → s.d.core.gang = none → o < 64 →
      (x.window ≠ [] → Gives (exec i s) fun u => WritesScalar s u rd 1) ∧
      (x.window = [] → Gives (exec i s) fun u =>
        let y := u.d.ownerAt o
        seed y.oseed ∧
        y = { x with oldSeed := x.oseed, oseed := y.oseed, parity := !x.parity, wayCounters := [], arbCounters := []
                     window := (List.range 8).map fun st => (st, 0) } ∧
        (∀ p, p < 64 → p ≠ o → u.d.ownerAt p = s.d.ownerAt p) ∧ ScalarIs s u rd 0 ∧ GoesOn s u ∧ SameCore s u ∧ SameOutside s u ∧
        u.d = { s.d with core := u.d.core, owners := u.d.owners, draws := u.d.draws })
    Gives (exec (.draw rd ds ra) s) (fun u => WritesScalar s u rd (u64 (drawOf (s.d.rdDs ds).toNat ((s.d.rd ra).toNat % 2 ^ 32)))) ∧
    Gives (exec (.dkrd rd ds) s) (fun u => WritesScalar s u rd (s.d.rdDs ds)) ∧
    streams (.dkset ds ra) (s.d.rd ra).toNat ∧
    streams (.dkey ds t) (keyOf x.oseed.toNat (0x100 + t.toNat)) ∧
    Gives (exec (.seedrd rd) s) (fun u => WritesScalar s u rd (if x.seedVisible then x.oseed else 0)) ∧
    installs (.reseed rd) (fun _ => True) ∧ installs (.seedset rd ra) (fun seed => seed = s.d.rd ra) ∧
    Gives (exec (.exq rd ra c) s) (fun u =>
      WritesScalar s u rd (u64 (exqBound (if o = 0 then 1 else x.weights[Fin.ofNat 8 c.toNat]) (s.d.liveWeight c.toNat) (s.d.rd ra).toNat))) ∧
    ((if o = 0 then 64 else x.minimaNow[Fin.ofNat 8 c.toNat]) ≤ 1024 → Gives (exec (.exqm rd c) s) fun u =>
      WritesScalar s u rd (u64 ((if o = 0 then 64 else x.minimaNow[Fin.ofNat 8 c.toNat]) + 2 ^ 32 * s.d.available c.toNat)))

/-- R197, R214: CPLACE reports the block of the address, where it is the executing owner's own and in its home slice, and 0 otherwise; it
changes nothing. -/
def Claims.PlacementIsReported : Prop :=
  ∀ (s : State) (rd ra : SReg) (e : Word) (pa : Nat),
    let va := s.d.rd ra
    let st := homeStack pa
    let reports (x : Nat) : Prop := Gives (exec (.cplace rd ra) s) fun t => WritesScalar s t rd (u64 x)
    (inWindow va = true → reports 0) ∧
    (s.d.Reaches .load va 1 e pa →
      (pteRmt e = true ∨ s.d.mem.frames.get 0 (pa / 4096) ≠ s.d.owner ∨
        (∀ b ∈ s.d.mem.msc.get [] st, b.line = pa / 512 → b.owner ≠ s.d.owner) → pa < 2 ^ 41 → reports 0) ∧
      ∀ b, pteRmt e = false → s.d.mem.frames.get 0 (pa / 4096) = s.d.owner → s.d.findBlock st s.d.owner (lineOf pa) = some b →
        b.set < 4096 → b.way < 16 →
        reports (b.set + 2 ^ 32 * b.way + 2 ^ 40 * st + 2 ^ 62 * (if b.parity = (s.d.ownerAt s.d.owner).parity then 0 else 1) + 2 ^ 63))

/-- DRAW, keys, streams, seeds, exceedance bounds, and CPLACE. -/
def Obligations.DrawsAndPlacement : Prop :=
  Claims.DrawUnitInstructions ∧ Claims.PlacementIsReported

/-- R207: the value of EXQ is never below the probability bound that it states, but for the largest fraction that it can hold. -/
def Obligations.ExqIsAnUpperBound : Prop :=
  ∀ w W k : Nat, 0 < W → w ≤ W → k < 2 ^ 64 →
    let win : Rat := ((w : Rat) * 2 ^ 17 - (W : Rat) ^ 3) / (W * 2 ^ 17)
    let loses : Rat := if win ≤ 0 then 1 else 1 - win
    exqBound w W k < 2 ^ 32 ∧ min (2 ^ 32 * loses ^ k) (2 ^ 32 - 1) ≤ (exqBound w W k : Rat)

/-- R203, R206: a round goes to owner 0 without a draw where its number is a multiple of 16 and owner 0 has a request waiting; otherwise to
the contender whose largest ticket is highest, the lower index in a tie, and each contender has drawn as many tickets as its weight.
The winner's oldest request leaves where the instance accepts it, and stays where it does not. -/
def Obligations.ArbitrationRounds : Prop :=
  ∀ (s : State) (c n : Nat) (accepts : Bool), c < 8 → n < classInstances c →
    let key := 1024 * c + n
    let a (u : State) : ArbInstance := u.d.arbiters.get ArbInstance.reset key
    let contends (o : Nat) : Prop := o ∈ (a s).waiting.map (·.owner)
    let reserved : Prop := (a s).round % 16 = 0 ∧ contends 0
    let weight (o : Nat) : Nat := if o = 0 then 1 else (s.d.ownerAt o).weights[Fin.ofNat 8 c]
    let count (u : State) (o : Nat) : Word32 := (u.d.ownerAt o).arbCounters.get 0 key
    let ticket (o : Nat) : Nat := ((List.range (weight o)).map fun j =>
      drawOf (keyOf (s.d.ownerAt o).oseed.toNat (0x10 + c)) ((count s o).toNat + j) / 2 ^ 16).foldl max 0
    (a s).waiting ≠ [] → (∀ r ∈ (a s).waiting, r.owner < 64) → (∀ o, contends o → (count s o).toNat + weight o < 2 ^ 32) →
    Gives (exec (.arbitrationRound c n accepts) s) fun t =>
      (∃ o, contends o ∧ (reserved → o = 0) ∧
        (¬ reserved → ∀ p, contends p → ticket p < ticket o ∨ (ticket p = ticket o ∧ o ≤ p)) ∧
        (a t).waiting.map (·.owner) = if accepts then ((a s).waiting.map (·.owner)).erase o else (a s).waiting.map (·.owner)) ∧
      (∀ o, o < 64 → (reserved ∨ ¬ contends o) → count t o = count s o) ∧
      (∀ o, ¬ reserved → contends o → count t o = count s o + BitVec.ofNat 32 (weight o)) ∧
      (a t).round = (a s).round + 1 ∧ (∀ k, k ≠ key → t.d.arbiters.get ArbInstance.reset k = s.d.arbiters.get ArbInstance.reset k) ∧
      SameOutside s t ∧ t.d = { s.d with owners := t.d.owners, arbiters := t.d.arbiters }

/-- R199: a sweep moves the old blocks of the owner in the set that it visits one by one, in the order of the ways, each to its set under the
current key and the way that is drawn, under the current parity, with all that it holds; what lies there gives way, and every other block stays.
With no old block left there it goes on to the next set. A swept slice closes its window, and the last one to close discards the old key. -/
def Claims.SweepsMoveBlocks : Prop :=
  ∀ (s : State) (o stack set : Nat), o < 64 →
    let x := s.d.ownerAt o
    let blocks (u : State) : List MscBlock := u.d.mem.msc.get [] stack
    let elsewhere (u : State) : Prop := SameOutside s u ∧ ∀ n, n ≠ stack → u.d.mem.msc.get [] n = s.d.mem.msc.get [] n
    let old (b : MscBlock) : Prop := b.owner = o ∧ b.set = set ∧ b.parity ≠ x.parity
    let moved (b : MscBlock) : MscBlock :=
      { line := b.line, owner := o, parity := x.parity, set := setOf (placementKey x.oseed) b.line
        way := drawOf (keyOf x.oseed.toNat 2) (x.wayCounters.get 0 stack).toNat / 2 ^ 28, valid := b.valid, dirty := b.dirty }
    x.window.find stack = some set →
    (set < 4096 →
      (∀ b ∈ blocks s, old b → b.way < 16 → (∀ c ∈ blocks s, old c → c = b ∨ b.way < c.way) →
        Gives (exec (.sweepMove o stack) s) fun t => elsewhere t ∧
          blocks t = moved b :: (blocks s).filter (fun c => !(decide (c = b) || (decide (c.set = (moved b).set) && decide (c.way = (moved b).way)))) ∧
          (t.d.ownerAt o).window = x.window ∧ (t.d.ownerAt o).wayCounters.get 0 stack = x.wayCounters.get 0 stack + 1 ∧
          (∀ p, p < 64 → p ≠ o → (t.d.ownerAt p).wayCounters = (s.d.ownerAt p).wayCounters) ∧
          (∀ p, p < 64 → t.d.ownerAt p = { s.d.ownerAt p with
            counters := (t.d.ownerAt p).counters, wayCounters := (t.d.ownerAt p).wayCounters, arbCounters := (t.d.ownerAt p).arbCounters }) ∧
          t.d = { s.d with owners := t.d.owners, arbiters := t.d.arbiters, mem := { s.d.mem with msc := t.d.mem.msc } }) ∧
      ((∀ b ∈ blocks s, ¬ old b) → Gives (exec (.sweepMove o stack) s) fun t => SameOutside s t ∧
        (t.d.ownerAt o).window.find stack = some (set + 1) ∧ t.d.ownerAt o = { x with window := (t.d.ownerAt o).window } ∧
        (∀ p, p < 64 → p ≠ o → t.d.ownerAt p = s.d.ownerAt p) ∧ t.d = { s.d with owners := t.d.owners })) ∧
    (4096 ≤ set → Gives (exec (.windowClose o stack) s) fun t =>
      let w := x.window.filter fun e => decide (e.1 ≠ stack)
      elsewhere t ∧ (∀ p, p < 64 → p ≠ o → t.d.ownerAt p = s.d.ownerAt p) ∧ t.d = { s.d with owners := t.d.owners } ∧
      ((x.window.map (·.1)).Nodup → t.d.ownerAt o = { x with window := w, oldSeed := if w = [] then 0 else x.oldSeed }))

/-- R143, R194, R195, R199: an access to bytes of a line at their home slice leaves a block that was placed under the frame owner's current key
where it is, with the sectors of the access filled and those that it writes left to be written back; an older one moves to its set under the
current key, and a missing one is placed there, in the way that is drawn, whatever lies there. -/
def Claims.LookupsPlaceBlocks : Prop :=
  ∀ (d : Dev) (pa n requester : Nat) (written : Option (Nat × Nat)) (m dirt : BitVec 16),
    let covers (mask : BitVec 16) (a k : Nat) : Prop := ∀ j, j < 16 → mask.getLsbD j = decide (a % 512 / 32 ≤ j ∧ 32 * j < a % 512 + k)
    covers m pa n → (written = none → dirt = 0) → (∀ x, written = some x → covers dirt x.1 x.2) →
    let st := homeStack pa
    let o := d.frameOwner pa
    let x := d.ownerAt o
    let line := lineOf pa
    let t := d.mscAccess pa n requester written
    let blocks (u : Dev) : List MscBlock := u.mem.msc.get [] st
    let found := (blocks d).find? fun b => decide (b.line = line) && decide (b.owner = o)
    let new (valid dirty : BitVec 16) : MscBlock :=
      { line := line, owner := o, parity := x.parity, set := setOf (placementKey x.oseed) line
        way := drawOf (keyOf x.oseed.toNat 2) (x.wayCounters.get 0 st).toNat / 2 ^ 28, valid := valid, dirty := dirty }
    let placed (b : MscBlock) (l : List MscBlock) : List MscBlock := b :: l.filter fun c => !(decide (c.set = b.set) && decide (c.way = b.way))
    (∀ k, k ≠ st → t.mem.msc.get [] k = d.mem.msc.get [] k) ∧
    t = { d with owners := t.owners, arbiters := t.arbiters, mem := { d.mem with msc := t.mem.msc } } ∧
    (∀ b, found = some b → b.parity = x.parity → (t.ownerAt o).wayCounters = x.wayCounters ∧
      blocks t = (blocks d).map fun c => if c = b then { b with valid := b.valid ||| m, dirty := b.dirty ||| dirt } else c) ∧
    (∀ b, found = some b → b.parity ≠ x.parity →
      blocks t = placed (new (b.valid ||| m) (b.dirty ||| dirt)) ((blocks d).filter fun c => decide (c ≠ b))) ∧
    (found = none → blocks t = placed (new m dirt) (blocks d))

/-- R204, R210: a unit that leaves service or comes back changes no other unit; the minima in force are then those stated, where they fit
the capacity left, or scaled to it, and the notification core of every tenant whose minima change has MINIMA pending. A link holds
two instances of class 1, one for each direction. That a unit which comes back while others are out leaves the minima scaled to what is
then there is the model's choice (log 19). A change of weights is the owner's from then on; owner 0 keeps its own. -/
def Claims.UnitsLeaveAndReturn : Prop :=
  ∀ (s : State) (u : DevUnit) (o : Nat) (ws : List Nat),
    let links (x : State) : Nat := (x.d.host.outOfService.filter fun v => match v with | .link _ => true | _ => false).length
    let changes (i : Instr) (out : Bool) : Prop := unitExists u = true → s.d.isOut u = !out → Gives (exec i s) fun t =>
      (∀ v, unitExists v = true → t.d.isOut v = if v = u then out else s.d.isOut v) ∧
      (∀ p, p < 64 → p ≠ 0 → (s.d.ownerAt p).live = true → ∀ c : Fin 8,
        let m := (s.d.ownerAt p).minima[c]
        let sum := s.d.minimaSum c.val
        let room := t.d.available c.val
        (t.d.ownerAt p).minimaNow[c] = if 64 + sum ≤ room then m else m * (room - 64) / sum) ∧
      (∀ p n, p < 64 → p ≠ 0 → (s.d.ownerAt p).live = true → (t.d.ownerAt p).minimaNow ≠ (s.d.ownerAt p).minimaNow →
        s.Inv → t.d.notifyCore p = some n → (t.d.coreAt n).ipend.minima = true) ∧
      t.d.available 1 = 1024 * (12 - 2 * links t) / 12 ∧ (∀ n, u = .link n → out = true → links t = links s + 1) ∧
      t.d.available 3 = 1024 * (256 - t.d.mem.retired.length) / 256 ∧
      t.d.mem = { s.d.mem with retired := t.d.mem.retired } ∧ SameOutside s t
    changes (.unitRetirement u) true ∧ changes (.unitReturn u) false ∧
    (o ≠ 0 → o < 64 → (s.d.ownerAt o).live = true → ws.length = 8 → (∀ w ∈ ws, 1 ≤ w ∧ w ≤ 8) →
      Gives (exec (.weightChange o ws) s) fun t =>
        (∀ j : Fin 8, (t.d.ownerAt o).weights[j] = ws.getD j.val 0) ∧ (∀ p, p < 64 → p ≠ o → t.d.ownerAt p = s.d.ownerAt p) ∧
        SameOutside s t ∧ t.d = { s.d with owners := t.d.owners }) ∧
    (∀ ws', Gives (exec (.weightChange 0 ws') s) fun t => t = s)

/-- Lookups place blocks, sweeps move them under the new key, and retired units scale the minima (choices: log 19). -/
def Obligations.SweepsAndMinima : Prop :=
  Claims.SweepsMoveBlocks ∧ Claims.LookupsPlaceBlocks ∧ Claims.UnitsLeaveAndReturn

/-- R400, R403 to R405, R407: what each CELL instruction does to a cell on a DEC page, once what precedes it at the home is performed: PROPOSE
decides an empty cell of its epoch and delivers the winner, CREAD delivers the value or waits, RECYCLE retires and reopens, CINIT empties.
Where only committed bytes concern the grain, the cell is theirs and nothing else changes. CREAD delivers what a copy in its caches has
decided, on a page that migrates too. That CREAD.W waits for its own epoch alone, and returns for another at once, is how log 11 reads R405. -/
def Claims.CellOperations : Prop :=
  ∀ (s : State) (ord : MemOrder) (sc : MemScope) (rd ra rb : SReg) (e : Word) (pa : Nat),
    let va := s.d.rd ra
    let named (x : Word) : Nat := x.toNat / 2 ^ 40
    let epoch (w1 : Nat) : Nat := w1 / 2 ^ 40
    let state (w1 : Nat) : Nat := w1 / 2 ^ 38 % 4
    let cell (d : Dev) : Cell := (d.atCells (leafDev e) pa).readCell e pa
    let released (p : Cell → Prop) : Prop := ∀ d, s.d.releaseIf ord sc = .ok d → p (cell d)
    let ready (kind : AccessKind) : Prop :=
      s.d.Reaches kind va 16 e pa ∧ pteDec e = true ∧ s.d.badAt (leafDev e) pa 16 = none ∧
      (kind = .store → releasing ord = true → s.d.holdsAny s.d.core.id = false)
    let quiet : Prop := s.Inv ∧ s.d.SettledAt e pa ∧ (releasing ord = false ∨ s.d.Clear)
    let found (v0 w1 : Nat) : Prop := v0 < 2 ^ 64 ∧ w1 < 2 ^ 64 ∧
      (quiet → v0 = s.d.valueAt (leafDev e) pa 8 ∧ w1 = s.d.valueAt (leafDev e) (pa + 8) 8)
    let becomes (t : State) (value word1 : Nat) : Prop := GoesOn s t ∧ SameCoreButUncorr s t ∧
      (s.Inv → t.d.valueAt (leafDev e) pa 8 = value ∧ t.d.valueAt (leafDev e) (pa + 8) 8 = word1) ∧
      (quiet → MemoryTakes s t (leafDev e) pa 16 (value + 2 ^ 64 * word1) ∧ SameCore s t ∧ SameButMemory s t)
    let pair (t : State) (value word : Nat) : Prop := LoadedInto s t rd 16 false (value + 2 ^ 64 * word)
    (ready .store → released (fun c => c.reserved = false) → rd.toNat % 2 = 0 → rb.toNat % 2 = 0 →
      let v := (s.d.rd rb).toNat
      let x := s.d.rd (rb + 1)
      x.toNat / 2 ^ 32 % 256 = 0 →
      Gives (exec (.propose ord sc rd ra rb) s) fun t => ∃ v0 w1, found v0 w1 ∧
        if epoch w1 ≠ named x then pair t (if state w1 = 0 then 0 else v0) (w1 + 2 ^ 33) ∧ becomes t v0 w1
        else if state w1 = 0 then
          let w := epoch w1 * 2 ^ 40 + 2 ^ 38 + x.toNat % 2 ^ 32
          pair t v w ∧ becomes t v w
        else pair t v0 (w1 + 2 ^ 32) ∧ becomes t v0 w1) ∧
    (∀ wait, ready .load → (cell s.d).reserved = false → rd.toNat % 2 = 0 →
      let fits (w1 : Nat) : Prop := epoch w1 = named (s.d.rd rb)
      (s.d.cellHit va (epochOf (s.d.rd rb)) = none →
        (wait = true ∧ exec (.cread wait ord sc rd ra rb) s = .next (s.withCore { s.d.core with stall := 3 }) ∧
          ∃ v0 w1, found v0 w1 ∧ fits w1 ∧ state w1 = 0) ∨
        Gives (exec (.cread wait ord sc rd ra rb) s) fun t => ∃ v0 w1, found v0 w1 ∧ becomes t v0 w1 ∧
          (fits w1 → state w1 ≠ 0 → pair t v0 w1) ∧
          (fits w1 → state w1 = 0 → wait = false ∧ pair t 0 (w1 + 2 ^ 32)) ∧
          (¬ fits w1 → pair t (if state w1 = 0 then 0 else v0) (w1 + 2 ^ 33)))) ∧
    (∀ wait v0 w1 level, va.toNat % 16 = 0 → canonical va = true → inLocalRange va = false → (s.d.tlbLookup s.d.cluster s.d.owner va).isSome = true →
      s.d.leafFor s.d.cluster s.d.owner va = .leaf e level → leafCheck (e &&& ~~~ 0x40) s.d.core.status.pl .load va = .ok (e &&& ~~~ 0x40) pa →
      pteDec e = true → rd.toNat % 2 = 0 → w1 / 2 ^ 40 = named (s.d.rd rb) → state w1 = 1 ∨ state w1 = 2 → w1 < 2 ^ 64 → v0 < 2 ^ 64 →
      w1 / 2 ^ 32 % 64 = 0 →
      let covers (c : SliceCopy) : Prop := c.cell = true ∧ c.cluster = s.d.cluster.val ∧ (c.core = none ∨ c.core = some s.d.core.id) ∧
        c.dev = leafDev e ∧ c.gen = s.d.gen ∧ c.base ≤ pa ∧ pa + 16 ≤ c.base + c.size
      let holds (c : SliceCopy) : Prop := (c.bytes.drop (pa - c.base)).take 16 = bytesOf 8 v0 ++ bytesOf 8 w1
      (∃ c ∈ s.d.mem.copies, covers c) → (∀ c ∈ s.d.mem.copies, covers c → holds c) →
      Gives (exec (.cread wait ord sc rd ra rb) s) fun t => pair t v0 w1 ∧ GoesOn s t ∧ SameOutside s t ∧ SameCore s t ∧ OwnersCount s t ∧
        t.d.mem.copies.Perm s.d.mem.copies ∧
        t.d = { s.d with core := t.d.core, owners := t.d.owners, mem := { s.d.mem with copies := t.d.mem.copies } }) ∧
    (ready .store → released (fun c => c.reserved = false ∧ c.epoch ≠ BitVec.allOnes 24) →
      let fits (w1 : Nat) : Prop := epoch w1 = named (s.d.rd rb)
      (Gives (exec (.recycleRetire ord sc rd ra rb) s) fun t => ∃ v0 w1, found v0 w1 ∧
        ScalarIs s t rd (u64 w1) ∧ if fits w1 ∧ state w1 = 1 then becomes t v0 (w1 + 2 ^ 38) else becomes t v0 w1) ∧
      Gives (exec (.recycleOpen ord sc rd ra rb) s) fun t => ∃ v0 w1, found v0 w1 ∧
        ScalarIs s t rd (u64 w1) ∧ if fits w1 ∧ state w1 = 2 then becomes t 0 ((epoch w1 + 1) * 2 ^ 40) else becomes t v0 w1) ∧
    (ready .store → s.d.core.status.pl = .supervisor →
      Gives (exec (.cinit ord sc ra rb) s) fun t =>
        becomes t 0 (named (s.d.rd rb) * 2 ^ 40) ∧ t.d.core.s = s.d.core.s ∧
        ∀ c ∈ t.d.mem.copies, c.dev = leafDev e →
          let o := s.d.clusters[Fin.ofNat 32 c.cluster].owner
          o = s.d.owner ∨ (leafDev e = none ∧ o = s.d.frameOwner pa) → overlap c.base c.size (grainBase pa 32) 32 = false)

/-- R402, R400: where CELL instructions trap: MISALIGN, and CELL with reason 1 off a DEC page, 6 for a bit that must be zero, 2 for a
reserved word 1 and 3 for a RECYCLE at the last epoch, which stands before the cell's state. Nothing is written. -/
def Claims.CellTraps : Prop :=
  ∀ (s : State) (ord : MemOrder) (sc : MemScope) (rd ra rb : SReg) (wait : Bool) (e : Word) (pa : Nat), s.Inv → CanTrap s →
    let va := s.d.rd ra
    let w1 := s.d.valueAt (leafDev e) (pa + 8) 8
    let traps (i : Instr) (code : BitVec 6) (finfo : Word) : Prop := Gives (exec i s) fun t => EnteredAt s t code va finfo
    let writers : List Instr := [.propose ord sc rd ra rb, .recycleRetire ord sc rd ra rb, .recycleOpen ord sc rd ra rb]
    let quiet : Prop := s.d.SettledAt e pa ∧ pteDec e = true ∧ (releasing ord = false ∨ s.d.Clear)
    (va.toNat % 16 ≠ 0 → (∀ i ∈ writers, traps i 0x03 0x14) ∧ traps (.cread wait ord sc rd ra rb) 0x03 0x04 ∧
      (s.d.core.status.pl = .supervisor → traps (.cinit ord sc ra rb) 0x03 0x14)) ∧
    (s.d.Reaches .load va 16 e pa → pteDec e = false → traps (.cread wait ord sc rd ra rb) 0x0D 1) ∧
    (s.d.Reaches .store va 16 e pa →
      (pteDec e = false → (∀ i ∈ writers, traps i 0x0D 1) ∧ (s.d.core.status.pl = .supervisor → traps (.cinit ord sc ra rb) 0x0D 1)) ∧
      (pteDec e = true → (s.d.rd (rb + 1)).toNat / 2 ^ 32 % 256 ≠ 0 → traps (.propose ord sc rd ra rb) 0x0D 6) ∧
      (quiet → (w1 / 2 ^ 38 % 4 = 3 ∨ w1 / 2 ^ 32 % 64 ≠ 0) →
        traps (.recycleRetire ord sc rd ra rb) 0x0D 2 ∧ traps (.recycleOpen ord sc rd ra rb) 0x0D 2 ∧
        ((s.d.rd (rb + 1)).toNat / 2 ^ 32 % 256 = 0 → traps (.propose ord sc rd ra rb) 0x0D 2)) ∧
      (quiet → w1 / 2 ^ 38 % 4 ≠ 3 → w1 / 2 ^ 32 % 64 = 0 → w1 / 2 ^ 40 = 2 ^ 24 - 1 →
        traps (.recycleRetire ord sc rd ra rb) 0x0D 3 ∧ traps (.recycleOpen ord sc rd ra rb) 0x0D 3))

/-- Decide-once cells: their transitions and their traps (choices: log 11). -/
def Obligations.DecideOnceCells : Prop :=
  Claims.CellOperations ∧ Claims.CellTraps

/-- R55, R145, R146: a store that its home can take is placed, with every other slice that holds a tracked copy of its grain to be updated; an
update leaves the bytes pending at the sharer, unless its own later store covers them; with every sharer acknowledged the bytes are
committed to memory; and a sharer that hears of it is struck off. A home takes a grain's stores one at a time, a cluster's own in order,
and its messages reach a slice in the order in which it sent them. -/
def Obligations.StoresBecomeCommitted : Prop :=
  ∀ (s : State) (r : StoreRec) (k : Nat), s.Inv → s.d.mem.stores.find? (fun x => decide (x.id = r.id)) = some r →
    let m := s.d.mem
    let becomes (t : State) (p : StorePhase) (number : Bool) : Prop :=
      t.d.mem.stores = m.stores.map (fun x =>
        if x.id = r.id then { x with phase := p, order := if number then m.nextOrder else x.order } else x) ∧
      t.d.mem.nextOrder = m.nextOrder + if number then 1 else 0
    let leaves (t : State) : Prop := t.d.mem.stores = m.stores.filter fun x => decide (x.id ≠ r.id)
    let still (t : State) : Prop := SameOutside s t ∧ t.d.core = s.d.core ∧ t.d.others = s.d.others ∧ t.d.clusters = s.d.clusters ∧
      t.d.mem.partials = m.partials
    let kept (t : State) : Prop := t.d.mem.hbm = m.hbm ∧ t.d.mem.pod = m.pod ∧ t.d.mem.copies = m.copies
    let base := grainBase r.pa r.grain
    let free : Prop := ∀ x ∈ m.stores, x.dev = r.dev → grainBase x.pa x.grain = grainBase r.pa x.grain →
      match x.phase with
      | .sent => x.cluster = r.cluster → r.id ≤ x.id
      | .placed _ _ => False
      | .committed _ => True
    let turn : Prop := ∀ x ∈ m.stores, x.messageTo k = true → homeStack x.pa = homeStack r.pa → r.order ≤ x.order
    (r.phase = .sent → free → (∀ p ∈ m.partials, p.inGrain r.dev base r.grain = false) →
      Gives (exec (.storeAtHome r.id) s) fun t => ∃ sharers,
        (∀ n, n ∈ sharers ↔ r.dev = none ∧ ∃ c ∈ m.copies, c.cluster = n ∧ n ≠ r.cluster ∧ c.tracked = true ∧ c.dev = none ∧
          overlap c.base c.size base r.grain = true) ∧
        becomes t (.placed sharers []) true ∧ kept t ∧ still t) ∧
    (r.phase = .sent → ¬ free → Gives (exec (.storeAtHome r.id) s) fun t => t = s) ∧
    (∀ unacked pending, r.phase = .placed unacked pending → k ∈ unacked →
      (turn → Gives (exec (.update r.id k) s) fun t =>
        becomes t (.placed (unacked.filter fun n => decide (n ≠ k)) (if s.d.ownCovers k r then pending else pending ++ [k])) false ∧
          kept t ∧ still t) ∧
      (¬ turn → Gives (exec (.update r.id k) s) fun t => t = s)) ∧
    (∀ pending x, r.phase = .placed [] pending → r.bytes = bytesOf r.bytes.length x → r.pa + r.bytes.length ≤ 2 ^ 48 →
      (∀ u ∈ m.bad, u.dev = r.dev → overlap (64 * u.unit) 64 r.pa r.bytes.length = false) →
      Gives (exec (.commit r.id) s) fun t =>
        MemoryTakes s t r.dev r.pa r.bytes.length x ∧ (if pending = [] then leaves t else becomes t (.committed pending) true) ∧ still t) ∧
    (∀ pending, r.phase = .committed pending →
      (turn → Gives (exec (.commitAtSharer r.id k) s) fun t =>
        let rest := pending.filter fun n => decide (n ≠ k)
        (if rest = [] then leaves t else becomes t (.committed rest) false) ∧ kept t ∧ still t) ∧
      (¬ turn → Gives (exec (.commitAtSharer r.id k) s) fun t => t = s))

/-- R142 to R144, R147, R157, R399: a miss in a page that the cluster has cached fills the page's whole grain into the slice, with the committed
bytes, and the home tracks it unless the page is sealed; cells are never filled. A set of sixteen blocks keeps to sixteen: another block
of it goes. An eviction drops the slice's copy of a grain, and the reuse of a directory entry every tracked one. -/
def Claims.SlicesFillAndEvict : Prop :=
  ∀ (s : State) (cluster pa : Nat), s.Inv → cluster < 32 →
    let k : Fin 32 := Fin.ofNat 32 cluster
    let before := s.d.mem.copies
    let covers (c : SliceCopy) : Prop := c.dev = none ∧ overlap c.base c.size pa 1 = true
    let still (t : State) : Prop := SameOutside s t ∧ t.d.core = s.d.core ∧ t.d.clusters = s.d.clusters ∧
      t.d.mem.hbm = s.d.mem.hbm ∧ t.d.mem.pod = s.d.mem.pod
    (∀ e, s.d.leafOfPa k pa = some e →
      let g := grainBytes e
      let base := grainBase pa g
      let rivals (l : List SliceCopy) : List (Option (BitVec 12) × Nat) :=
        ((l.filter fun x => x.core.isNone && decide (x.cluster = cluster) && decide (x.base / 512 % 2048 = base / 512 % 2048)).map
          fun x => (x.dev, x.base / 512)).eraseDups
      (pteDec e = true → Gives (exec (.loadMiss cluster pa) s) fun t => t = s) ∧
      (pteDec e = false → inHbm pa 1 = true → s.d.copyFor k none pa 1 = none → s.d.Settled none base g →
        Gives (exec (.loadMiss cluster pa) s) fun t =>
          (∃ c ∈ t.d.mem.copies, c.cluster = cluster ∧ c.core = none ∧ c.dev = none ∧ c.base = base ∧ c.size = g ∧
            c.gen = s.d.clusters[k].gen ∧ c.cell = false ∧ (c.tracked = false ↔ pteSl e = true) ∧
            (∀ i, i < g → c.bytes.getD i 0 = s.d.mem.hbm.get (base + i)) ∧
            (∀ x ∈ t.d.mem.copies, x = c ∨ x ∈ before ∧
              (x.cluster = cluster → x.core = none → x.dev = none → overlap x.base x.size base g = false)) ∧
            (∀ x ∈ before, x ∉ t.d.mem.copies → x.cluster = cluster ∧
              ((x.core = none ∧ x.dev = none ∧ overlap x.base x.size base g = true) ∨ 16 ≤ (rivals before).length))) ∧
          ((rivals before).length ≤ 16 → (rivals t.d.mem.copies).length ≤ 16) ∧ still t)) ∧
    (s.d.leafOfPa k pa = none → Gives (exec (.loadMiss cluster pa) s) fun t => t = s) ∧
    (let h := copyHome pa
     let found := before.find? fun c => c.core.isNone && decide (c.cluster = cluster) && decide (c.dev = h.1) && overlap c.base c.size h.2 1
     (found = none → Gives (exec (.grainEviction cluster pa) s) fun t => t = s) ∧
     ∀ c, found = some c → Gives (exec (.grainEviction cluster pa) s) fun t =>
      t.d.mem.copies = before.filter (fun x => !(decide (x = c) ||
        (c.tracked && decide (x.cluster = cluster) && x.tracked && decide (x.dev = c.dev) && overlap x.base x.size c.base c.size))) ∧
      (∀ x ∈ t.d.mem.stores, ∃ y ∈ s.d.mem.stores, x = { y with phase := x.phase } ∧ x.phase.stage = y.phase.stage) ∧ still t) ∧
    ((∀ c ∈ before, covers c → ∀ r ∈ s.d.mem.stores, r.dev = none → overlap c.base c.size r.pa r.bytes.length = false) →
      Gives (exec (.directoryEntryReuse pa) s) fun t =>
        t.d.mem.copies = before.filter (fun c => !(c.tracked && decide (c.dev = none) && overlap c.base c.size pa 1)) ∧ still t)

/-- R16, R41, R144, R152 to R154, R343: a fetch from a page that the translation cache does not hold is a walk first, and one of a word that the
core's instruction cache does not hold is a miss, which fills the grain from the slice, or from the home into both; the core tries again. That
each is a step of its own is the model's choice (log 7). -/
def Claims.FetchesMiss : Prop :=
  ∀ (s : State) (e : Word) (pa : Nat),
    let d := s.d
    let pc := d.core.pc
    let k := d.cluster
    pc.toNat % 4 = 0 → inLocalRange pc = false →
    (d.translateNow k d.owner d.core.status.pl .fetch pc = .ok e pa → d.tlbLookup k d.owner pc = none →
      d.fetch = .error (.left (d.pageWalk k.val pc) 0xC)) ∧
    (d.translate k d.owner d.core.status.pl .fetch pc = .ok e pa → remoteRefuses e = false → pteDec e = false →
      d.codeFor k d.core.id (leafDev e) pa = none →
      let fromSlice (x : Dev) : Dev := match x.copyFor k (leafDev e) pa 4 with
        | none => x
        | some c => (x.touch c).keepCopy { c with core := some d.core.id, code := true }
      (d.copyFor k (leafDev e) pa 4 ≠ none → d.fetch = .error (.left (fromSlice d) 0x1)) ∧
      (d.copyFor k (leafDev e) pa 4 = none → d.badAt (leafDev e) (grainBase pa (grainBytes e)) (grainBytes e) = none →
        d.fetch = .error (.left (fromSlice ((d.event d.owner 0x02).fillGrain k none (leafDev e) pa (grainBytes e) (!pteSl e) false)) 0x1)))

/-- R172, R174: a slice that accepts a reduction adds it to its partials and invalidates the tracked copies of the grain; partials given up
go to the home, those that are folded exactly as they are. Memory does not change. -/
def Claims.PartialsAreKept : Prop :=
  ∀ (s : State) (cluster pa : Nat) (r : RedRequest), cluster < 32 →
    let k : Fin 32 := Fin.ofNat 32 cluster
    let n := r.ty.bits / 8
    let g := s.d.grainOfPa k r.pa
    let mine (p : PartialRec) : Prop :=
      p.cluster = some cluster ∧ p.dev = none ∧ p.base = grainBase pa (s.d.grainOfPa k pa)
    let still (t : State) : Prop := t = { s with d := { s.d with
      mem := { s.d.mem with partials := t.d.mem.partials, copies := t.d.mem.copies } } }
    (redAllowed r.op r.ty r.arr = true → inHbm r.pa n = true → r.pa % n = 0 →
      (∀ x ∈ s.d.mem.stores, x.cluster = cluster → x.dev = none → overlap r.pa n x.pa x.bytes.length = false) →
      Gives (exec (.redAcceptance cluster r) s) fun t =>
        t.d.mem.partials = s.d.mem.partials ++
          [{ core := 128 * cluster, cluster := some cluster, dev := none, base := grainBase r.pa g, request := r }] ∧
        (∀ c, c ∈ t.d.mem.copies ↔ c ∈ s.d.mem.copies ∧
          ¬ (c.dev = none ∧ c.tracked = true ∧ overlap c.base c.size (grainBase r.pa g) g = true)) ∧ still t) ∧
    Gives (exec (.partialGiveUp cluster pa) s) fun t =>
      (∀ p ∈ t.d.mem.partials, ¬ mine p) ∧
      (∀ p ∈ s.d.mem.partials, ¬ mine p → p ∈ t.d.mem.partials) ∧
      (∀ p ∈ s.d.mem.partials, mine p → redIsArrival p.request = false → { p with cluster := none } ∈ t.d.mem.partials) ∧
      t.d.mem.copies = s.d.mem.copies ∧ still t

/-- R153, R154: a miss of a cluster's translation cache walks its owner's table, and a valid leaf is cached, so that the address next
translates from the cache; a walk that fails caches nothing. What was cached stays, and an address that is cached is not walked. -/
def Claims.WalksFillTheTranslationCache : Prop :=
  ∀ (s : State) (cluster : Nat) (va : Word), cluster < 32 →
    let k : Fin 32 := Fin.ofNat 32 cluster
    let o := s.d.clusters[k].owner
    (s.d.tlbLookup k o va ≠ none → Gives (exec (.pageWalk cluster va) s) fun t => t = s) ∧
    (canonical va = true → inLocalRange va = false → s.d.tlbLookup k o va = none → (s.d.ownerAt o).root ≠ none → s.d.mem.partials = [] →
    Gives (exec (.pageWalk cluster va) s) fun t =>
      (∀ e n, s.d.walk o va = .leaf e n → t.d.tlbLookup k o va = some e) ∧
      (∀ n, s.d.walk o va = .fails n → t.d.clusters = s.d.clusters) ∧
      (∀ v, s.d.tlbLookup k o v ≠ none → t.d.tlbLookup k o v ≠ none) ∧ (∀ j, j ≠ k → t.d.clusters[j] = s.d.clusters[j]) ∧
      SameOutside s t ∧
      t.d = { s.d with clusters := t.d.clusters, owners := t.d.owners, arbiters := t.d.arbiters, mem := { s.d.mem with msc := t.d.mem.msc } })

/-- Slices fill and evict, fetches miss, partials are kept and combined, walks fill the translation cache (choices: log 7). -/
def Obligations.FillsPartialsAndWalks : Prop :=
  Claims.SlicesFillAndEvict ∧ Claims.FetchesMiss ∧ Claims.PartialsAreKept ∧ Claims.WalksFillTheTranslationCache

/-- R133, R177, R303, R408: a refusal by a remote home is a trap of the load, the fetch, the atomic or the CELL instruction, and ends a command
with PROT, here at the row that it has come to; a write that had retired leaves the home's queue and becomes an orphan of its cluster's
slice, which has room for it. FINFO of a refused atomic is that of its store, which is how log 11 reads R133. -/
def Claims.RemoteHomesRefuse : Prop :=
  ∀ (s : State) (va : Word) (cluster : Nat) (r : StoreRec) (q : PartialRec),
    let k : Fin 32 := Fin.ofNat 32 cluster
    let room : Prop := cluster < 32 ∧ s.d.clusters[k].orphans.length < Config.orphanDepth
    let orphans (t : State) (o : Orphan) : Prop := t.d.clusters[k].orphans = s.d.clusters[k].orphans ++ [o] ∧
      (∀ j, j ≠ k → t.d.clusters[j] = s.d.clusters[j]) ∧ t.d.mem.hbm = s.d.mem.hbm ∧ t.d.mem.pod = s.d.mem.pod ∧ SameOutside s t
    (CanTrap s → s.d.core.run = .running →
      Gives (exec (.remoteRefusal (.load s.d.core.id va)) s) (fun t => EnteredAt s t 0x05 va 2) ∧
      Gives (exec (.remoteRefusal (.fetch s.d.core.id va)) s) (fun t => EnteredAt s t 0x05 va 0x22) ∧
      Gives (exec (.remoteRefusal (.atomic s.d.core.id va)) s) (fun t => EnteredAt s t 0x05 va 0x12) ∧
      Gives (exec (.remoteRefusal (.cell s.d.core.id va)) s) fun t => EnteredAt s t 0x0D va 5) ∧
    (∀ (port : BitVec 2) (c : Command) (rest : List Command) (v e : Word) (pa : Nat),
      let x := s.d.core
      x.port[port.toFin].commands = c :: rest → c.result = none → s.d.commandCode c = 0 → c.low = [] → c.rowsDone < c.rows →
      s.d.rowWalked c c.rowsDone = s.d → s.d.checkRow c c.rowsDone .none = .ok → s.d.rowSource c c.rowsDone = [(.mem v, v)] →
      s.d.translateNow s.d.cluster s.d.owner c.level .load va = .ok e pa → pteRmt e = true → (va - v).toNat < c.len → s.d.mem.stores = [] →
      x.yielded = [] → c.task = x.task.map (·.piece) → (∀ p : Fin 4, p ≠ port.toFin → ∀ y ∈ x.port[p].commands.head?, y.started = false) →
      x.port[c.cq].done.length < 16 →
      Gives (exec (.remoteRefusal (.row x.id port va)) s) fun t =>
        t.d.core.port[port.toFin].commands = rest ∧
        t.d.core.port[c.cq].done = x.port[c.cq].done ++ [elementOf va c.rowsDone c.tag.toNat port.toNat 7] ∧
        t = s.withCore { x with port := t.d.core.port }) ∧
    (room → r ∈ s.d.mem.stores → r.cluster = cluster → r.dev ≠ none →
      (∀ x ∈ s.d.mem.stores, x.pa = r.pa → x.va = r.va → x.bytes = r.bytes → x.cluster = r.cluster → x.dev ≠ none → x = r) →
      Gives (exec (.remoteRefusal (.write cluster r.pa r.va r.bytes r.owner r.kid)) s) fun t =>
        orphans t { owner := r.owner, core := r.core, level := r.level, va := r.va, kid := r.kid, red := none, bytes := r.bytes
                    reported := false } ∧
        ∀ x, x ∈ t.d.mem.stores ↔ x ∈ s.d.mem.stores ∧ x.id ≠ r.id) ∧
    (room → q ∈ s.d.mem.partials → q.cluster = some cluster → q.dev ≠ none →
      Gives (exec (.remoteRefusal (.red cluster q.request)) s) fun t =>
        orphans t { owner := q.request.owner, core := 128 * cluster, level := .user, va := q.request.va, kid := q.request.kid
                    red := some q.request, bytes := [], reported := false } ∧
        t.d.mem.partials.length + 1 = s.d.mem.partials.length)

/-- R159, R160: a scrub drops the stale copies and translations of its cluster and zeroes its stale scratchpad rows and
registers, so that everything reads as before and no old value is left under a tag that comes again; at its end the cluster may change owner again, or the owner
change that has come meanwhile takes its generation step and is scrubbed in its turn, which is how log 15 reads R159 and R160. A cluster that
is not scrubbing is left alone. -/
def Claims.ScrubsChangeNoValue : Prop :=
  ∀ (s : State) (cluster : Nat), s.Inv → cluster < 32 →
    let k : Fin 32 := Fin.ofNat 32 cluster
    let g := s.d.clusters[k].gen
    let clean (t : State) : Prop :=
      (∀ c,
        let x := t.d.coreAt c
        let y := s.d.coreAt c
        let h := s.d.clusters[clusterIx c].gen
        x = { y with pad := x.pad, s := x.s, v := x.v, p := x.p, desc := x.desc, stream := x.stream, acc := x.acc } ∧
        (∀ i, x.pad.get h i = y.pad.get h i) ∧
        (∀ n : Fin 32, x.s[n].read h = y.s[n].read h ∧ x.v[n].read h = y.v[n].read h ∧
          (clusterIx c = k → (x.s[n].gen = g ∨ x.s[n].val = 0) ∧ (x.v[n].gen = g ∨ x.v[n].val = 0))) ∧
        (∀ n : Fin 8, x.p[n].read h = y.p[n].read h) ∧
        (∀ n : Fin 16, x.desc[n].read h = y.desc[n].read h ∧ x.stream[n].read h = y.stream[n].read h) ∧
        ∀ n : Fin 4, x.acc[n] = { y.acc[n] with working := x.acc[n].working, visible := x.acc[n].visible } ∧
          ∀ i : Fin 512, x.acc[n].working.at h i = y.acc[n].working.at h i ∧ x.acc[n].visible.at h i = y.acc[n].visible.at h i) ∧
      (∀ x, x ∈ t.d.mem.copies ↔ x ∈ s.d.mem.copies ∧ (x.cluster = cluster → x.gen = g)) ∧
      (∀ x, x ∈ t.d.clusters[k].tlb ↔ x ∈ s.d.clusters[k].tlb ∧ x.gen = g) ∧
      (∀ j, j ≠ k → t.d.clusters[j] = s.d.clusters[j]) ∧
      SameOutside s t ∧ t.d.owners = s.d.owners ∧ t.d.mem = { s.d.mem with copies := t.d.mem.copies }
    (s.d.clusters[k].scrubbing = true →
      Gives (exec (.scrub cluster) s) (fun t => clean t ∧ t.d.clusters[k].scrubbing = true ∧ t.d.clusters[k].gen = g) ∧
      Gives (exec (.scrubEnd cluster) s) fun t => clean t ∧
        match s.d.clusters[k].next with
        | none => t.d.clusters[k].scrubbing = false ∧ t.d.clusters[k].gen = g
        | some o => t.d.clusters[k].scrubbing = true ∧ t.d.clusters[k].gen = g + 1 ∧ t.d.clusters[k].former = o ∧
          t.d.clusters[k].next = none) ∧
    (s.d.clusters[k].scrubbing = false → Gives (exec (.scrub cluster) s) (fun t => t = s) ∧ Gives (exec (.scrubEnd cluster) s) fun t => t = s)

/-- Refusals by remote homes, and scrubs that change no value (choices: log 11, 15). -/
def Obligations.RefusalsAndScrubs : Prop :=
  Claims.RemoteHomesRefuse ∧ Claims.ScrubsChangeNoValue

/-- R342, R344, R345, R347: CTRD reads a counter of the owner, CTSEL writes a list position and zeroes its two counters, TSTAMP writes PTP
time as seconds and nanoseconds, and PROOF arms the one trigger, or answers BUSY. -/
def Claims.PerfInstructions : Prop :=
  ∀ (s : State) (rd ra : SReg) (n : BitVec 10) (slot : BitVec 5),
    let o := s.d.owner
    let x := s.d.ownerAt o
    let now := s.gcycle
    let free : Prop := s.d.core.status.pl = .supervisor ∧ s.d.core.gang = none
    (Gives (exec (.ctrd rd n) s) fun t => WritesScalar s t rd (u64 (x.counters.get 0 n.toNat))) ∧
    (rd.toNat % 2 = 0 → Gives (exec (.tstamp rd) s) fun t =>
      let time := s.d.toff + now
      LoadedInto s t rd 16 false (time / 10 ^ 9 % 2 ^ 48 + 2 ^ 64 * (time % 10 ^ 9)) ∧ GoesOn s t ∧ SameButScalars s t) ∧
    (free → Gives (exec (.ctsel ra slot) s) fun t =>
      let y := t.d.ownerAt o
      let code := (s.d.rd ra).toNat % 256
      (∀ j : Fin 32, (y.events[j]).toNat =
        if j.val = slot.toNat then (if 1 ≤ code ∧ code ≤ 14 then code else 0) else (x.events[j]).toNat) ∧
      (∀ k, y.counters.get 0 k = if k = 0x100 + slot.toNat ∨ k = 0x120 + slot.toNat then 0 else x.counters.get 0 k) ∧
      y = { x with events := y.events, counters := y.counters } ∧
      (∀ p : Fin 64, p ≠ Fin.ofNat 64 o → t.d.owners[p] = s.d.owners[p]) ∧
      GoesOn s t ∧ SameOutside s t ∧ t.d = { s.d with core := { s.d.core with pc := t.d.core.pc }, owners := t.d.owners }) ∧
    (free → s.d.trigger ≠ none → Gives (exec (.proof rd ra) s) fun t => WritesScalar s t rd 0) ∧
    (free → s.d.trigger = none → Gives (exec (.proof rd ra) s) fun t =>
      let p := max (s.d.rd ra).toNat (now + 4096)
      t.d.trigger = some { owner := o, tick := p, whole := false, latched := none } ∧ ScalarIs s t rd (u64 p) ∧ GoesOn s t ∧ SameCore s t ∧
        SameOutside s t ∧
      t.d = { s.d with core := t.d.core, trigger := t.d.trigger })

/-- R343: for a tick that is a multiple of 65,536 the slots of every owner take the next non-empty positions of its list in cyclic order,
eight or all of them, once, and nothing else changes; time that passes on from that tick does the same where no step has. -/
def Claims.SlotsRotate : Prop :=
  ∀ (s : State),
    let period := s.gcycle / 65536
    (period ≤ s.d.rotated → Gives (exec .counterSlotRotation s) fun t => t = s) ∧
    (s.d.rotated < period → Gives (exec .counterSlotRotation s) fun t =>
      (∀ o, o < 64 →
        let x := s.d.ownerAt o
        let y := t.d.ownerAt o
        let full := (List.range 32).filter fun j => decide (x.events[Fin.ofNat 32 j] ≠ 0)
        let next (l : List Nat) : Prop := y.counting.map (·.1) = l.take 8
        y.counting.length = min 8 full.length ∧
        (∀ c ∈ y.counting, c.1 ∈ full ∧ c.2 = x.events[Fin.ofNat 32 c.1]) ∧ (y.counting.map (·.1)).Nodup ∧
        (∀ l, x.counting.getLast? = some l → next (full.filter (fun j => decide (l.1 < j)) ++ full.filter fun j => decide (j ≤ l.1))) ∧
        (x.counting = [] → next full) ∧ y = { x with counting := y.counting }) ∧
      (s.d.stops = [] → ∀ o, o < 64 → ((s.pass 1).d.ownerAt o).counting = (t.d.ownerAt o).counting) ∧
      SameOutside s t ∧ t.d = { s.d with owners := t.d.owners, rotated := period })

/-- R344, R417: a step of the servo counts its cycle twice or not at all and sets the offset, and at least 4,096 cycles lie between two
such steps; a message of PTP at a port that is up lets the servo follow, and its loss holds it over and is reported. -/
def Claims.TimeIsKept : Prop :=
  ∀ (s : State) (extra : Bool) (toff port : Nat),
    let ready : Prop := s.d.host.ptpLocked = true ∧ ∀ x, s.d.servo = some x → x + 4096 ≤ s.gcycle
    let usable : Prop := port < 12 ∧ DevUnit.port port ∉ s.d.host.outOfService ∧ DevUnit.port port ∉ s.d.host.unreported
    (ready → Gives (exec (.gcycleStep extra toff) s) fun t =>
      t = { s with gcycle := s.gcycle + if extra then 2 else 0, d := { s.d with toff := toff, servo := some s.gcycle } }) ∧
    (¬ ready → Gives (exec (.gcycleStep extra toff) s) fun t => t = { s with gcycle := s.gcycle + 1 }) ∧
    (usable → s.d.host.powered = true → s.d.host.power ≠ .sleep → Gives (exec (.ptpMessage port) s) fun t =>
      t = { s with d := { s.d with host := { s.d.host with ptpLocked := true } } }) ∧
    (¬ usable ∨ s.d.host.powered = false → Gives (exec (.ptpMessage port) s) fun t => t = s) ∧
    Gives (exec .ptpLoss s) fun t =>
      t = { s with d := { s.d with host := { s.d.host with ptpLocked := false, notices := s.d.host.notices ++ [.holdover] } } }

/-- Counters, event lists, timestamps, the rotation of slots and the time servo. -/
def Obligations.CountersSlotsAndTime : Prop :=
  Claims.PerfInstructions ∧ Claims.SlotsRotate ∧ Claims.TimeIsKept

/-- R338, R339, R341: a core sampled at its tick of the period: the record goes to its owner's ring and WCOUNT is one more, or it is
dropped and counted where the ring is full. At any other tick nothing happens, nor where the sampler of its cluster skips it, or has sampled it
at this tick. A sample takes no cycle, so that every cluster's sampler can act at one tick. Here no store, reduction or error is outstanding.
That an owner without a ring has its samples dropped and counted is how log 23 reads R341, and what a core's stall reason is while the vector
engine has earlier instructions to complete is the model's choice (log 23). -/
def Claims.SamplesAreWritten : Prop :=
  ∀ (s : State) (core : Nat) (ring : Nat × Nat), s.Inv → coreExists core = true →
    let k := clusterIx core
    let x := s.d.clusters[k]
    let o := x.owner
    let c := s.d.coreAt core
    let period := s.gcycle / 65536
    let atTick : Prop := s.gcycle = 65536 * period +
      drawOf (keyOf (s.d.ownerAt 0).oseed.toNat 0x04FF) ((96 * period + core % 128) % 2 ^ 32) / 65536
    let already (n : Nat) : Prop := x.sampled.1 = s.gcycle ∧ n ∈ x.sampled.2
    let due : Prop := atTick ∧ c.halt = none ∧ x.next = none ∧ x.retired = false ∧ s.d.clocked = true ∧ ¬ already core
    let marks (t : State) : Prop :=
      t.d.clusters[k] = { x with sampled := t.d.clusters[k].sampled } ∧ (∀ j, j ≠ k → t.d.clusters[j] = s.d.clusters[j]) ∧
      t.d.clusters[k].sampled.1 = s.gcycle ∧ ∀ n, n ∈ t.d.clusters[k].sampled.2 ↔ n = core ∨ already n
    let quiet : Prop := s.d.mem.stores = [] ∧ s.d.mem.partials = [] ∧ s.d.mem.bad = []
    let value (x : State) (pa : Nat) : Nat := x.d.valueAt none pa 8
    let w := value s ring.1
    let rec' := ring.1 + 64 + 32 * (w % 2 ^ ring.2)
    let isFull : Prop := (w + 2 ^ 64 - value s (ring.1 + 8)) % 2 ^ 64 = 2 ^ ring.2
    let counts (t : State) (n : Nat) : Prop := ∀ k, (t.d.ownerAt o).counters.get 0 k =
      if k = n then min (2 ^ 48 - 1) ((s.d.ownerAt o).counters.get 0 n + 1) else (s.d.ownerAt o).counters.get 0 k
    (∀ rest, s.inputs = .event (.pcSample core) :: rest → s.d.clocked = true → step s = exec (.pcSample core) { s with inputs := rest }) ∧
    (¬ due → Gives (exec (.pcSample core) s) fun t => t = s) ∧
    (due → o < 64 → (s.d.ownerAt o).ring = some ring → quiet → isFull →
      Gives (exec (.pcSample core) s) fun t =>
        counts t 0x003 ∧ marks t ∧ t.d = { s.d with owners := t.d.owners, clusters := t.d.clusters }) ∧
    (due → o < 64 → (s.d.ownerAt o).ring = none → Gives (exec (.pcSample core) s) fun t =>
      counts t 0x003 ∧ marks t ∧ t.d = { s.d with owners := t.d.owners, clusters := t.d.clusters }) ∧
    (due → o < 64 → (s.d.ownerAt o).ring = some ring → quiet → ¬ isFull → s.gcycle < 2 ^ 64 → c.id < 4096 →
      Gives (exec (.pcSample core) s) fun t =>
        value t rec' = s.gcycle ∧ value t (rec' + 8) = c.pc.toNat ∧
        value t (rec' + 16) = c.kid.kid.toNat * 2 ^ 32 + c.id * 2 ^ 12 + (if c.status.pl = .supervisor then 2 ^ 10 else 0) +
          (if c.gang.isSome then 2 ^ 9 else 0) + (if c.frame.isSome then 2 ^ 8 else 0) +
          (if c.frame = none ∧ c.sequencer = [] then c.stallCode else s.d.stallOf core).toNat ∧
        value t (rec' + 24) = 0 ∧ value t ring.1 = (w + 1) % 2 ^ 64 ∧
        (∀ a, (a < rec' ∨ rec' + 32 ≤ a) → (a < ring.1 ∨ ring.1 + 8 ≤ a) → t.d.mem.hbm.get a = s.d.mem.hbm.get a) ∧
        (t.d.ownerAt o).counters.get 0 0x002 = min (2 ^ 48 - 1) ((s.d.ownerAt o).counters.get 0 0x002 + 1) ∧
        marks t ∧ t.d.core = s.d.core ∧ SameOutside s t)

/-- R345: at the trigger's tick every block latches its registers, of the owner, or of the whole device where the compositor or the host has
armed the trigger. The step that writes the record leaves none pending, and the header of the owner's proof buffer holds the tick, the
device, the owner and the number of entries, one for each block; nothing outside the record changes. Before the tick nothing happens. That a
trigger of the host holds the whole device, and that an owner without a buffer gets no record, are the model's choices (log 14). -/
def Claims.ProofsAreWritten : Prop :=
  (∀ (s : State) (o tick : Nat) (rest : List Input), s.inputs = .armProof o tick :: rest → s.d.trigger = none → o < 64 →
    let x : Trigger := { owner := o, tick := max tick (s.gcycle + 4096), whole := true, latched := none }
    step s = .next (State.pass 1 { s with inputs := rest, d := { s.d with trigger := some x } })) ∧
  ∀ (s : State) (x : Trigger) (buffer : Nat), s.Inv → s.d.trigger = some x →
    let blocks := 97 * (if x.whole then 32 else (s.d.clustersOf x.owner).length) + 204
    let entries := match x.latched with | some es => es.length | none => blocks
    let fires : Prop := x.tick ≤ s.gcycle ∨ x.latched.isSome = true
    (∀ n, x.latched = none → s.d.stops = [] → x.tick ≤ s.gcycle + n → ∃ es, es.length = blocks ∧
      (s.pass n).d.trigger = some { x with latched := some es }) ∧
    (¬ fires → Gives (exec .proofTrigger s) fun t => t = s) ∧
    (fires → (s.d.ownerAt x.owner).proofBuffer = none → Gives (exec .proofTrigger s) fun t =>
      t = { s with d := { s.d with trigger := none } }) ∧
    (fires → (s.d.ownerAt x.owner).proofBuffer = some buffer → x.tick < 2 ^ 64 → x.owner < 64 → entries < 2 ^ 64 →
      s.d.mem.stores = [] → s.d.mem.partials = [] →
      Gives (exec .proofTrigger s) fun t =>
        t.d.trigger = none ∧
        t.d.valueAt none buffer 8 = x.tick ∧ t.d.valueAt none (buffer + 8) 8 = s.d.deviceId.toNat ∧
        t.d.valueAt none (buffer + 16) 8 = x.owner ∧ t.d.valueAt none (buffer + 24) 8 = entries ∧
        (∀ a, (a < buffer ∨ buffer + 64 + 32 * entries ≤ a) → t.d.mem.hbm.get a = s.d.mem.hbm.get a) ∧
        t.d.core = s.d.core ∧ SameOutside s t)

/-- PC samples and proofs are written at their ticks (choices: log 14, 23). -/
def Obligations.SamplesAndProofs : Prop :=
  Claims.SamplesAreWritten ∧ Claims.ProofsAreWritten

/-- R329, R334, R335: the compositor stops a live owner at the tick it chose, or no sooner than 10,000 ticks from now, which it reports, and
takes the switch of that tick from the schedule; other owners' stops go on. While one of the owner's clusters is scrubbing, the switch is
deferred, which both owners count and the host hears of, once, and it stays to come. An owner without clusters does not stop. That a
deferred switch is counted once and stays to come, and that the switch of an owner without clusters is void, are the model's choices (log 15).
A stop at a PTP instant is one at the tick of this device that the offset gives. -/
def Claims.StopsBegin : Prop :=
  ∀ (s : State) (o tick : Nat),
    let ks := s.d.clustersOf o
    let host := s.d.host
    let plan := (host.switches ++ host.deferred).find? fun x => decide (x.outgoing = o) && decide (x.tick = tick)
    let without (l : List SwitchPlan) : List SwitchPlan := match plan with | none => l | some p => l.erase p
    let due := max tick (s.gcycle + 10000)
    let count (x : State) (p : Nat) : Nat := (x.d.ownerAt p).counters.get 0 0x009
    (∀ rest instant, s.inputs = .stopAt o instant :: rest →
      Gives (exec (.synchronisedStop o (instant - s.d.toff)) { s with inputs := rest }) fun t => step s = .next (t.pass 1)) ∧
    (o ≠ 0 → o < 64 → (s.d.ownerAt o).live = true → s.d.stops.find o = none → (∀ p, plan = some p → p.incoming < 64 ∧ p.incoming ≠ o) →
    (ks = [] → Gives (exec (.synchronisedStop o tick) s) fun t =>
      t = { s with d := { s.d with host := { host with switches := without host.switches, deferred := without host.deferred } } }) ∧
    (ks ≠ [] → (∀ k ∈ ks, s.d.clusters[k].scrubbing = false) → Gives (exec (.synchronisedStop o tick) s) fun t =>
      t.d.stops.find o = some { owner := o, incoming := plan.map fun p => p.incoming, tick := due, due := false
                                colour := s.d.clusters[ks.headD 0].ends.colour, halted := [], tokens := [], flushed := [], messages := []
                                packets := [], captured := 0, cut := false, saved := [] } ∧
      (∀ p, p ≠ o → t.d.stops.find p = s.d.stops.find p) ∧
      t = { s with d := { s.d with stops := t.d.stops, host := { host with
        switches := without host.switches, deferred := without host.deferred
        notices := host.notices ++ if due = tick then [] else [.stopMoved o due] } } }) ∧
    ((∃ k ∈ ks, s.d.clusters[k].scrubbing = true) →
      (∀ p, plan = some p → p ∈ host.deferred → Gives (exec (.synchronisedStop o tick) s) fun t => t = s) ∧
      ((∀ p, plan = some p → p ∉ host.deferred) → Gives (exec (.synchronisedStop o tick) s) fun t =>
        (∀ p, p < 64 → count t p =
          if p = o ∨ plan.map (fun x => x.incoming) = some p then min (2 ^ 48 - 1) (count s p + 1) else count s p) ∧
        (∀ p : Fin 64, t.d.owners[p] = { s.d.owners[p] with counters := t.d.owners[p].counters }) ∧
        t = { s with d := { s.d with owners := t.d.owners, host := { host with
          switches := without host.switches, deferred := without host.deferred ++ plan.toList
          notices := host.notices ++ [.switchDeferred o (plan.map fun x => x.incoming)] } } })))

/-- R330 to R332: from the tick on a core of the owner halts at the cycle of its step, its colour flips, and what it holds stays, but for vector
instructions handed on, at the oldest of which it stands; an MMA in the array finishes a K-block and the rest of it stays queued. A router halts,
captures the old-colour messages of the owner that wait at it (which they are is the model's choice, log 15), each counted as received, and sends
the flush token on its outputs; a token arrives at an input, and a halted router captures again what came before it. A cut closes once everything
has halted, every router input has had its token and the sums agree, the lowest owner's first (log 15): every access of the owner's cores is then
performed, and where no cut can close nothing happens. What has not halted by the 64th cycle halts then. -/
def Claims.StopsComplete : Prop :=
  (∀ r, r < 192 → ∀ i, i ∈ routerInputs r ↔ i / 5 = r ∧ ∃ q, q < 192 ∧ q / 48 = r / 48 ∧ i ∈ routerOutputs q) ∧
  ∀ (s : State) (st : StopTree) (core die router input n : Nat), s.Inv → s.d.stops.find st.owner = some st →
    let o := st.owner
    let k := clusterIx core
    let r := 48 * die + router
    let i := 5 * r + input
    let here (f : Flight) : Bool :=
      decide (f.owner = o) && decide (f.colour = st.colour) && decide ((s.d.localTarget f.msg).map routerOf = some r)
    let held (p : Nat × Packet) : Bool :=
      decide (p.2.owner = o) && decide (p.2.colour = st.colour) && decide (routerOf p.2.target = r)
    let becomes (t : State) (y : StopTree) : Prop :=
      t.d.stops.find o = some y ∧ (∀ p, p ≠ o → t.d.stops.find p = s.d.stops.find p) ∧ SameOutside s t
    let captures (t : State) (y : StopTree) : Prop :=
      t.d.messages = s.d.messages.filter (fun f => !here f) ∧ t.d.packets = s.d.packets.filter (fun p => !held p) ∧
      becomes t { y with
        messages := st.messages ++ (s.d.messages.filter here).map fun m => (r, m)
        packets := st.packets ++ (s.d.packets.filter held).map fun p => (r, p.2)
        captured := st.captured + (s.d.messages.filter here).length + (s.d.packets.filter held).length } ∧
      t.d = { s.d with stops := t.d.stops, messages := t.d.messages, packets := t.d.packets }
    let closes (y : StopTree) : Prop :=
      y.cut = false ∧ (∀ j ∈ s.d.clustersOf y.owner, s.d.allHalted j = true) ∧
      (∀ x ∈ s.d.diesOf y.owner, ∀ m, m < 48 → ∀ j ∈ routerInputs (48 * x + m), j ∈ y.flushed) ∧
      ((s.d.endpoints y.owner).map fun e => e.sent y.colour).sum = ((s.d.endpoints y.owner).map fun e => e.recv y.colour).sum + y.captured
    (coreExists core = true → s.d.clusters[k].owner = o → st.due = true → (s.d.coreAt core).halt = none →
      Gives (exec (.coreHalt core) s) fun t =>
        let c := s.d.coreAt core
        let x := t.d.coreAt core
        x.halt = some s.gcycle ∧ x.ends.colour = !c.ends.colour ∧ x.frame = none ∧ x.sequencer = [] ∧ x.run = c.run ∧ x.status = c.status ∧
          x.task = c.task ∧
        (c.matrix = [] → (∀ p : Fin 4, c.port[p].commands = []) →
          (c.frame = none → c.sequencer = [] → x = { c with halt := some s.gcycle, ends := x.ends }) ∧
          (∀ h rest, c.frame = none → c.sequencer = h :: rest → x.pc = h.addr ∧ x.s = h.saved) ∧
          (∀ f, c.frame = some f → x.pc = f.addr ∧ x.frst = { act := true, rep := BitVec.ofNat 8 f.rep, pos := BitVec.ofNat 4 f.pos }) ∧
          (∀ m, m ≠ core → t.d.coreAt m = s.d.coreAt m) ∧ t.d.mem = s.d.mem) ∧
        (∀ e rest dA dB sk so pm1 rnd z descA descB, takeEntry false c.matrix = some (e, rest) →
          e.op = .mma dA dB sk so pm1 rnd z descA descB → (∀ p : Fin 4, c.port[p].commands = []) → x.matrix = c.matrix ∨ ∃ j,
            0 < j ∧ j < mmaCount sk ∧
            x.matrix = { e with op := .mma dA dB (u64 (mmaCount sk - j)) (u64 (mmaFirstA so + j + 65536 * (mmaFirstB so + j))) pm1 rnd false
                                         descA descB } :: rest ∧
            (c.pad.bad = [] → x.acc[e.set.toFin] =
              performMma c.pad s.d.clusters[k].gen (u64 j) so pm1 rnd z descA descB c.acc[e.set.toFin])) ∧
        SameOutside s t) ∧
    (s.d.clusters[k].owner = o → st.due = false ∨ (s.d.coreAt core).halt.isSome = true → Gives (exec (.coreHalt core) s) fun t => t = s) ∧
    (die < 4 → router < 48 → st.due = true → (s.d.diesOf o).contains die = true → r ∉ st.halted →
      Gives (exec (.routerHalt ⟨o, die⟩ router) s) fun t =>
        captures t { st with halted := st.halted ++ [r], tokens := st.tokens ++ routerOutputs r }) ∧
    (router < 48 → input < 5 → i ∈ st.tokens →
      let y : StopTree := { st with tokens := st.tokens.erase i, flushed := st.flushed ++ [i] }
      (r ∈ st.halted → Gives (exec (.flushToken ⟨o, die⟩ ⟨router, input⟩) s) fun t => captures t y) ∧
      (r ∉ st.halted → Gives (exec (.flushToken ⟨o, die⟩ ⟨router, input⟩) s) fun t => becomes t y ∧ t.d = { s.d with stops := t.d.stops })) ∧
    (i ∉ st.tokens → Gives (exec (.flushToken ⟨o, die⟩ ⟨router, input⟩) s) fun t => t = s) ∧
    (o < 64 → closes st → (∀ p y, p < o → s.d.stops.find p = some y → ¬ closes y) → Gives (exec .cutClose s) fun t =>
        becomes t { st with cut := true } ∧ (∀ j ∈ s.d.clustersOf o, ∀ x ∈ t.d.mem.stores, x.cluster ≠ j.val) ∧
        t.d.clusters = s.d.clusters) ∧
    ((∀ p y, p < 64 → s.d.stops.find p = some y → ¬ closes y) → Gives (exec .cutClose s) fun t => t = s) ∧
    (st.tick ≤ n → st.cut = false → (∀ x ∈ s.d.stops, x.2.owner = x.1) → ∃ y, (s.d.stopsDue n).stops.find o = some y ∧ y.due = true ∧ y.tick = st.tick ∧
      (st.tick + 63 ≤ n → ∀ j ∈ s.d.clustersOf o, (s.d.stopsDue n).allHalted j = true))

/-- A synchronised stop begins, halts cores, captures messages and closes its cut (choices: log 15). -/
def Obligations.StopsAreTaken : Prop :=
  Claims.StopsBegin ∧ Claims.StopsComplete

/-- R23, R24, R191, R333, R334, R388: with the fourth die's save in time the copy of the owner's cores, with its queues, pieces, live frontiers
and draw counters, becomes its context, and each of its clusters passes on, to the owner that comes in if that is a partition still, else to owner
0 (log 15): one generation later, scrubbing, its unit and engines empty, its cores idle with control registers at reset and their register files
untouched. A die before the fourth is only recorded. -/
def Claims.SwitchesCommit : Prop :=
  ∀ (s : State) (st : StopTree) (die : Nat), s.Inv → s.d.stops.find st.owner = some st →
    let o := st.owner
    let ks := s.d.clustersOf o
    let next := match st.incoming with | none => 0 | some i => if (s.d.ownerAt i).live then i else 0
    die < 4 → st.cut = true → die ∉ st.saved → s.gcycle ≤ st.tick + 1000 * s.d.host.deadlineUs →
    (st.saved.length ≠ 3 → Gives (exec (.dieSaveComplete ⟨o, die⟩) s) fun t =>
      t.d.stops.find o = some { st with saved := st.saved ++ [die] } ∧ (∀ p, p ≠ o → t.d.stops.find p = s.d.stops.find p) ∧
      t = { s with d := { s.d with stops := t.d.stops } }) ∧
    (st.saved.length = 3 → (∀ k ∈ ks, s.d.clusters[k].scrubbing = false) → Gives (exec (.dieSaveComplete ⟨o, die⟩) s) fun t =>
      t.d.stops = s.d.stops.erase o ∧
      (∀ k ∈ ks, t.d.clusters[k] = { s.d.clusters[k] with
        owner := next, gen := s.d.clusters[k].gen + 1, scrubbing := true, former := o
        unit := { barriers := [], events := [], mutexes := [] }, hold := [], orphans := [], pending := [], ends := Endpoint.reset }) ∧
      (∀ k, k ∉ ks → t.d.clusters[k] = s.d.clusters[k]) ∧
      (∀ n, n < 4096 → clusterIx n ∈ ks →
        let x := t.d.coreAt n
        let c := s.d.coreAt n
        x.run = .idle ∧ x.status = Status.reset ∧ x.ipend = Ipend.reset ∧ x.task = none ∧ x.frame = none ∧ x.matrix = [] ∧
        x.s = c.s ∧ x.v = c.v ∧ x.p = c.p ∧ x.desc = c.desc ∧ x.stream = c.stream ∧ x.pad = c.pad) ∧
      (∀ n, n < 4096 → clusterIx n ∉ ks → t.d.coreAt n = s.d.coreAt n) ∧
      (∃ y, t.d.contexts.find o = some y ∧ y.tick = st.tick ∧ y.wayCounters = (s.d.ownerAt o).wayCounters ∧
        y.arbCounters = (s.d.ownerAt o).arbCounters ∧
        (∀ q ∈ s.d.queues, q.2.boundTo o = true → ∀ l ∈ q.2.pending, l.started = true → recFrontier l.record = true →
          ((q.1, l.seq), l.frontier) ∈ y.frontiers) ∧
        (∀ q ∈ s.d.queues, q.2.boundTo o = true → q ∈ y.queues) ∧
        (∀ p ∈ s.d.pieces, (s.d.queueAt p.2.work.queue).boundTo o = true → p ∈ y.pieces) ∧
        ∀ c ∈ s.d.core :: s.d.others.map (·.2), clusterIx c.id ∈ ks →
          ∃ z ∈ y.cores, z.id = c.id ∧ z.pc = c.pc ∧ z.status = c.status ∧
            ∀ r : SReg, r ≠ 0 → (z.s[r.toFin]).val = c.readS s.d.clusters[clusterIx c.id].gen r) ∧
      t.d.mem = s.d.mem ∧ SameOutside s t)

/-- R334, R336, R342: a die that misses its deadline aborts the switch, which both owners count and the host hears of; each core of the owner
goes on where it stood, and one that was running has STOP pending with the tick. -/
def Claims.SwitchesAbort : Prop :=
  ∀ (s : State) (st : StopTree) (die n : Nat), s.Inv → s.d.stops.find st.owner = some st →
    let o := st.owner
    let count (x : State) (p : Nat) : Nat := (x.d.ownerAt p).counters.get 0 0x006
    o < 64 → die < 4 → die ∉ st.saved → st.tick + 1000 * s.d.host.deadlineUs < s.gcycle → (∀ i, st.incoming = some i → i < 64 ∧ i ≠ o) →
    (∀ k ∈ s.d.clustersOf o, s.d.allHalted k = true) → n < 4096 → s.d.clusters[clusterIx n].owner = o →
    Gives (exec (.saveDeadline ⟨o, die⟩) s) fun t =>
      let c := s.d.coreAt n
      let x := t.d.coreAt n
      t.d.stops = s.d.stops.erase o ∧ x.halt = none ∧ x.pc = c.pc ∧ x.s = c.s ∧ x.status = c.status ∧ x.run = c.run ∧ x.task = c.task ∧
      (c.run = .running ∨ c.run = .halted → x.ipend.stop = true ∧ x.stopTick = u64 st.tick) ∧
      (c.run = .idle → x.ipend.stop = c.ipend.stop ∧ x.stopTick = c.stopTick) ∧
      (∀ p, p < 64 → count t p = if p = o ∨ st.incoming = some p then min (2 ^ 48 - 1) (count s p + 1) else count s p) ∧
      t.d.host.notices = s.d.host.notices ++ [.switchAborted o st.incoming] ∧
      (∀ k : Fin 32, (t.d.clusters[k]).owner = (s.d.clusters[k]).owner ∧ (t.d.clusters[k]).gen = (s.d.clusters[k]).gen) ∧ SameOutside s t

/-- R191, R336, R388: once an owner holds the clusters of its context again, a restore writes every saved register under the current
generation, puts the queues of each cluster and the frontiers back and leaves the draw counters as they are, delivers the messages of each core's
interface, and a core that was running goes on at its saved pc with STOP pending. Before that nothing happens. -/
def Claims.ContextsAreRestored : Prop :=
  ∀ (s : State) (o : Nat) (x : Context), s.Inv → s.d.contexts.find o = some x →
    ((∃ m ∈ x.clusters, s.d.clusters[Fin.ofNat 32 m.number].owner ≠ o) → Gives (exec (.restore o) s) fun t => t = s) ∧
    ((∀ m ∈ x.clusters, m.number < 32 ∧ s.d.clusters[Fin.ofNat 32 m.number].owner = o) → o < 64 →
    (x.clusters.map (·.number)).Nodup → (x.cores.map (·.id)).Nodup → (x.frontiers.map (·.1)).Nodup →
    Gives (exec (.restore o) s) fun t =>
      (∀ c ∈ x.cores,
        let y := t.d.coreAt c.id
        let g := s.d.clusters[clusterIx c.id].gen
        y.pc = c.pc ∧ y.run = c.run ∧ y.status = c.status ∧ y.epc = c.epc ∧ y.task = c.task ∧ y.halt = none ∧ y.messages = [] ∧
        (c.spilled = [] → y.delivered = c.delivered ++ c.messages ∧ y.named = c.named) ∧
        (∀ r : SReg, y.readS g r = if r = 0 then 0 else (c.s[r.toFin]).val) ∧ (∀ r : VReg, (y.v[r.toFin]).read g = (c.v[r.toFin]).val) ∧
        (c.run = .running → y.ipend.stop = true ∧ y.stopTick = u64 x.tick) ∧ (c.run = .idle → y.ipend.stop = c.ipend.stop)) ∧
      (∀ m ∈ x.clusters,
        let y := t.d.clusters[Fin.ofNat 32 m.number]
        y.pending = m.pending ∧ y.hold = m.hold ∧ y.orphans = m.orphans) ∧
      (∀ f ∈ x.frontiers, ∀ l, (s.d.queueAt f.1.1).findLaunch f.1.2 = some l →
        (t.d.queueAt f.1.1).findLaunch f.1.2 = some { l with frontier := f.2 }) ∧
      (∀ p, (t.d.ownerAt p).wayCounters = (s.d.ownerAt p).wayCounters ∧ (t.d.ownerAt p).arbCounters = (s.d.ownerAt p).arbCounters) ∧
      t.d.contexts = s.d.contexts.erase o ∧ t.d.mem = s.d.mem ∧ SameOutside s t)

/-- R191, R366: a context that comes from another device waits for its owner, which holds no clusters here and is not stopping, and whose queues
can stand here under their numbers: it brings its queues, its draw counters and its pieces, under numbers that this device has not given, by
which its cores then know them. What was here before stays. A context that another owner's queue stands in the way of is not taken (the model's
choice, log 15). -/
def Claims.ContextsAreTransferred : Prop :=
  ∀ (s : State) (o : Nat) (x : Context) (rest : List Input), s.inputs = .context o x :: rest → x.whole = true → o ≠ 0 → o < 64 →
    (s.d.ownerAt o).live = true → s.d.clustersOf o = [] → s.d.stops.find o = none →
    let b := s.d.nextPiece
    let piece (c : Core) : Option Nat := c.task.map fun t => t.piece
    (s.d.queuesFree o x = false → step s = .next (State.pass 1 { s with inputs := rest })) ∧
    (s.d.queuesFree o x = true → (x.queues.map (·.1)).Nodup → (x.pieces.map (·.1)).Nodup →
      ∃ d, step s = .next (State.pass 1 { s with inputs := rest, d := d }) ∧
      (∀ q ∈ x.queues, d.queueAt q.1 = q.2) ∧ (∀ n, n ∉ x.queues.map (·.1) → d.queueAt n = s.d.queueAt n) ∧
      (∀ p ∈ x.pieces, d.pieces.find (b + p.1) = some p.2) ∧ (∀ n, n < b → d.pieces.find n = s.d.pieces.find n) ∧
      (∀ p ∈ x.pieces, b + p.1 < d.nextPiece) ∧
      (∃ y, d.contexts.find o = some y ∧ y.tick = x.tick ∧ y.clusters = x.clusters ∧ y.frontiers = x.frontiers ∧
        y.cores.map (·.id) = x.cores.map (·.id) ∧ y.cores.map piece = x.cores.map fun c => (piece c).map (b + ·)) ∧
      (∀ p, p ≠ o → d.contexts.find p = s.d.contexts.find p) ∧
      (d.ownerAt o) = { s.d.ownerAt o with wayCounters := x.wayCounters, arbCounters := x.arbCounters } ∧
      (∀ p, p < 64 → p ≠ o → d.ownerAt p = s.d.ownerAt p) ∧
      d = { s.d with contexts := d.contexts, queues := d.queues, pieces := d.pieces, nextPiece := d.nextPiece, owners := d.owners })

/-- A switch commits or aborts, and a saved context is restored, or transferred (choices: log 15). -/
def Obligations.SwitchesEnd : Prop :=
  Claims.SwitchesCommit ∧ Claims.SwitchesAbort ∧ Claims.ContextsAreRestored ∧ Claims.ContextsAreTransferred

/-- R416, R420, R422, R423, R427: a request from an endpoint outside the host table, or at a port that is down, leaves no trace. One that was
answered is answered with the stored response; one beyond its turn is held without effect while fewer than 64 are, and then refused as BUSY without
being stored. Where no LAUNCH waits, which each request would try again, nothing else is done. In its turn, a header that does not fit is BADREQ and
a partition that is not there NOPART. -/
def Claims.RequestsTakeTurns : Prop :=
  ∀ (s : State) (h : ReqHeader) (b1 : CreateBody) (b2 : MapBody) (b3 : UnmapBody) (b4 : LoadBody) (b5 : BindBody) (b6 : LaunchBody)
    (b7 : SchedBody) (b8 : CoreBody) (b9 : PowerBody) (b10 : AttestBody) (b11 : FirmwareBody) (b12 : PtpcfgBody) (y : Reply),
    let x := s.d.sessionOf h
    let known : Prop := (∀ z ∈ x.held, z.1.seq ≠ h.seq) ∧ (∀ z, x.later = some z → z.1.seq ≠ h.seq) ∧
      ∀ z ∈ s.d.host.unmaps, z.header.session = h.session → z.header.seq ≠ h.seq
    let noneWaits : Prop := x.later = none ∧ ∀ z ∈ s.d.host.sessions, z.2.later = none
    let sends (t : State) (r : Reply) : Prop :=
      t.d.host.sent = s.d.host.sent ++ [r] ∧ t.d.host.sessions = s.d.host.sessions ∧ OnlyHost s t s.d.host
    ∀ p ∈ [(Instr.create h b1, 1), (.destroy h, 2), (.map h b2, 3), (.unmap h b3, 4), (.load h b4, 5), (.bind h b5, 6), (.hostLaunch h b6, 7),
        (.sched h b7, 8), (.coreRequest h b8, 9), (.power h b9, 10), (.attest h b10, 11), (.firmware h b11, 12), (.ptpcfg h b12, 13)],
      let i := p.1
      let code : BitVec 16 := BitVec.ofNat 16 p.2
      (h.endpoint ∉ s.d.host.hostTable ∨ s.d.portUp h.port = false → Gives (exec i s) fun t => t = s) ∧
      (s.d.Hears h → (x.replies.find? fun z => decide (z.header.seq = h.seq)) = some y → Gives (exec i s) fun t => sends t y) ∧
      (s.d.Hears h → (∀ z ∈ x.replies, z.header.seq ≠ h.seq) → known → h.seq ≠ x.next →
        (x.held.length < 64 → noneWaits → Gives (exec i s) fun t => ∃ r,
          t = s.withDev (s.d.setSession h.session.toNat { x with held := x.held ++ [(h, r)] })) ∧
        (64 ≤ x.held.length → Gives (exec i s) fun t => sends t { code := code, header := h, status := .busy, body := .empty })) ∧
      (s.d.InTurn h →
        (¬ HeaderFits h (decide (p.2 = 2)) → Gives (exec i s) fun t => OnlyAnswered s t h code .badreq .empty) ∧
        (HeaderFits h (decide (p.2 = 2)) → p.2 ≠ 1 → h.part ≠ 0 → (s.d.ownerAt h.part.toNat).live = false →
          Gives (exec i s) fun t => OnlyAnswered s t h code .nopart .empty))

/-- R351, R428: a host LAUNCH is performed as by a core of the partition at user level: the record that passes the checks of LAUNCH is appended,
once the NEXT field of the one before it is stored, and its sequence number answered; a full queue is BUSY, a failed check is answered with its
cause, and where LAUNCH would have to wait, the request keeps its turn, unanswered. By which core it is performed, and that it waits, are the
model's choices (log 18). -/
def Claims.HostLaunchesAreAppended : Prop :=
  ∀ (s : State) (h : ReqHeader) (q : LaunchBody), s.d.InTurn h → HeaderFits h false →
    let o := h.part.toNat
    let v := (s.d.heard h).asOwner o ((s.d.clustersOf o).headD 0) q.record
    let x := s.d.queueAt q.q
    o ≠ 0 → (s.d.ownerAt o).live = true → s.d.clustersOf o ≠ [] → q.q < 1024 → x.boundTo o = true → q.record.toNat % 64 = 0 →
    (∀ n ∈ s.d.core.id :: s.d.others.map (·.1), n % 128 ≠ 127) →
    (∀ (b : List Byte × Dev) (kd : Vector Word 4 × Dev) (p : Placement) (f : Frontier × Dev),
      let r := wordsOf 8 b.1
      x.state = .opened → v.readWhole q.record 64 = .ok b → recordOk (x.last.map (·.2)) r = true →
      b.2.readKernel q.record r[1] = .ok kd → kd.2.checkAnchor r[3] = .ok p → kd.2.startFrontier r = .ok f → x.nextSeq % 2 ^ 64 ≠ 0 →
      v.holdsAny v.core.id = false → (recFrontier r = true → s.d.notReady (.galley p.dieOf) = false) →
      (x.pending.length < Config.launchDepth →
        x.last = none ∨ (∃ e g, f.2.release .dev = .ok e ∧ e.storeNext q.q q.record = .ok g) → Gives (exec (.hostLaunch h q) s) fun t =>
        t.d.queueAt q.q =
          { x with nextSeq := x.nextSeq + 1, last := some (q.record, r)
                   pending := x.pending ++ [{ seq := x.nextSeq, addr := q.record, record := r, kernel := kd.1, place := p, started := false
                                              clusters := [], reported := [], dies := [], frontier := f.1 }] } ∧
        (∀ n, n ≠ q.q → t.d.queueAt n = s.d.queueAt n) ∧ Answered s t h 7 .ok (.sequence (x.nextSeq % 2 ^ 64))) ∧
      (Config.launchDepth ≤ x.pending.length → Gives (exec (.hostLaunch h q) s) fun t => OnlyAnswered s t h 7 .busy .empty)) ∧
    (∀ c : Trap, (v.readWhole q.record 64 = .error (.trap c) ∨ ∃ e, v.readWhole q.record 64 = .error (.walkedTrap e c)) →
      Gives (exec (.hostLaunch h q) s) fun t =>
      OnlyAnswered s t h 7 .badreq (.cause c.code c.faddr c.finfo)) ∧
    (∀ c, v.readWhole q.record 64 = .error (.wait c) → Gives (exec (.hostLaunch h q) s) fun t =>
      t = s.withDev (s.d.setSession h.session.toNat { s.d.sessionOf h with later := some (h, .launch q) }))

/-- R418, R419, R427: a response begins with four doublewords: CODE, SESSION and SEQ; LENGTH and STATUS; PART; and 0. LENGTH is 0
without a body, and counts the whole doublewords of a report. The header of a request is
read from them in the same places. -/
def Claims.HeadersAreLaidOut : Prop :=
  (∀ r : Reply,
    let h := r.header
    let number : ReplyStatus → Nat := fun
      | .ok => 0 | .badreq => 1 | .nopart => 2 | .nofit => 3 | .notready => 4 | .busy => 5 | .auth => 6 | .rollback => 7
    r.words.map (·.toNat) = [h.seq.toNat + 2 ^ 32 * h.session.toNat + 2 ^ 48 * r.code.toNat, number r.status + 2 ^ 32 * r.length.toNat,
      h.part.toNat, 0] ∧ (r.body = .empty → r.length = 0) ∧
    ∀ bytes, r.body = .report bytes → r.length = BitVec.ofNat 32 (8 * ((bytes.length + 7) / 8))) ∧
  ∀ (h : ReqHeader) (code : BitVec 16),
    let w1 := h.status.toNat + 2 ^ 8 * h.rsv8.toNat + 2 ^ 32 * h.length.toNat
    headerOfWords h.endpoint h.port (u64 (h.seq.toNat + 2 ^ 32 * h.session.toNat + 2 ^ 48 * code.toNat)) (u64 w1)
      (u64 (h.part.toNat + 2 ^ 6 * h.rsv16.toNat)) h.rsv24 = (code, h)

/-- Host requests take turns, headers are laid out, and a host launch is appended (choices: log 18). -/
def Obligations.HostRequestsAndLaunches : Prop :=
  Claims.RequestsTakeTurns ∧ Claims.HostLaunchesAreAppended ∧ Claims.HeadersAreLaidOut

/-- R23, R160, R188, R204, R209, R419: CREATE takes clusters of owner 0 that are in service and not being scrubbed, where the minima fit: the new
partition has the weights, minima and attribute stated, and its clusters pass to it. An index that is held is refused, one whose scrub still runs is
BUSY, minima that do not fit are NOFIT, and while the clusters are not clocked it is NOTREADY (the model's choice, log 18). DESTROY ends a
partition: it holds no cluster, no queue and no frame any more, and where its cluster was being scrubbed no generation step happens yet. Which
answer a request with two faults gets is the model's choice (log 18). -/
def Obligations.PartitionsComeAndGo : Prop :=
  ∀ (s : State) (h : ReqHeader) (b : CreateBody), s.d.InTurn h →
    let o := h.part.toNat
    let d := s.d
    let named (k : Fin 32) : Prop := k.val ∈ b.clusters
    let fits : Prop := ∀ c, c < 8 → 64 + d.minimaSum c + b.minima.getD c 0 ≤ d.available c
    let scrubbed : Prop := ∃ k : Fin 32, (d.clusters[k]).scrubbing = true ∧ ((d.clusters[k]).former = o ∨ (d.clusters[k]).next = some o)
    let valid : Prop := HeaderFits h false ∧ o ≠ 0 ∧ (d.ownerAt o).live = false ∧ createOk b = true
    let ready : Prop := valid ∧ d.clocked = true ∧ (∀ k : Fin 32, named k → d.notReady (.cluster k.val) = false)
    let free : Prop := ∀ k : Fin 32, named k → (d.clusters[k]).owner = 0 ∧ (d.clusters[k]).retired = false
    let creates (st : ReplyStatus) : Prop := Gives (exec (.create h b) s) fun t => OnlyAnswered s t h 1 st .empty
    (ready → ¬ scrubbed → free → fits → (∀ k : Fin 32, named k → (d.clusters[k]).scrubbing = false) → d.mem.retired = [] →
      (∀ x c, d.notReady (.channel x c) = false) → 2 ^ 20 ≤ d.host.tableTop → (∀ a ∈ d.arbiters, ∀ r ∈ a.2.waiting, r.owner ≠ o) →
      Gives (exec (.create h b) s) fun t =>
        let x := t.d.ownerAt o
        x.live = true ∧ x.seedVisible = b.seedVisible ∧ x.counters = [] ∧ x.wayCounters = [] ∧ x.arbCounters = [] ∧
        (∀ c : Fin 8, x.weights[c] = b.weights.getD c.val 0 ∧ x.minima[c] = b.minima.getD c.val 0 ∧ x.minimaNow[c] = b.minima.getD c.val 0) ∧
        (∀ k : Fin 32, named k → (t.d.clusters[k]).owner = o ∧ (t.d.clusters[k]).gen = (d.clusters[k]).gen + 1 ∧
          (t.d.clusters[k]).scrubbing = true) ∧
        (∀ k : Fin 32, ¬ named k → t.d.clusters[k] = d.clusters[k]) ∧ (∀ p, p < 64 → p ≠ o → t.d.ownerAt p = { d.ownerAt p with
          counters := (t.d.ownerAt p).counters, wayCounters := (t.d.ownerAt p).wayCounters, arbCounters := (t.d.ownerAt p).arbCounters }) ∧
        Answered s t h 1 .ok .empty) ∧
    (valid → d.clocked = false → creates .notready) ∧ (ready → scrubbed → creates .busy) ∧ (ready → ¬ scrubbed → free → ¬ fits → creates .nofit) ∧
    (HeaderFits h false → (d.ownerAt o).live = true → creates .badreq) ∧
    (HeaderFits h true → o ≠ 0 → (d.ownerAt o).live = true → d.host.unmaps = [] → Gives (exec (.destroy h) s) fun t =>
      (t.d.ownerAt o).live = false ∧ (∀ k : Fin 32, (t.d.clusters[k]).owner ≠ o) ∧ (∀ q, (t.d.queueAt q).boundTo o = false) ∧
      (∀ g, t.d.mem.frames.get 0 g ≠ o) ∧
      (∀ k : Fin 32, (d.clusters[k]).owner = o → (d.clusters[k]).scrubbing = true → (t.d.clusters[k]).gen = (d.clusters[k]).gen ∧
        (t.d.clusters[k]).next = some o) ∧
      Answered s t h 2 .ok .empty) ∧
    (HeaderFits h true → o = 0 ∨ (d.ownerAt o).live = false → Gives (exec (.destroy h) s) fun t => OnlyAnswered s t h 2 .nopart .empty)

/-- R151, R193, R365, R419: MAP of a page below existing tables writes its entry in every replica and makes the owner the frame owner; a
frame that another tenant holds is refused, with BADREQ by the model's choice (log 8). UNMAP clears the replicas and gives back the frames
that no other entry maps, and is held, unanswered, while a queue of the owner keeps the page. Here one page, below tables that are there, in the place
of no other table, and no access outstanding. -/
def Claims.PagesAreMapped : Prop :=
  ∀ (s : State) (h : ReqHeader) (b : MapBody) (u : UnmapBody) (root table : Nat) (d' : Dev), s.Inv → s.d.InTurn h → HeaderFits h false →
    let o := h.part.toNat
    let d := s.d.heard h
    let k := pteSize b.pte
    let first := walkIndex b.va (leafLevel k) / leafCount k * leafCount k
    let page := pteAddr b.pte
    let entry (t : State) (a : Nat) : Nat := t.d.valueAt none a 8
    o ≠ 0 → (s.d.ownerAt o).live = true → s.d.Still →
    ((s.d.ownerAt o).root = some root → b.pages = 1 → s.d.mapOk o b = true → d.pageNotReady b.pte = false →
      (∀ e n, s.d.walk o b.va = .leaf e n → pteMig e = false) →
      (∀ j, j < leafCount k → pteV (s.d.entryAt (table + 8 * (first + j))) = true → pteLeaf (s.d.entryAt (table + 8 * (first + j))) = true) →
      d.tableFor b.va (leafLevel k - 1) root 1 = some (table, d') → d'.host = d.host → d'.mem.hbm = d.mem.hbm → pteRmt b.pte = false →
      (page + pageBytes b.pte ≤ table ∨ table + 16384 ≤ page) →
      Gives (exec (.map h b) s) fun t =>
        (∀ j, j < leafCount k → entry t (table + 8 * (first + j)) = b.pte.toNat) ∧
        (∀ g, page / 4096 ≤ g → g < page / 4096 + pageBytes b.pte / 4096 → t.d.mem.frames.get 0 g = o) ∧
        t.d.core = s.d.core ∧ Answered s t h 3 .ok .empty) ∧
    (b.pages = 1 → d.pageNotReady b.pte = false →
      s.d.mapOk o b = false ∨ (pteRmt b.pte = false ∧ s.d.frameOwner page ≠ 0 ∧ s.d.frameOwner page ≠ o) →
      Gives (exec (.map h b) s) fun t => OnlyAnswered s t h 3 .badreq .empty) ∧
    (∀ e n, u.pages = 1 → s.d.walk o u.va = .leaf e n → pteSize e = u.k.toNat → u.va.toNat % (4096 * 2 ^ u.k.toNat) = 0 →
      (s.d.unmapHeld o u = false → Gives (exec (.unmap h u) s) fun t =>
        (∀ a ∈ s.d.replicas o u.va, entry t a = 0) ∧
        (pteRmt e = false → (∀ a ∈ s.d.replicas o u.va, s.d.valueAt none a 8 = e.toNat) →
          ∀ g, pteAddr e / 4096 ≤ g → g < pteAddr e / 4096 + pageBytes e / 4096 → t.d.mem.frames.get 0 g =
            if s.d.mem.maps.get 0 g ≤ (s.d.replicas o u.va).length then 0 else s.d.mem.frames.get 0 g) ∧
        t.d.core = s.d.core ∧ Answered s t h 4 .ok .empty) ∧
      (s.d.unmapHeld o u = true → Gives (exec (.unmap h u) s) fun t =>
        t.d.host.unmaps = s.d.host.unmaps ++ [{ header := h, body := u, queues := s.d.unmapQueues o u }] ∧
        t.d.host.sent = s.d.host.sent ∧ t.d.mem = s.d.mem ∧ t.d.clusters = s.d.clusters))

/-- R103, R348, R350, R419: LOAD writes a byte of its image through the partition's table, builds the four words of a kernel descriptor, and starts
the cores named with what the compositor writes for them (that LOAD starts cores is how log 2 reads R103); BIND opens an unbound queue with its word
and priority, and unbinds a closed one. -/
def Claims.ProgramsAreLoaded : Prop :=
  ∀ (s : State) (h : ReqHeader) (b : LoadBody) (q : BindBody), s.Inv → s.d.InTurn h → HeaderFits h false →
    let o := h.part.toNat
    let d := s.d
    let x := d.queueAt q.q
    o ≠ 0 → (d.ownerAt o).live = true →
    (∀ va byte e n, b.kernels = [] → b.starts = [] → b.image = [(va, [byte])] → d.walk o va = .leaf e n → pteMig e = false → pteDec e = false →
      remoteRefuses e = false → inLocalRange va = false → d.byteNotReady o va = false → d.Still → leafPa e va < 2 ^ 48 →
      Gives (exec (.load h b) s) fun t =>
        MemoryTakes s t (leafDev e) (leafPa e va) 1 byte.toNat ∧ t.d.core = d.core ∧ Answered s t h 5 .ok .empty) ∧
    (∀ y : KernelEntry, b.kernels = [y] → entryOk y = true →
      loadWrites b = b.image ++ [(y.desc, bytesOf 8 y.entry.toNat ++
        bytesOf 8 (y.first + 2 ^ 12 * y.count + 2 ^ 25 * y.acc.toNat + 2 ^ 29 * y.frame.toNat + 2 ^ 30 * y.fuse.toNat) ++
        bytesOf 8 (y.shi.toNat + 2 ^ 5 * y.vhi.toNat) ++ bytesOf 8 0)]) ∧
    (∀ y : CoreStart, b.kernels = [] → b.image = [] → b.starts = [y] → coreExists y.core = true → d.clusters[clusterIx y.core].owner = o →
      (d.coreAt y.core).isIdle = true → Gives (exec (.load h b) s) fun t =>
        let c := t.d.coreAt y.core
        c.run = .running ∧ c.pc = y.entry ∧ c.status = Status.reset ∧ c.tstack = y.tstack ∧ c.s = (d.coreAt y.core).s ∧
        (∀ n, n ≠ y.core → t.d.coreAt n = d.coreAt n) ∧ t.d.mem = d.mem ∧ Answered s t h 5 .ok .empty) ∧
    (q.q < 1024 → q.prio < 4 → q.unbind = false → x.state = .unbound → d.wordOk o q.word = true → Gives (exec (.bind h q) s) fun t =>
      t.d.queueAt q.q = { Queue.reset with state := .opened, owner := o, prio := q.prio, word := q.word } ∧
      (∀ n, n ≠ q.q → t.d.queueAt n = d.queueAt n) ∧ t.d.core = d.core ∧ t.d.mem = d.mem ∧ Answered s t h 6 .ok .empty) ∧
    (q.q < 1024 → q.prio < 4 → q.unbind = true → x.boundTo o = true →
      (x.state = .closed → Gives (exec (.bind h q) s) fun t =>
        t.d.queueAt q.q = Queue.reset ∧ (∀ n, n ≠ q.q → t.d.queueAt n = d.queueAt n) ∧ Answered s t h 6 .ok .empty) ∧
      (x.state ≠ .closed → Gives (exec (.bind h q) s) fun t => OnlyAnswered s t h 6 .busy .empty))

/-- MAP and UNMAP of a page, LOAD of an image, BIND of a queue (choices: log 2, 8). -/
def Obligations.PagesAndPrograms : Prop :=
  Claims.PagesAreMapped ∧ Claims.ProgramsAreLoaded

/-- R94, R334, R417, R419, R420, R423: SCHED sets the schedule, of partitions that are there, and a deadline of 50 to 1,000 microseconds; CORE
rewrites a core halted by DOUBLE, a FRAME that it held being left as by a trap (log 21), and resumes it; PTPCFG sets domain, roles and pod table;
and POWER sets the state, which no tenant may be there for where clusters stop. What SLEEP loses is how log 18 reads R423. -/
def Claims.HostSettings : Prop :=
  ∀ (s : State) (h : ReqHeader) (b : SchedBody) (c : CoreBody) (p : PtpcfgBody) (w : PowerBody) (y : Core), s.Inv → s.d.InTurn h → HeaderFits h false →
    let o := h.part.toNat
    let d := s.d
    let host (t : State) (code : BitVec 16) (x : HostPort) : Prop :=
      OnlyHost s t x ∧ Answered s t h code .ok .empty
    let stops : Prop := w.state = .standby ∨ w.state = .sleep
    let tenants : Prop := ∃ p, p ≠ 0 ∧ p < 64 ∧ (d.ownerAt p).live = true
    let there (n : Nat) : Prop := n = 0 ∨ (d.ownerAt n).live = true
    (o = 0 ∨ (d.ownerAt o).live = true) →
    (50 ≤ b.deadlineUs → b.deadlineUs ≤ 1000 → (∀ x ∈ b.switches, x.outgoing < 64 ∧ x.incoming < 64) →
      ((∀ x ∈ b.switches, there x.outgoing ∧ there x.incoming) → Gives (exec (.sched h b) s) fun t =>
        host t 8 { d.host with switches := b.switches, deadlineUs := b.deadlineUs }) ∧
      ((∃ x ∈ b.switches, ¬ (there x.outgoing ∧ there x.incoming)) → Gives (exec (.sched h b) s) fun t =>
        OnlyAnswered s t h 8 .nopart .empty)) ∧
    (b.deadlineUs < 50 ∨ 1000 < b.deadlineUs → Gives (exec (.sched h b) s) fun t => OnlyAnswered s t h 8 .badreq .empty) ∧
    (p.roles.length = 12 → Gives (exec (.ptpcfg h p) s) fun t =>
      host t 13 { d.host with domain := p.domain, roles := p.roles, podTable := p.podTable }) ∧
    (o ≠ 0 → coreExists c.core = true → d.clusters[clusterIx c.core].owner = o →
      ((d.coreAt c.core).isEscalated = true → (c.regs.map (·.1)).Nodup → (d.coreAt c.core).leaveFrame.rewriteAll c.ctrl = some y →
        Gives (exec (.coreRequest h c) s) fun t =>
          let x := t.d.coreAt c.core
          x = { y with s := x.s, run := .running, pc := c.pc.getD y.pc, stall := 0 } ∧
          (∀ r v, (r, v) ∈ c.regs → x.readS d.clusters[clusterIx c.core].gen r = if r = 0 then 0 else v) ∧
          (∀ r, r ∉ c.regs.map (·.1) →
            x.readS d.clusters[clusterIx c.core].gen r = (d.coreAt c.core).leaveFrame.readS d.clusters[clusterIx c.core].gen r) ∧
          (∀ n, n ≠ c.core → t.d.coreAt n = d.coreAt n) ∧ Answered s t h 9 .ok .empty) ∧
      ((d.coreAt c.core).isEscalated = false → Gives (exec (.coreRequest h c) s) fun t => OnlyAnswered s t h 9 .badreq .empty)) ∧
    (stops → tenants → Gives (exec (.power h w) s) fun t => OnlyAnswered s t h 10 .busy .empty) ∧
    (w.state = .capped → w.limit < 1000 ∨ 1900 < w.limit → Gives (exec (.power h w) s) fun t => OnlyAnswered s t h 10 .badreq .empty) ∧
    (¬ (stops ∧ tenants) → (w.state = .capped → 1000 ≤ w.limit ∧ w.limit ≤ 1900) → w.state ≠ .sleep →
      Gives (exec (.power h w) s) fun t =>
        host t 10 { d.host with power := w.state, powerLimit := if w.state = .capped then w.limit else d.host.powerLimit
                                unreported := d.host.unreported ++ if d.host.power = .sleep then d.clusterFunctions else [] }) ∧
    (¬ tenants → w.state = .sleep → d.host.power ≠ .sleep → Gives (exec (.power h w) s) fun t =>
      t.d.host.power = .sleep ∧ t.d.core = Core.reset d.core.id ∧ t.d.others = [] ∧ t.d.mem.copies = [] ∧
      (∀ k : Fin 32, t.d.clusters[k] = { Cluster.reset with retired := (d.clusters[k]).retired }) ∧ Answered s t h 10 .ok .empty)

/-- R425, R426, R427: ATTEST answers the nonce, the identifier, the fused version and the measurements, followed by the signature over them;
FIRMWARE accepts an image whose signature verifies and whose version is not below the fused one, refuses the others as AUTH and
ROLLBACK. A code that is not assigned, or a body that breaks its layout, is BADREQ, whatever PART is. The order and the
widths of the report's fields are the model's choice (log 8). -/
def Claims.FirmwareAndAttestation : Prop :=
  ∀ (s : State) (h : ReqHeader) (b : AttestBody) (f : FirmwareBody) (code : BitVec 16), s.d.InTurn h → HeaderFits h false →
    let o := h.part.toNat
    let d := s.d
    let text := bytesOf 32 b.nonce.toNat ++ bytesOf 8 d.deviceId.toNat ++ bytesOf 8 d.host.fused ++ bytesOf 32 d.host.firmware.toNat ++
      bytesOf 32 Config.compositorDigest.toNat ++ if o = 0 then [] else (d.ownerAt o).loaded.flatMap fun x => bytesOf 32 x.toNat
    let digest := Config.shake256 f.image
    Gives (exec (.otherRequestCode h code) s) (fun t => OnlyAnswered s t h code .badreq .empty) ∧
    ((o = 0 ∨ (d.ownerAt o).live = true) →
    Gives (exec (.attest h b) s) (fun t => OnlyAnswered s t h 11 .ok (.report (text ++ Config.identitySignature text))) ∧
    (Config.firmwareSignatureOk digest f.signature = true →
      (d.host.fused ≤ f.version → Gives (exec (.firmware h f) s) fun t => Answered s t h 12 .ok .empty ∧
        OnlyHost s t { d.host with accepted := some (digest, f.version) }) ∧
      (f.version < d.host.fused → Gives (exec (.firmware h f) s) fun t => OnlyAnswered s t h 12 .rollback .empty)) ∧
    (Config.firmwareSignatureOk digest f.signature = false → Gives (exec (.firmware h f) s) fun t => OnlyAnswered s t h 12 .auth .empty))

/-- SCHED, CORE, PTPCFG, POWER, ATTEST and FIRMWARE (choices: log 8, 18, 21). -/
def Obligations.HostSettingsAndFirmware : Prop :=
  Claims.HostSettings ∧ Claims.FirmwareAndAttestation

/-- R10, R19, R415, R416, R421, R422, R424, R425: bring-up, packets and thermal events. At power-on every function has still to report, clusters are
owner 0's and an accepted image runs and raises the counter; other devices' memory is untouched. A function reports ready or retires, after the
control complexes of its dies; a dropped packet is counted at its port, one of an unlisted endpoint leaves no trace. That registers and memory are
zero after power-on are the model's choices (log 3, log 4), and so is the numbering of the links (log 18). -/
def Obligations.BringUpAndEvents : Prop :=
  ∀ (s : State) (f : DevUnit) (port endpoint : Nat) (id : BitVec 12),
    let d := s.d
    let host (t : State) (x : HostPort) : Prop := t = { s with d := { d with host := x } }
    let diesOf : DevUnit → List Nat := fun
      | .port n => [n / 3] | .link 0 => [0, 1] | .link 1 => [0, 2] | .link 2 => [0, 3] | .link 3 => [1, 2] | .link 4 => [1, 3] | .link 5 => [2, 3]
      | .link _ => [] | .channel x _ => [x / 2] | .cluster n => [n / 8] | .galley n => [n] | .control _ => []
    let due : Prop := f ∈ d.host.unreported ∧ ∀ die ∈ diesOf f, DevUnit.control die ∉ d.host.unreported
    let lost (t : State) : Prop := t.d.core = Core.reset d.core.id ∧ t.d.others = [] ∧ t.d.mem = { MemState.reset with pod := d.mem.pod } ∧
      t.d.queues = [] ∧ t.d.stops = [] ∧ (∀ k : Fin 32, t.d.clusters[k] = Cluster.reset) ∧ t.d.owners = Dev.reset.owners ∧ SameOutside s t
    (Gives (exec .powerOn s) fun t =>
      lost t ∧ t.d.host.powered = true ∧ (∀ u, unitExists u = true → u ∈ t.d.host.unreported) ∧
      (∀ x v, d.host.accepted = some (x, v) → t.d.host.firmware = x ∧ t.d.host.fused = v ∧ t.d.host.accepted = none) ∧
      (d.host.accepted = none → t.d.host.firmware = d.host.firmware ∧ t.d.host.fused = d.host.fused)) ∧
    (unitExists f = true → due →
      Gives (exec (.functionCheckEnd f true) s) (fun t => f ∉ t.d.host.unreported ∧ t.d.isOut f = false ∧
        t.d.host.notices = d.host.notices ++ [.ready f]) ∧
      Gives (exec (.functionCheckEnd f false) s) fun t => f ∉ t.d.host.unreported ∧ t.d.isOut f = true ∧
        t.d.host.notices = d.host.notices ++ [.retired f]) ∧
    (¬ due → ∀ passed, Gives (exec (.functionCheckEnd f passed) s) fun t => t = s) ∧
    Gives (exec .thermalThrottle s) (fun t => host t { d.host with throttled := true, notices := d.host.notices ++ [.throttle] }) ∧
    Gives (exec .thermalRecovery s) (fun t => host t { d.host with throttled := false }) ∧
    Gives (exec .thermalShutdown s) (fun t => lost t ∧ t.d.host.powered = false ∧ t.d.host.notices = d.host.notices ++ [.shutdown]) ∧
    (d.portUp port = true → Gives (exec (.packetDrop port) s) fun t => ∃ n,
      host t { d.host with portErrors := n } ∧ n.get 0 port = d.host.portErrors.get 0 port + 1 ∧
      ∀ p, p ≠ port → n.get 0 p = d.host.portErrors.get 0 p) ∧
    (d.portUp port = false → Gives (exec (.packetDrop port) s) fun t => t = s) ∧
    Gives (exec (.unlistedEndpoint endpoint) s) (fun t => t = s) ∧
    Gives (exec (.deviceIdentifierAssignment id) s) fun t => t = { s with d := { d with deviceId := id } }

/-- R50, R282: with no input and no cause due, a step of a running core, whose vector engine has completed what it was given, is exec of the
instruction that the word at its pc decodes to, or ILLOP where it decodes to none, with its last stall forgotten, with what it waited for at the
event unit given up but for an instruction that still waits for it, and, but for an instruction that only enters the matrix queue, with every MROW
of the queue performed. The step is tallied in the owner's counters, a cycle passes, and nothing is added besides. Where the fetch does not
complete, the step is what that leaves. That a step is one cycle is log 5, the MROWs before it are log 7, and the waits given up are log 16. -/
def Obligations.StepRunsDecoded : Prop :=
  ∀ s : State, s.inputs = [] → s.d.coreOn = true → s.d.dueMember = none → s.d.core.run = .running → s.d.core.gang = none →
    s.Quiet → s.d.core.leaving = false →
    let u : State := { s with d := { s.d with core := { s.d.core with stall := 0 } } }
    let rows (i : Instr) : Dev := match i with
      | .mma _ _ _ _ _ _ _ _ | .mzero _ | .mlda _ _ | .msto _ _ _ | .mrow _ _ _ => u.d
      | _ => if u.d.core.matrix.any MatrixEntry.isRow then u.d.drain MatrixEntry.isMctl else u.d
    let ready (i : Instr) : State := u.withDev ((rows i).giveUpWaits [s.d.core.id]
      (match i with | .evwait _ e => some e.toNat | _ => none) (match i with | .mlock m => some m.toNat | _ => none))
    let becomes (r : Result State) : Prop := ∃ v owners, r = .next v ∧ step s = .next ((v.withDev { v.d with owners := owners }).pass 1)
    (∀ w i, s.d.fetch = .ok w → decode w = .ok i → becomes (exec i (ready i))) ∧
    (∀ w r, s.d.fetch = .ok w → decode w = .error r → becomes (exec (.illop w r) (ready (.illop w r)))) ∧
    (∀ e, s.d.fetch = .error e → becomes (.next (u.withDev (u.d.fetchStopped e)))) ∧
    (s.d.core.pc.toNat % 4 ≠ 0 → ∃ f, s.d.fetch = .error (.trap { code := 0x03, epc := s.d.core.pc, faddr := s.d.core.pc, finfo := f
                                                                  async := false, defer := false }))

/-- An input is heard before anything else: a step that it names is exec of it, another core becomes current, or time passes (log 1). In a
step GCYCLE advances by one (log 5), in GCYCLE_STEP by what that step says, and in PC_SAMPLE not at all. While the clusters are not clocked only
the steps of the compositor, the ports and time act. After time has passed, sessions in which a LAUNCH waits try it again. -/
def Claims.InputsAreHeard : Prop :=
  ∀ (s : State) (rest : List Input),
    let u : State := { s with inputs := rest }
    (∀ i, s.inputs = .event i :: rest → encode i = none → (∀ w r, i ≠ .illop w r) → s.d.clocked = true →
      (∀ extra toff, i ≠ .gcycleStep extra toff) → (∀ c, i ≠ .pcSample c) → ∃ t : State, exec i u = .next t ∧ step s = .next (t.pass 1)) ∧
    (∀ extra toff, s.inputs = .event (.gcycleStep extra toff) :: rest → s.d.host.powered = true →
      ∃ t : State, exec (.gcycleStep extra toff) u = .next t ∧
        step s = .next (State.passOnce 1 (t.gcycle - s.gcycle) { t with gcycle := s.gcycle })) ∧
    (∀ i, s.inputs = .event i :: rest → encode i = none → (∀ w r, i ≠ .illop w r) → s.d.host.powered = false → i ≠ .powerOn →
      step s = .next (u.pass 1)) ∧
    (∀ i, s.inputs = .event i :: rest → encode i = none → (∀ w r, i ≠ .illop w r) → s.d.host.powered = true → s.d.clocked = false →
      (goesOn i = false → step s = .next (u.pass 1)) ∧
      (goesOn i = true → (∀ extra toff, i ≠ .gcycleStep extra toff) → ∃ t : State, exec i u = .next t ∧ step s = .next (t.pass 1))) ∧
    (∀ i, s.inputs = .event i :: rest → encode i ≠ none → step s = .fault .spuriousInput) ∧
    (∀ n, s.inputs = .tick n :: rest → step s = .next (u.pass n).retried) ∧
    (∀ c, s.inputs = .turn c :: rest → coreExists c = true → (s.d.coreAt c).gang = none →
      ∃ t : State, step s = .next (t.pass 1) ∧ t.d.core = s.d.coreAt c ∧ t.gcycle = s.gcycle ∧ t.inputs = rest)

/-- R344: GCYCLE never decreases, and without an input it advances by one: that a step is a cycle is the model's choice (log 5). -/
def Claims.GcycleNeverDecreases : Prop :=
  ∀ s t : State, step s = .next t → s.gcycle ≤ t.gcycle ∧ (s.inputs = [] → t.gcycle = s.gcycle + 1)

/-- R65, R66, R342, R343, R344: as n cycles pass, GCYCLE advances by n, the counter of core cycles of an owner by n for each of its running
cores that neither HALT nor a stop holds, in a cluster in service, while the clusters are clocked, and each position that it counts by n
while it holds a cluster, where no rotation of its slots falls into the time. A store grows older by n but
while its core stands halted, and none of this device's is 8,192 cycles old and uncommitted. Here no stop and no proof is in progress. -/
def Claims.TimePasses : Prop :=
  ∀ (s : State) (n : Nat), s.Inv → s.d.stops = [] → s.d.trigger = none →
    let t := s.pass n
    let count (x : State) (o c : Nat) : Nat := (x.d.ownerAt o).counters.get 0 c
    let running (o : Nat) : Nat :=
      ((s.d.core :: s.d.others.map (·.2)).filter fun c =>
        decide (c.run = .running) && c.halt.isNone && s.d.clocked && !s.d.clusters[clusterIx c.id].retired &&
          decide (s.d.clusters[clusterIx c.id].owner = o)).length
    t.gcycle = s.gcycle + n ∧ t.inputs = s.inputs ∧
    (∀ o, o < 64 → (0 < running o → count t o 0x000 = min (2 ^ 48 - 1) (count s o 0x000 + n * running o)) ∧
      (running o = 0 → count t o 0x000 = count s o 0x000)) ∧
    (s.d.mem.stores = [] → ((s.gcycle + n) / 65536 ≤ s.d.rotated → ∀ o, o < 64 → ((s.d.ownerAt o).counting.map (·.1)).Nodup →
      ∀ x ∈ (s.d.ownerAt o).counting,
        (∃ k : Fin 32, s.d.clusters[k].owner = o) → x.1 < 32 → count t o (0x120 + x.1) = min (2 ^ 48 - 1) (count s o (0x120 + x.1) + n)) ∧
      t.d = { s.d with owners := t.d.owners, rotated := t.d.rotated }) ∧
    (∀ r ∈ t.d.mem.stores, (r.dev = none → r.age < 8192) ∧
      ∃ q ∈ s.d.mem.stores, r.phase.stage = q.phase.stage ∧
        r = { q with age := if (s.d.coreAt q.core).halt.isSome then q.age else q.age + n, phase := r.phase })

/-- Inputs are heard first, time passes, and GCYCLE never decreases (choices: log 1 for the inputs, log 5 for one step as one
cycle). -/
def Obligations.InputsAndTime : Prop :=
  Claims.InputsAreHeard ∧ Claims.GcycleNeverDecreases ∧ Claims.TimePasses

/-- Every step keeps the memories in their canonical form, the stores in flight numbered and the copies whole. -/
def Obligations.StepKeepsInv : Prop := ∀ s t : State, s.Inv → step s = .next t → t.Inv

/-- The invariant holds after reset. -/
def Obligations.ResetInv : Prop := State.reset.Inv

/-- R89, R228, R211, R263: the machine after reset: every core idle at supervisor level with CONS set and IE clear, no flag, no FRAME state and
no pending cause; stream and descriptor registers zero; nothing in memory. That the register files, the pc and the remaining control
registers are zero is the model's choice (log 2, log 3, log 4). -/
def Obligations.ResetValues : Prop :=
  let s := State.reset
  s.gcycle = 0 ∧ s.inputs = [] ∧ s.d.mem.hbm = [] ∧ s.d.mem.stores = [] ∧ s.d.mem.partials = [] ∧ s.d.mem.copies = [] ∧
  s.d.stops = [] ∧
  (∀ k : Fin 32, (s.d.clusters[k]).owner = 0 ∧ (s.d.clusters[k]).scrubbing = false) ∧
  ∀ n, let c := s.d.coreAt n
    c.id = n ∧ c.run = .idle ∧ c.status = { cons := true, ppl := .user, pie := false, ie := false, pl := .supervisor } ∧
    c.fflags = Flags.none ∧ c.frst = { act := false, rep := 0, pos := 0 } ∧ c.anyPending = false ∧ c.sequencer = [] ∧ c.inbox = [] ∧
    (∀ r : SReg, c.readS 0 r = 0) ∧ (∀ j : BitVec 4, (c.stream[j.toFin]).read 0 = 0 ∧ (c.desc[j.toFin]).read 0 = 0) ∧
    (∀ r : VReg, (c.v[r.toFin]).read 0 = 0) ∧ c.pc = 0 ∧ c.tvec = 0 ∧ c.epc = 0

/-- R33, R36: every well-formed instruction that has a word is what its word decodes to, with every operand at every value. -/
def Obligations.RoundTrip : Prop := ∀ i w, i.wf = true → encode i = some w → decode w = .ok i

/-- R39: a word that decodes is the word of the well-formed instruction that it decodes to: no bit of it is ignored, and no two words decode
to one instruction. -/
def Obligations.DecodedIsEncoded : Prop := ∀ w i, decode w = .ok i → i.wf = true ∧ encode i = some w

/-- R39, R40: words of an opcode that is illegal or reserved have reason 1, and every other word that is no instruction one of the reasons 2
to 5. -/
def Obligations.ReservedWordsAreRefused : Prop :=
  ∀ w : Word32,
    let mo := w.toNat / 2 ^ 26
    (mo = 0 ∨ 0x31 ≤ mo ↔ decode w = .error 1) ∧ ∀ r, decode w = .error r → 1 ≤ r.toNat ∧ r.toNat ≤ 5

/-- Words that the spec writes out decode to the instructions that they stand for (R34, R37 and the chapters of each family). -/
def Obligations.SpecWordsDecode : Prop :=
  decode 0x04821818 = .ok (.remn 4 2 3) ∧ decode 0x24E589AB = .ok (.hwi 7 1 0x89AB) ∧ decode 0x2C603FFD = .ok (.bne 3 0 0x1FFD) ∧
  decode 0x33FFFFC0 = .ok (.jmp 0x3FFFFC0) ∧ decode 0x64852980 = .ok (.fmadd .f32 .rne 4 5 5 6) ∧
  decode 0x44E25FF8 = .ok (.st .w 7 2 0x1FF8) ∧ decode 0x5082319B = .ok (.atomCas .q .ar .dev 4 2 6) ∧
  decode 0x54022C4C = .ok (.redAdd false .f32 .rel .dev 2 5) ∧ decode 0x68223908 = .ok (.vld .w .none false 1 1 2 7) ∧
  decode 0x78430888 = .ok (.vfma .f32 1 2 3 1 2) ∧ decode 0x80262042 = .ok (.vbound .i32 1 6 4) ∧ decode 0x9065000A = .ok (.vdup .w 0 3 5) ∧
  decode 0x8C21000C = .ok (.frame 1 1 3 0) ∧ decode 0x9523215D = .ok (.mma 1 2 3 4 5 7 false true) ∧
  decode 0x98051006 = .ok (.msto true 2 5) ∧ decode 0x9C430000 = .ok (.pdesc 2 3 0) ∧ decode 0xA0860000 = .ok (.qpush 0 4 6) ∧
  decode 0xA4C40405 = .ok (.barw 6 4 5) ∧ decode 0xA8620011 = .ok (.launch 3 2 17) ∧ decode 0xACA41005 = .ok (.gredMax 5 4) ∧
  decode 0xB0C72003 = .ok (.exq 6 7 3) ∧ decode 0xB502298B = .ok (.cread true .acq .dev 8 2 5) ∧ decode 0xB8660411 = .ok (.fcut 3 6 17) ∧
  decode 0xBC000401 = .ok (.trap 1) ∧ decode 0xC0060402 = .ok (.ctsel 6 2)
end

