-- ==== Sys2Proof/Laws/State.lean ====
section
/-! SUPPORT. What each update of the state leaves in each field: one lemma per field and update. -/
namespace Sys2Proof.Machine
open Sys2Proof

@[simp] theorem State.withDev_d (s : State) (d : Dev) : (s.withDev d).d = d := rfl
@[simp] theorem State.withDev_gcycle (s : State) (d : Dev) : (s.withDev d).gcycle = s.gcycle := rfl
@[simp] theorem State.withDev_inputs (s : State) (d : Dev) : (s.withDev d).inputs = s.inputs := rfl
@[simp] theorem State.withDev_self (s : State) : s.withDev s.d = s := rfl

@[simp] theorem Core.writeS_id (c : Core) (g : BitVec 8) (r : SReg) (x : Word) : (c.writeS g r x).id = c.id := by
  unfold Core.writeS; split <;> rfl
@[simp] theorem Core.writeS_pc (c : Core) (g : BitVec 8) (r : SReg) (x : Word) : (c.writeS g r x).pc = c.pc := by
  unfold Core.writeS; split <;> rfl
@[simp] theorem Core.writeS_run (c : Core) (g : BitVec 8) (r : SReg) (x : Word) : (c.writeS g r x).run = c.run := by
  unfold Core.writeS; split <;> rfl
@[simp] theorem Core.writeS_v (c : Core) (g : BitVec 8) (r : SReg) (x : Word) : (c.writeS g r x).v = c.v := by
  unfold Core.writeS; split <;> rfl
@[simp] theorem Core.writeS_p (c : Core) (g : BitVec 8) (r : SReg) (x : Word) : (c.writeS g r x).p = c.p := by
  unfold Core.writeS; split <;> rfl
@[simp] theorem Core.writeS_acc (c : Core) (g : BitVec 8) (r : SReg) (x : Word) : (c.writeS g r x).acc = c.acc := by
  unfold Core.writeS; split <;> rfl
@[simp] theorem Core.writeS_desc (c : Core) (g : BitVec 8) (r : SReg) (x : Word) : (c.writeS g r x).desc = c.desc := by
  unfold Core.writeS; split <;> rfl
@[simp] theorem Core.writeS_stream (c : Core) (g : BitVec 8) (r : SReg) (x : Word) : (c.writeS g r x).stream = c.stream := by
  unfold Core.writeS; split <;> rfl
@[simp] theorem Core.writeS_port (c : Core) (g : BitVec 8) (r : SReg) (x : Word) : (c.writeS g r x).port = c.port := by
  unfold Core.writeS; split <;> rfl
@[simp] theorem Core.writeS_status (c : Core) (g : BitVec 8) (r : SReg) (x : Word) : (c.writeS g r x).status = c.status := by
  unfold Core.writeS; split <;> rfl
@[simp] theorem Core.writeS_cause (c : Core) (g : BitVec 8) (r : SReg) (x : Word) : (c.writeS g r x).cause = c.cause := by
  unfold Core.writeS; split <;> rfl
@[simp] theorem Core.writeS_epc (c : Core) (g : BitVec 8) (r : SReg) (x : Word) : (c.writeS g r x).epc = c.epc := by
  unfold Core.writeS; split <;> rfl
@[simp] theorem Core.writeS_faddr (c : Core) (g : BitVec 8) (r : SReg) (x : Word) : (c.writeS g r x).faddr = c.faddr := by
  unfold Core.writeS; split <;> rfl
@[simp] theorem Core.writeS_finfo (c : Core) (g : BitVec 8) (r : SReg) (x : Word) : (c.writeS g r x).finfo = c.finfo := by
  unfold Core.writeS; split <;> rfl
@[simp] theorem Core.writeS_tvec (c : Core) (g : BitVec 8) (r : SReg) (x : Word) : (c.writeS g r x).tvec = c.tvec := by
  unfold Core.writeS; split <;> rfl
@[simp] theorem Core.writeS_tstack (c : Core) (g : BitVec 8) (r : SReg) (x : Word) : (c.writeS g r x).tstack = c.tstack := by
  unfold Core.writeS; split <;> rfl
@[simp] theorem Core.writeS_kscr (c : Core) (g : BitVec 8) (r : SReg) (x : Word) : (c.writeS g r x).kscr = c.kscr := by
  unfold Core.writeS; split <;> rfl
@[simp] theorem Core.writeS_savearea (c : Core) (g : BitVec 8) (r : SReg) (x : Word) : (c.writeS g r x).savearea = c.savearea := by
  unfold Core.writeS; split <;> rfl
@[simp] theorem Core.writeS_ctxbuf (c : Core) (g : BitVec 8) (r : SReg) (x : Word) : (c.writeS g r x).ctxbuf = c.ctxbuf := by
  unfold Core.writeS; split <;> rfl
@[simp] theorem Core.writeS_ipend (c : Core) (g : BitVec 8) (r : SReg) (x : Word) : (c.writeS g r x).ipend = c.ipend := by
  unfold Core.writeS; split <;> rfl
@[simp] theorem Core.writeS_frst (c : Core) (g : BitVec 8) (r : SReg) (x : Word) : (c.writeS g r x).frst = c.frst := by
  unfold Core.writeS; split <;> rfl
@[simp] theorem Core.writeS_fflags (c : Core) (g : BitVec 8) (r : SReg) (x : Word) : (c.writeS g r x).fflags = c.fflags := by
  unfold Core.writeS; split <;> rfl
@[simp] theorem Core.writeS_preemptSource (c : Core) (g : BitVec 8) (r : SReg) (x : Word) : (c.writeS g r x).preemptSource = c.preemptSource := by
  unfold Core.writeS; split <;> rfl
@[simp] theorem Core.writeS_stopTick (c : Core) (g : BitVec 8) (r : SReg) (x : Word) : (c.writeS g r x).stopTick = c.stopTick := by
  unfold Core.writeS; split <;> rfl
@[simp] theorem Core.writeS_minimaMask (c : Core) (g : BitVec 8) (r : SReg) (x : Word) : (c.writeS g r x).minimaMask = c.minimaMask := by
  unfold Core.writeS; split <;> rfl
@[simp] theorem Core.writeS_uncorr (c : Core) (g : BitVec 8) (r : SReg) (x : Word) : (c.writeS g r x).uncorr = c.uncorr := by
  unfold Core.writeS; split <;> rfl
@[simp] theorem Core.writeS_inbox (c : Core) (g : BitVec 8) (r : SReg) (x : Word) : (c.writeS g r x).inbox = c.inbox := by
  unfold Core.writeS; split <;> rfl
@[simp] theorem Core.writeS_delivered (c : Core) (g : BitVec 8) (r : SReg) (x : Word) : (c.writeS g r x).delivered = c.delivered := by
  unfold Core.writeS; split <;> rfl
@[simp] theorem Core.writeS_stall (c : Core) (g : BitVec 8) (r : SReg) (x : Word) : (c.writeS g r x).stall = c.stall := by
  unfold Core.writeS; split <;> rfl
@[simp] theorem Core.writeS_frame (c : Core) (g : BitVec 8) (r : SReg) (x : Word) : (c.writeS g r x).frame = c.frame := by
  unfold Core.writeS; split <;> rfl
@[simp] theorem Core.writeS_matrix (c : Core) (g : BitVec 8) (r : SReg) (x : Word) : (c.writeS g r x).matrix = c.matrix := by
  unfold Core.writeS; split <;> rfl
@[simp] theorem Core.writeS_pad (c : Core) (g : BitVec 8) (r : SReg) (x : Word) : (c.writeS g r x).pad = c.pad := by
  unfold Core.writeS; split <;> rfl
@[simp] theorem Core.writeS_gang (c : Core) (g : BitVec 8) (r : SReg) (x : Word) : (c.writeS g r x).gang = c.gang := by
  unfold Core.writeS; split <;> rfl
@[simp] theorem Core.writeS_leaving (c : Core) (g : BitVec 8) (r : SReg) (x : Word) : (c.writeS g r x).leaving = c.leaving := by
  unfold Core.writeS; split <;> rfl
@[simp] theorem Core.writeS_parked (c : Core) (g : BitVec 8) (r : SReg) (x : Word) : (c.writeS g r x).parked = c.parked := by
  unfold Core.writeS; split <;> rfl
@[simp] theorem Core.writeS_task (c : Core) (g : BitVec 8) (r : SReg) (x : Word) : (c.writeS g r x).task = c.task := by
  unfold Core.writeS; split <;> rfl
@[simp] theorem Core.writeS_yielded (c : Core) (g : BitVec 8) (r : SReg) (x : Word) : (c.writeS g r x).yielded = c.yielded := by
  unfold Core.writeS; split <;> rfl
@[simp] theorem Core.writeS_sequencer (c : Core) (g : BitVec 8) (r : SReg) (x : Word) : (c.writeS g r x).sequencer = c.sequencer := by
  unfold Core.writeS; split <;> rfl
@[simp] theorem Core.writeS_spilled (c : Core) (g : BitVec 8) (r : SReg) (x : Word) : (c.writeS g r x).spilled = c.spilled := by
  unfold Core.writeS; split <;> rfl
@[simp] theorem Core.writeS_halt (c : Core) (g : BitVec 8) (r : SReg) (x : Word) : (c.writeS g r x).halt = c.halt := by
  unfold Core.writeS; split <;> rfl
@[simp] theorem Core.writeS_ends (c : Core) (g : BitVec 8) (r : SReg) (x : Word) : (c.writeS g r x).ends = c.ends := by
  unfold Core.writeS; split <;> rfl
@[simp] theorem Core.writeS_traps (c : Core) (g : BitVec 8) (r : SReg) (x : Word) : (c.writeS g r x).traps = c.traps := by
  unfold Core.writeS; split <;> rfl

-- Dev.wr
@[simp] theorem Dev.wr_others (d : Dev) (r : SReg) (x : Word) : (d.wr r x).others = d.others := rfl
@[simp] theorem Dev.wr_clusters (d : Dev) (r : SReg) (x : Word) : (d.wr r x).clusters = d.clusters := rfl
@[simp] theorem Dev.wr_owners (d : Dev) (r : SReg) (x : Word) : (d.wr r x).owners = d.owners := rfl
@[simp] theorem Dev.wr_mem (d : Dev) (r : SReg) (x : Word) : (d.wr r x).mem = d.mem := rfl
@[simp] theorem Dev.wr_messages (d : Dev) (r : SReg) (x : Word) : (d.wr r x).messages = d.messages := rfl
@[simp] theorem Dev.wr_queues (d : Dev) (r : SReg) (x : Word) : (d.wr r x).queues = d.queues := rfl
@[simp] theorem Dev.wr_pieces (d : Dev) (r : SReg) (x : Word) : (d.wr r x).pieces = d.pieces := rfl
@[simp] theorem Dev.wr_nextPiece (d : Dev) (r : SReg) (x : Word) : (d.wr r x).nextPiece = d.nextPiece := rfl
@[simp] theorem Dev.wr_packets (d : Dev) (r : SReg) (x : Word) : (d.wr r x).packets = d.packets := rfl
@[simp] theorem Dev.wr_nextPacket (d : Dev) (r : SReg) (x : Word) : (d.wr r x).nextPacket = d.nextPacket := rfl
@[simp] theorem Dev.wr_arbiters (d : Dev) (r : SReg) (x : Word) : (d.wr r x).arbiters = d.arbiters := rfl
@[simp] theorem Dev.wr_stops (d : Dev) (r : SReg) (x : Word) : (d.wr r x).stops = d.stops := rfl
@[simp] theorem Dev.wr_contexts (d : Dev) (r : SReg) (x : Word) : (d.wr r x).contexts = d.contexts := rfl
@[simp] theorem Dev.wr_trigger (d : Dev) (r : SReg) (x : Word) : (d.wr r x).trigger = d.trigger := rfl
@[simp] theorem Dev.wr_toff (d : Dev) (r : SReg) (x : Word) : (d.wr r x).toff = d.toff := rfl
@[simp] theorem Dev.wr_servo (d : Dev) (r : SReg) (x : Word) : (d.wr r x).servo = d.servo := rfl
@[simp] theorem Dev.wr_host (d : Dev) (r : SReg) (x : Word) : (d.wr r x).host = d.host := rfl
@[simp] theorem Dev.wr_deviceId (d : Dev) (r : SReg) (x : Word) : (d.wr r x).deviceId = d.deviceId := rfl
@[simp] theorem Dev.wr_draws (d : Dev) (r : SReg) (x : Word) : (d.wr r x).draws = d.draws := rfl
@[simp] theorem Dev.wr_core_id (d : Dev) (r : SReg) (x : Word) : (d.wr r x).core.id = d.core.id := Core.writeS_id ..
@[simp] theorem Dev.wr_core_pc (d : Dev) (r : SReg) (x : Word) : (d.wr r x).core.pc = d.core.pc := Core.writeS_pc ..
@[simp] theorem Dev.wr_core_run (d : Dev) (r : SReg) (x : Word) : (d.wr r x).core.run = d.core.run := Core.writeS_run ..
@[simp] theorem Dev.wr_core_v (d : Dev) (r : SReg) (x : Word) : (d.wr r x).core.v = d.core.v := Core.writeS_v ..
@[simp] theorem Dev.wr_core_p (d : Dev) (r : SReg) (x : Word) : (d.wr r x).core.p = d.core.p := Core.writeS_p ..
@[simp] theorem Dev.wr_core_acc (d : Dev) (r : SReg) (x : Word) : (d.wr r x).core.acc = d.core.acc := Core.writeS_acc ..
@[simp] theorem Dev.wr_core_desc (d : Dev) (r : SReg) (x : Word) : (d.wr r x).core.desc = d.core.desc := Core.writeS_desc ..
@[simp] theorem Dev.wr_core_stream (d : Dev) (r : SReg) (x : Word) : (d.wr r x).core.stream = d.core.stream := Core.writeS_stream ..
@[simp] theorem Dev.wr_core_port (d : Dev) (r : SReg) (x : Word) : (d.wr r x).core.port = d.core.port := Core.writeS_port ..
@[simp] theorem Dev.wr_core_status (d : Dev) (r : SReg) (x : Word) : (d.wr r x).core.status = d.core.status := Core.writeS_status ..
@[simp] theorem Dev.wr_core_cause (d : Dev) (r : SReg) (x : Word) : (d.wr r x).core.cause = d.core.cause := Core.writeS_cause ..
@[simp] theorem Dev.wr_core_epc (d : Dev) (r : SReg) (x : Word) : (d.wr r x).core.epc = d.core.epc := Core.writeS_epc ..
@[simp] theorem Dev.wr_core_faddr (d : Dev) (r : SReg) (x : Word) : (d.wr r x).core.faddr = d.core.faddr := Core.writeS_faddr ..
@[simp] theorem Dev.wr_core_finfo (d : Dev) (r : SReg) (x : Word) : (d.wr r x).core.finfo = d.core.finfo := Core.writeS_finfo ..
@[simp] theorem Dev.wr_core_tvec (d : Dev) (r : SReg) (x : Word) : (d.wr r x).core.tvec = d.core.tvec := Core.writeS_tvec ..
@[simp] theorem Dev.wr_core_tstack (d : Dev) (r : SReg) (x : Word) : (d.wr r x).core.tstack = d.core.tstack := Core.writeS_tstack ..
@[simp] theorem Dev.wr_core_kscr (d : Dev) (r : SReg) (x : Word) : (d.wr r x).core.kscr = d.core.kscr := Core.writeS_kscr ..
@[simp] theorem Dev.wr_core_savearea (d : Dev) (r : SReg) (x : Word) : (d.wr r x).core.savearea = d.core.savearea := Core.writeS_savearea ..
@[simp] theorem Dev.wr_core_ctxbuf (d : Dev) (r : SReg) (x : Word) : (d.wr r x).core.ctxbuf = d.core.ctxbuf := Core.writeS_ctxbuf ..
@[simp] theorem Dev.wr_core_ipend (d : Dev) (r : SReg) (x : Word) : (d.wr r x).core.ipend = d.core.ipend := Core.writeS_ipend ..
@[simp] theorem Dev.wr_core_frst (d : Dev) (r : SReg) (x : Word) : (d.wr r x).core.frst = d.core.frst := Core.writeS_frst ..
@[simp] theorem Dev.wr_core_fflags (d : Dev) (r : SReg) (x : Word) : (d.wr r x).core.fflags = d.core.fflags := Core.writeS_fflags ..
@[simp] theorem Dev.wr_core_preemptSource (d : Dev) (r : SReg) (x : Word) : (d.wr r x).core.preemptSource = d.core.preemptSource := Core.writeS_preemptSource ..
@[simp] theorem Dev.wr_core_stopTick (d : Dev) (r : SReg) (x : Word) : (d.wr r x).core.stopTick = d.core.stopTick := Core.writeS_stopTick ..
@[simp] theorem Dev.wr_core_minimaMask (d : Dev) (r : SReg) (x : Word) : (d.wr r x).core.minimaMask = d.core.minimaMask := Core.writeS_minimaMask ..
@[simp] theorem Dev.wr_core_uncorr (d : Dev) (r : SReg) (x : Word) : (d.wr r x).core.uncorr = d.core.uncorr := Core.writeS_uncorr ..
@[simp] theorem Dev.wr_core_inbox (d : Dev) (r : SReg) (x : Word) : (d.wr r x).core.inbox = d.core.inbox := Core.writeS_inbox ..
@[simp] theorem Dev.wr_core_delivered (d : Dev) (r : SReg) (x : Word) : (d.wr r x).core.delivered = d.core.delivered := Core.writeS_delivered ..
@[simp] theorem Dev.wr_core_stall (d : Dev) (r : SReg) (x : Word) : (d.wr r x).core.stall = d.core.stall := Core.writeS_stall ..
@[simp] theorem Dev.wr_core_frame (d : Dev) (r : SReg) (x : Word) : (d.wr r x).core.frame = d.core.frame := Core.writeS_frame ..
@[simp] theorem Dev.wr_core_matrix (d : Dev) (r : SReg) (x : Word) : (d.wr r x).core.matrix = d.core.matrix := Core.writeS_matrix ..
@[simp] theorem Dev.wr_core_pad (d : Dev) (r : SReg) (x : Word) : (d.wr r x).core.pad = d.core.pad := Core.writeS_pad ..
@[simp] theorem Dev.wr_core_gang (d : Dev) (r : SReg) (x : Word) : (d.wr r x).core.gang = d.core.gang := Core.writeS_gang ..
@[simp] theorem Dev.wr_core_leaving (d : Dev) (r : SReg) (x : Word) : (d.wr r x).core.leaving = d.core.leaving := Core.writeS_leaving ..
@[simp] theorem Dev.wr_core_parked (d : Dev) (r : SReg) (x : Word) : (d.wr r x).core.parked = d.core.parked := Core.writeS_parked ..
@[simp] theorem Dev.wr_core_task (d : Dev) (r : SReg) (x : Word) : (d.wr r x).core.task = d.core.task := Core.writeS_task ..
@[simp] theorem Dev.wr_core_yielded (d : Dev) (r : SReg) (x : Word) : (d.wr r x).core.yielded = d.core.yielded := Core.writeS_yielded ..
@[simp] theorem Dev.wr_core_sequencer (d : Dev) (r : SReg) (x : Word) : (d.wr r x).core.sequencer = d.core.sequencer := Core.writeS_sequencer ..
@[simp] theorem Dev.wr_core_spilled (d : Dev) (r : SReg) (x : Word) : (d.wr r x).core.spilled = d.core.spilled := Core.writeS_spilled ..
@[simp] theorem Dev.wr_core_halt (d : Dev) (r : SReg) (x : Word) : (d.wr r x).core.halt = d.core.halt := Core.writeS_halt ..
@[simp] theorem Dev.wr_core_ends (d : Dev) (r : SReg) (x : Word) : (d.wr r x).core.ends = d.core.ends := Core.writeS_ends ..
@[simp] theorem Dev.wr_core_traps (d : Dev) (r : SReg) (x : Word) : (d.wr r x).core.traps = d.core.traps := Core.writeS_traps ..

-- Dev.wrPair
@[simp] theorem Dev.wrPair_others (d : Dev) (r : SReg) (x : BitVec 128) : (d.wrPair r x).others = d.others := rfl
@[simp] theorem Dev.wrPair_clusters (d : Dev) (r : SReg) (x : BitVec 128) : (d.wrPair r x).clusters = d.clusters := rfl
@[simp] theorem Dev.wrPair_owners (d : Dev) (r : SReg) (x : BitVec 128) : (d.wrPair r x).owners = d.owners := rfl
@[simp] theorem Dev.wrPair_mem (d : Dev) (r : SReg) (x : BitVec 128) : (d.wrPair r x).mem = d.mem := rfl
@[simp] theorem Dev.wrPair_messages (d : Dev) (r : SReg) (x : BitVec 128) : (d.wrPair r x).messages = d.messages := rfl
@[simp] theorem Dev.wrPair_queues (d : Dev) (r : SReg) (x : BitVec 128) : (d.wrPair r x).queues = d.queues := rfl
@[simp] theorem Dev.wrPair_pieces (d : Dev) (r : SReg) (x : BitVec 128) : (d.wrPair r x).pieces = d.pieces := rfl
@[simp] theorem Dev.wrPair_nextPiece (d : Dev) (r : SReg) (x : BitVec 128) : (d.wrPair r x).nextPiece = d.nextPiece := rfl
@[simp] theorem Dev.wrPair_packets (d : Dev) (r : SReg) (x : BitVec 128) : (d.wrPair r x).packets = d.packets := rfl
@[simp] theorem Dev.wrPair_nextPacket (d : Dev) (r : SReg) (x : BitVec 128) : (d.wrPair r x).nextPacket = d.nextPacket := rfl
@[simp] theorem Dev.wrPair_arbiters (d : Dev) (r : SReg) (x : BitVec 128) : (d.wrPair r x).arbiters = d.arbiters := rfl
@[simp] theorem Dev.wrPair_stops (d : Dev) (r : SReg) (x : BitVec 128) : (d.wrPair r x).stops = d.stops := rfl
@[simp] theorem Dev.wrPair_contexts (d : Dev) (r : SReg) (x : BitVec 128) : (d.wrPair r x).contexts = d.contexts := rfl
@[simp] theorem Dev.wrPair_trigger (d : Dev) (r : SReg) (x : BitVec 128) : (d.wrPair r x).trigger = d.trigger := rfl
@[simp] theorem Dev.wrPair_toff (d : Dev) (r : SReg) (x : BitVec 128) : (d.wrPair r x).toff = d.toff := rfl
@[simp] theorem Dev.wrPair_servo (d : Dev) (r : SReg) (x : BitVec 128) : (d.wrPair r x).servo = d.servo := rfl
@[simp] theorem Dev.wrPair_host (d : Dev) (r : SReg) (x : BitVec 128) : (d.wrPair r x).host = d.host := rfl
@[simp] theorem Dev.wrPair_deviceId (d : Dev) (r : SReg) (x : BitVec 128) : (d.wrPair r x).deviceId = d.deviceId := rfl
@[simp] theorem Dev.wrPair_draws (d : Dev) (r : SReg) (x : BitVec 128) : (d.wrPair r x).draws = d.draws := rfl
@[simp] theorem Dev.wrPair_core_id (d : Dev) (r : SReg) (x : BitVec 128) : (d.wrPair r x).core.id = d.core.id := (Core.writeS_id ..).trans (Core.writeS_id ..)
@[simp] theorem Dev.wrPair_core_pc (d : Dev) (r : SReg) (x : BitVec 128) : (d.wrPair r x).core.pc = d.core.pc := (Core.writeS_pc ..).trans (Core.writeS_pc ..)
@[simp] theorem Dev.wrPair_core_run (d : Dev) (r : SReg) (x : BitVec 128) : (d.wrPair r x).core.run = d.core.run := (Core.writeS_run ..).trans (Core.writeS_run ..)
@[simp] theorem Dev.wrPair_core_v (d : Dev) (r : SReg) (x : BitVec 128) : (d.wrPair r x).core.v = d.core.v := (Core.writeS_v ..).trans (Core.writeS_v ..)
@[simp] theorem Dev.wrPair_core_p (d : Dev) (r : SReg) (x : BitVec 128) : (d.wrPair r x).core.p = d.core.p := (Core.writeS_p ..).trans (Core.writeS_p ..)
@[simp] theorem Dev.wrPair_core_acc (d : Dev) (r : SReg) (x : BitVec 128) : (d.wrPair r x).core.acc = d.core.acc := (Core.writeS_acc ..).trans (Core.writeS_acc ..)
@[simp] theorem Dev.wrPair_core_desc (d : Dev) (r : SReg) (x : BitVec 128) : (d.wrPair r x).core.desc = d.core.desc := (Core.writeS_desc ..).trans (Core.writeS_desc ..)
@[simp] theorem Dev.wrPair_core_stream (d : Dev) (r : SReg) (x : BitVec 128) : (d.wrPair r x).core.stream = d.core.stream := (Core.writeS_stream ..).trans (Core.writeS_stream ..)
@[simp] theorem Dev.wrPair_core_port (d : Dev) (r : SReg) (x : BitVec 128) : (d.wrPair r x).core.port = d.core.port := (Core.writeS_port ..).trans (Core.writeS_port ..)
@[simp] theorem Dev.wrPair_core_status (d : Dev) (r : SReg) (x : BitVec 128) : (d.wrPair r x).core.status = d.core.status := (Core.writeS_status ..).trans (Core.writeS_status ..)
@[simp] theorem Dev.wrPair_core_cause (d : Dev) (r : SReg) (x : BitVec 128) : (d.wrPair r x).core.cause = d.core.cause := (Core.writeS_cause ..).trans (Core.writeS_cause ..)
@[simp] theorem Dev.wrPair_core_epc (d : Dev) (r : SReg) (x : BitVec 128) : (d.wrPair r x).core.epc = d.core.epc := (Core.writeS_epc ..).trans (Core.writeS_epc ..)
@[simp] theorem Dev.wrPair_core_faddr (d : Dev) (r : SReg) (x : BitVec 128) : (d.wrPair r x).core.faddr = d.core.faddr := (Core.writeS_faddr ..).trans (Core.writeS_faddr ..)
@[simp] theorem Dev.wrPair_core_finfo (d : Dev) (r : SReg) (x : BitVec 128) : (d.wrPair r x).core.finfo = d.core.finfo := (Core.writeS_finfo ..).trans (Core.writeS_finfo ..)
@[simp] theorem Dev.wrPair_core_tvec (d : Dev) (r : SReg) (x : BitVec 128) : (d.wrPair r x).core.tvec = d.core.tvec := (Core.writeS_tvec ..).trans (Core.writeS_tvec ..)
@[simp] theorem Dev.wrPair_core_tstack (d : Dev) (r : SReg) (x : BitVec 128) : (d.wrPair r x).core.tstack = d.core.tstack := (Core.writeS_tstack ..).trans (Core.writeS_tstack ..)
@[simp] theorem Dev.wrPair_core_kscr (d : Dev) (r : SReg) (x : BitVec 128) : (d.wrPair r x).core.kscr = d.core.kscr := (Core.writeS_kscr ..).trans (Core.writeS_kscr ..)
@[simp] theorem Dev.wrPair_core_savearea (d : Dev) (r : SReg) (x : BitVec 128) : (d.wrPair r x).core.savearea = d.core.savearea := (Core.writeS_savearea ..).trans (Core.writeS_savearea ..)
@[simp] theorem Dev.wrPair_core_ctxbuf (d : Dev) (r : SReg) (x : BitVec 128) : (d.wrPair r x).core.ctxbuf = d.core.ctxbuf := (Core.writeS_ctxbuf ..).trans (Core.writeS_ctxbuf ..)
@[simp] theorem Dev.wrPair_core_ipend (d : Dev) (r : SReg) (x : BitVec 128) : (d.wrPair r x).core.ipend = d.core.ipend := (Core.writeS_ipend ..).trans (Core.writeS_ipend ..)
@[simp] theorem Dev.wrPair_core_frst (d : Dev) (r : SReg) (x : BitVec 128) : (d.wrPair r x).core.frst = d.core.frst := (Core.writeS_frst ..).trans (Core.writeS_frst ..)
@[simp] theorem Dev.wrPair_core_fflags (d : Dev) (r : SReg) (x : BitVec 128) : (d.wrPair r x).core.fflags = d.core.fflags := (Core.writeS_fflags ..).trans (Core.writeS_fflags ..)
@[simp] theorem Dev.wrPair_core_preemptSource (d : Dev) (r : SReg) (x : BitVec 128) : (d.wrPair r x).core.preemptSource = d.core.preemptSource := (Core.writeS_preemptSource ..).trans (Core.writeS_preemptSource ..)
@[simp] theorem Dev.wrPair_core_stopTick (d : Dev) (r : SReg) (x : BitVec 128) : (d.wrPair r x).core.stopTick = d.core.stopTick := (Core.writeS_stopTick ..).trans (Core.writeS_stopTick ..)
@[simp] theorem Dev.wrPair_core_minimaMask (d : Dev) (r : SReg) (x : BitVec 128) : (d.wrPair r x).core.minimaMask = d.core.minimaMask := (Core.writeS_minimaMask ..).trans (Core.writeS_minimaMask ..)
@[simp] theorem Dev.wrPair_core_uncorr (d : Dev) (r : SReg) (x : BitVec 128) : (d.wrPair r x).core.uncorr = d.core.uncorr := (Core.writeS_uncorr ..).trans (Core.writeS_uncorr ..)
@[simp] theorem Dev.wrPair_core_inbox (d : Dev) (r : SReg) (x : BitVec 128) : (d.wrPair r x).core.inbox = d.core.inbox := (Core.writeS_inbox ..).trans (Core.writeS_inbox ..)
@[simp] theorem Dev.wrPair_core_delivered (d : Dev) (r : SReg) (x : BitVec 128) : (d.wrPair r x).core.delivered = d.core.delivered := (Core.writeS_delivered ..).trans (Core.writeS_delivered ..)
@[simp] theorem Dev.wrPair_core_stall (d : Dev) (r : SReg) (x : BitVec 128) : (d.wrPair r x).core.stall = d.core.stall := (Core.writeS_stall ..).trans (Core.writeS_stall ..)
@[simp] theorem Dev.wrPair_core_frame (d : Dev) (r : SReg) (x : BitVec 128) : (d.wrPair r x).core.frame = d.core.frame := (Core.writeS_frame ..).trans (Core.writeS_frame ..)
@[simp] theorem Dev.wrPair_core_matrix (d : Dev) (r : SReg) (x : BitVec 128) : (d.wrPair r x).core.matrix = d.core.matrix := (Core.writeS_matrix ..).trans (Core.writeS_matrix ..)
@[simp] theorem Dev.wrPair_core_pad (d : Dev) (r : SReg) (x : BitVec 128) : (d.wrPair r x).core.pad = d.core.pad := (Core.writeS_pad ..).trans (Core.writeS_pad ..)
@[simp] theorem Dev.wrPair_core_gang (d : Dev) (r : SReg) (x : BitVec 128) : (d.wrPair r x).core.gang = d.core.gang := (Core.writeS_gang ..).trans (Core.writeS_gang ..)
@[simp] theorem Dev.wrPair_core_leaving (d : Dev) (r : SReg) (x : BitVec 128) : (d.wrPair r x).core.leaving = d.core.leaving := (Core.writeS_leaving ..).trans (Core.writeS_leaving ..)
@[simp] theorem Dev.wrPair_core_parked (d : Dev) (r : SReg) (x : BitVec 128) : (d.wrPair r x).core.parked = d.core.parked := (Core.writeS_parked ..).trans (Core.writeS_parked ..)
@[simp] theorem Dev.wrPair_core_task (d : Dev) (r : SReg) (x : BitVec 128) : (d.wrPair r x).core.task = d.core.task := (Core.writeS_task ..).trans (Core.writeS_task ..)
@[simp] theorem Dev.wrPair_core_yielded (d : Dev) (r : SReg) (x : BitVec 128) : (d.wrPair r x).core.yielded = d.core.yielded := (Core.writeS_yielded ..).trans (Core.writeS_yielded ..)
@[simp] theorem Dev.wrPair_core_sequencer (d : Dev) (r : SReg) (x : BitVec 128) : (d.wrPair r x).core.sequencer = d.core.sequencer := (Core.writeS_sequencer ..).trans (Core.writeS_sequencer ..)
@[simp] theorem Dev.wrPair_core_spilled (d : Dev) (r : SReg) (x : BitVec 128) : (d.wrPair r x).core.spilled = d.core.spilled := (Core.writeS_spilled ..).trans (Core.writeS_spilled ..)
@[simp] theorem Dev.wrPair_core_halt (d : Dev) (r : SReg) (x : BitVec 128) : (d.wrPair r x).core.halt = d.core.halt := (Core.writeS_halt ..).trans (Core.writeS_halt ..)
@[simp] theorem Dev.wrPair_core_ends (d : Dev) (r : SReg) (x : BitVec 128) : (d.wrPair r x).core.ends = d.core.ends := (Core.writeS_ends ..).trans (Core.writeS_ends ..)
@[simp] theorem Dev.wrPair_core_traps (d : Dev) (r : SReg) (x : BitVec 128) : (d.wrPair r x).core.traps = d.core.traps := (Core.writeS_traps ..).trans (Core.writeS_traps ..)

-- Dev.wrV
@[simp] theorem Dev.wrV_others (d : Dev) (r : VReg) (x : VWord) : (d.wrV r x).others = d.others := rfl
@[simp] theorem Dev.wrV_clusters (d : Dev) (r : VReg) (x : VWord) : (d.wrV r x).clusters = d.clusters := rfl
@[simp] theorem Dev.wrV_owners (d : Dev) (r : VReg) (x : VWord) : (d.wrV r x).owners = d.owners := rfl
@[simp] theorem Dev.wrV_mem (d : Dev) (r : VReg) (x : VWord) : (d.wrV r x).mem = d.mem := rfl
@[simp] theorem Dev.wrV_messages (d : Dev) (r : VReg) (x : VWord) : (d.wrV r x).messages = d.messages := rfl
@[simp] theorem Dev.wrV_queues (d : Dev) (r : VReg) (x : VWord) : (d.wrV r x).queues = d.queues := rfl
@[simp] theorem Dev.wrV_pieces (d : Dev) (r : VReg) (x : VWord) : (d.wrV r x).pieces = d.pieces := rfl
@[simp] theorem Dev.wrV_nextPiece (d : Dev) (r : VReg) (x : VWord) : (d.wrV r x).nextPiece = d.nextPiece := rfl
@[simp] theorem Dev.wrV_packets (d : Dev) (r : VReg) (x : VWord) : (d.wrV r x).packets = d.packets := rfl
@[simp] theorem Dev.wrV_nextPacket (d : Dev) (r : VReg) (x : VWord) : (d.wrV r x).nextPacket = d.nextPacket := rfl
@[simp] theorem Dev.wrV_arbiters (d : Dev) (r : VReg) (x : VWord) : (d.wrV r x).arbiters = d.arbiters := rfl
@[simp] theorem Dev.wrV_stops (d : Dev) (r : VReg) (x : VWord) : (d.wrV r x).stops = d.stops := rfl
@[simp] theorem Dev.wrV_contexts (d : Dev) (r : VReg) (x : VWord) : (d.wrV r x).contexts = d.contexts := rfl
@[simp] theorem Dev.wrV_trigger (d : Dev) (r : VReg) (x : VWord) : (d.wrV r x).trigger = d.trigger := rfl
@[simp] theorem Dev.wrV_toff (d : Dev) (r : VReg) (x : VWord) : (d.wrV r x).toff = d.toff := rfl
@[simp] theorem Dev.wrV_servo (d : Dev) (r : VReg) (x : VWord) : (d.wrV r x).servo = d.servo := rfl
@[simp] theorem Dev.wrV_host (d : Dev) (r : VReg) (x : VWord) : (d.wrV r x).host = d.host := rfl
@[simp] theorem Dev.wrV_deviceId (d : Dev) (r : VReg) (x : VWord) : (d.wrV r x).deviceId = d.deviceId := rfl
@[simp] theorem Dev.wrV_draws (d : Dev) (r : VReg) (x : VWord) : (d.wrV r x).draws = d.draws := rfl
@[simp] theorem Dev.wrV_core_id (d : Dev) (r : VReg) (x : VWord) : (d.wrV r x).core.id = d.core.id := rfl
@[simp] theorem Dev.wrV_core_pc (d : Dev) (r : VReg) (x : VWord) : (d.wrV r x).core.pc = d.core.pc := rfl
@[simp] theorem Dev.wrV_core_run (d : Dev) (r : VReg) (x : VWord) : (d.wrV r x).core.run = d.core.run := rfl
@[simp] theorem Dev.wrV_core_s (d : Dev) (r : VReg) (x : VWord) : (d.wrV r x).core.s = d.core.s := rfl
@[simp] theorem Dev.wrV_core_p (d : Dev) (r : VReg) (x : VWord) : (d.wrV r x).core.p = d.core.p := rfl
@[simp] theorem Dev.wrV_core_acc (d : Dev) (r : VReg) (x : VWord) : (d.wrV r x).core.acc = d.core.acc := rfl
@[simp] theorem Dev.wrV_core_desc (d : Dev) (r : VReg) (x : VWord) : (d.wrV r x).core.desc = d.core.desc := rfl
@[simp] theorem Dev.wrV_core_stream (d : Dev) (r : VReg) (x : VWord) : (d.wrV r x).core.stream = d.core.stream := rfl
@[simp] theorem Dev.wrV_core_port (d : Dev) (r : VReg) (x : VWord) : (d.wrV r x).core.port = d.core.port := rfl
@[simp] theorem Dev.wrV_core_status (d : Dev) (r : VReg) (x : VWord) : (d.wrV r x).core.status = d.core.status := rfl
@[simp] theorem Dev.wrV_core_cause (d : Dev) (r : VReg) (x : VWord) : (d.wrV r x).core.cause = d.core.cause := rfl
@[simp] theorem Dev.wrV_core_epc (d : Dev) (r : VReg) (x : VWord) : (d.wrV r x).core.epc = d.core.epc := rfl
@[simp] theorem Dev.wrV_core_faddr (d : Dev) (r : VReg) (x : VWord) : (d.wrV r x).core.faddr = d.core.faddr := rfl
@[simp] theorem Dev.wrV_core_finfo (d : Dev) (r : VReg) (x : VWord) : (d.wrV r x).core.finfo = d.core.finfo := rfl
@[simp] theorem Dev.wrV_core_tvec (d : Dev) (r : VReg) (x : VWord) : (d.wrV r x).core.tvec = d.core.tvec := rfl
@[simp] theorem Dev.wrV_core_tstack (d : Dev) (r : VReg) (x : VWord) : (d.wrV r x).core.tstack = d.core.tstack := rfl
@[simp] theorem Dev.wrV_core_kscr (d : Dev) (r : VReg) (x : VWord) : (d.wrV r x).core.kscr = d.core.kscr := rfl
@[simp] theorem Dev.wrV_core_savearea (d : Dev) (r : VReg) (x : VWord) : (d.wrV r x).core.savearea = d.core.savearea := rfl
@[simp] theorem Dev.wrV_core_ctxbuf (d : Dev) (r : VReg) (x : VWord) : (d.wrV r x).core.ctxbuf = d.core.ctxbuf := rfl
@[simp] theorem Dev.wrV_core_ipend (d : Dev) (r : VReg) (x : VWord) : (d.wrV r x).core.ipend = d.core.ipend := rfl
@[simp] theorem Dev.wrV_core_frst (d : Dev) (r : VReg) (x : VWord) : (d.wrV r x).core.frst = d.core.frst := rfl
@[simp] theorem Dev.wrV_core_fflags (d : Dev) (r : VReg) (x : VWord) : (d.wrV r x).core.fflags = d.core.fflags := rfl
@[simp] theorem Dev.wrV_core_preemptSource (d : Dev) (r : VReg) (x : VWord) : (d.wrV r x).core.preemptSource = d.core.preemptSource := rfl
@[simp] theorem Dev.wrV_core_stopTick (d : Dev) (r : VReg) (x : VWord) : (d.wrV r x).core.stopTick = d.core.stopTick := rfl
@[simp] theorem Dev.wrV_core_minimaMask (d : Dev) (r : VReg) (x : VWord) : (d.wrV r x).core.minimaMask = d.core.minimaMask := rfl
@[simp] theorem Dev.wrV_core_uncorr (d : Dev) (r : VReg) (x : VWord) : (d.wrV r x).core.uncorr = d.core.uncorr := rfl
@[simp] theorem Dev.wrV_core_inbox (d : Dev) (r : VReg) (x : VWord) : (d.wrV r x).core.inbox = d.core.inbox := rfl
@[simp] theorem Dev.wrV_core_delivered (d : Dev) (r : VReg) (x : VWord) : (d.wrV r x).core.delivered = d.core.delivered := rfl
@[simp] theorem Dev.wrV_core_stall (d : Dev) (r : VReg) (x : VWord) : (d.wrV r x).core.stall = d.core.stall := rfl
@[simp] theorem Dev.wrV_core_frame (d : Dev) (r : VReg) (x : VWord) : (d.wrV r x).core.frame = d.core.frame := rfl
@[simp] theorem Dev.wrV_core_matrix (d : Dev) (r : VReg) (x : VWord) : (d.wrV r x).core.matrix = d.core.matrix := rfl
@[simp] theorem Dev.wrV_core_pad (d : Dev) (r : VReg) (x : VWord) : (d.wrV r x).core.pad = d.core.pad := rfl
@[simp] theorem Dev.wrV_core_gang (d : Dev) (r : VReg) (x : VWord) : (d.wrV r x).core.gang = d.core.gang := rfl
@[simp] theorem Dev.wrV_core_leaving (d : Dev) (r : VReg) (x : VWord) : (d.wrV r x).core.leaving = d.core.leaving := rfl
@[simp] theorem Dev.wrV_core_parked (d : Dev) (r : VReg) (x : VWord) : (d.wrV r x).core.parked = d.core.parked := rfl
@[simp] theorem Dev.wrV_core_task (d : Dev) (r : VReg) (x : VWord) : (d.wrV r x).core.task = d.core.task := rfl
@[simp] theorem Dev.wrV_core_yielded (d : Dev) (r : VReg) (x : VWord) : (d.wrV r x).core.yielded = d.core.yielded := rfl
@[simp] theorem Dev.wrV_core_sequencer (d : Dev) (r : VReg) (x : VWord) : (d.wrV r x).core.sequencer = d.core.sequencer := rfl
@[simp] theorem Dev.wrV_core_spilled (d : Dev) (r : VReg) (x : VWord) : (d.wrV r x).core.spilled = d.core.spilled := rfl
@[simp] theorem Dev.wrV_core_halt (d : Dev) (r : VReg) (x : VWord) : (d.wrV r x).core.halt = d.core.halt := rfl
@[simp] theorem Dev.wrV_core_ends (d : Dev) (r : VReg) (x : VWord) : (d.wrV r x).core.ends = d.core.ends := rfl
@[simp] theorem Dev.wrV_core_traps (d : Dev) (r : VReg) (x : VWord) : (d.wrV r x).core.traps = d.core.traps := rfl

-- Dev.wrP
@[simp] theorem Dev.wrP_others (d : Dev) (q : PReg) (x : PWord) : (d.wrP q x).others = d.others := by unfold Dev.wrP; split <;> rfl
@[simp] theorem Dev.wrP_clusters (d : Dev) (q : PReg) (x : PWord) : (d.wrP q x).clusters = d.clusters := by unfold Dev.wrP; split <;> rfl
@[simp] theorem Dev.wrP_owners (d : Dev) (q : PReg) (x : PWord) : (d.wrP q x).owners = d.owners := by unfold Dev.wrP; split <;> rfl
@[simp] theorem Dev.wrP_mem (d : Dev) (q : PReg) (x : PWord) : (d.wrP q x).mem = d.mem := by unfold Dev.wrP; split <;> rfl
@[simp] theorem Dev.wrP_messages (d : Dev) (q : PReg) (x : PWord) : (d.wrP q x).messages = d.messages := by unfold Dev.wrP; split <;> rfl
@[simp] theorem Dev.wrP_queues (d : Dev) (q : PReg) (x : PWord) : (d.wrP q x).queues = d.queues := by unfold Dev.wrP; split <;> rfl
@[simp] theorem Dev.wrP_pieces (d : Dev) (q : PReg) (x : PWord) : (d.wrP q x).pieces = d.pieces := by unfold Dev.wrP; split <;> rfl
@[simp] theorem Dev.wrP_nextPiece (d : Dev) (q : PReg) (x : PWord) : (d.wrP q x).nextPiece = d.nextPiece := by unfold Dev.wrP; split <;> rfl
@[simp] theorem Dev.wrP_packets (d : Dev) (q : PReg) (x : PWord) : (d.wrP q x).packets = d.packets := by unfold Dev.wrP; split <;> rfl
@[simp] theorem Dev.wrP_nextPacket (d : Dev) (q : PReg) (x : PWord) : (d.wrP q x).nextPacket = d.nextPacket := by unfold Dev.wrP; split <;> rfl
@[simp] theorem Dev.wrP_arbiters (d : Dev) (q : PReg) (x : PWord) : (d.wrP q x).arbiters = d.arbiters := by unfold Dev.wrP; split <;> rfl
@[simp] theorem Dev.wrP_stops (d : Dev) (q : PReg) (x : PWord) : (d.wrP q x).stops = d.stops := by unfold Dev.wrP; split <;> rfl
@[simp] theorem Dev.wrP_contexts (d : Dev) (q : PReg) (x : PWord) : (d.wrP q x).contexts = d.contexts := by unfold Dev.wrP; split <;> rfl
@[simp] theorem Dev.wrP_trigger (d : Dev) (q : PReg) (x : PWord) : (d.wrP q x).trigger = d.trigger := by unfold Dev.wrP; split <;> rfl
@[simp] theorem Dev.wrP_toff (d : Dev) (q : PReg) (x : PWord) : (d.wrP q x).toff = d.toff := by unfold Dev.wrP; split <;> rfl
@[simp] theorem Dev.wrP_servo (d : Dev) (q : PReg) (x : PWord) : (d.wrP q x).servo = d.servo := by unfold Dev.wrP; split <;> rfl
@[simp] theorem Dev.wrP_host (d : Dev) (q : PReg) (x : PWord) : (d.wrP q x).host = d.host := by unfold Dev.wrP; split <;> rfl
@[simp] theorem Dev.wrP_deviceId (d : Dev) (q : PReg) (x : PWord) : (d.wrP q x).deviceId = d.deviceId := by unfold Dev.wrP; split <;> rfl
@[simp] theorem Dev.wrP_draws (d : Dev) (q : PReg) (x : PWord) : (d.wrP q x).draws = d.draws := by unfold Dev.wrP; split <;> rfl
@[simp] theorem Dev.wrP_core_id (d : Dev) (q : PReg) (x : PWord) : (d.wrP q x).core.id = d.core.id := by unfold Dev.wrP; split <;> rfl
@[simp] theorem Dev.wrP_core_pc (d : Dev) (q : PReg) (x : PWord) : (d.wrP q x).core.pc = d.core.pc := by unfold Dev.wrP; split <;> rfl
@[simp] theorem Dev.wrP_core_run (d : Dev) (q : PReg) (x : PWord) : (d.wrP q x).core.run = d.core.run := by unfold Dev.wrP; split <;> rfl
@[simp] theorem Dev.wrP_core_s (d : Dev) (q : PReg) (x : PWord) : (d.wrP q x).core.s = d.core.s := by unfold Dev.wrP; split <;> rfl
@[simp] theorem Dev.wrP_core_v (d : Dev) (q : PReg) (x : PWord) : (d.wrP q x).core.v = d.core.v := by unfold Dev.wrP; split <;> rfl
@[simp] theorem Dev.wrP_core_acc (d : Dev) (q : PReg) (x : PWord) : (d.wrP q x).core.acc = d.core.acc := by unfold Dev.wrP; split <;> rfl
@[simp] theorem Dev.wrP_core_desc (d : Dev) (q : PReg) (x : PWord) : (d.wrP q x).core.desc = d.core.desc := by unfold Dev.wrP; split <;> rfl
@[simp] theorem Dev.wrP_core_stream (d : Dev) (q : PReg) (x : PWord) : (d.wrP q x).core.stream = d.core.stream := by unfold Dev.wrP; split <;> rfl
@[simp] theorem Dev.wrP_core_port (d : Dev) (q : PReg) (x : PWord) : (d.wrP q x).core.port = d.core.port := by unfold Dev.wrP; split <;> rfl
@[simp] theorem Dev.wrP_core_status (d : Dev) (q : PReg) (x : PWord) : (d.wrP q x).core.status = d.core.status := by unfold Dev.wrP; split <;> rfl
@[simp] theorem Dev.wrP_core_cause (d : Dev) (q : PReg) (x : PWord) : (d.wrP q x).core.cause = d.core.cause := by unfold Dev.wrP; split <;> rfl
@[simp] theorem Dev.wrP_core_epc (d : Dev) (q : PReg) (x : PWord) : (d.wrP q x).core.epc = d.core.epc := by unfold Dev.wrP; split <;> rfl
@[simp] theorem Dev.wrP_core_faddr (d : Dev) (q : PReg) (x : PWord) : (d.wrP q x).core.faddr = d.core.faddr := by unfold Dev.wrP; split <;> rfl
@[simp] theorem Dev.wrP_core_finfo (d : Dev) (q : PReg) (x : PWord) : (d.wrP q x).core.finfo = d.core.finfo := by unfold Dev.wrP; split <;> rfl
@[simp] theorem Dev.wrP_core_tvec (d : Dev) (q : PReg) (x : PWord) : (d.wrP q x).core.tvec = d.core.tvec := by unfold Dev.wrP; split <;> rfl
@[simp] theorem Dev.wrP_core_tstack (d : Dev) (q : PReg) (x : PWord) : (d.wrP q x).core.tstack = d.core.tstack := by unfold Dev.wrP; split <;> rfl
@[simp] theorem Dev.wrP_core_kscr (d : Dev) (q : PReg) (x : PWord) : (d.wrP q x).core.kscr = d.core.kscr := by unfold Dev.wrP; split <;> rfl
@[simp] theorem Dev.wrP_core_savearea (d : Dev) (q : PReg) (x : PWord) : (d.wrP q x).core.savearea = d.core.savearea := by unfold Dev.wrP; split <;> rfl
@[simp] theorem Dev.wrP_core_ctxbuf (d : Dev) (q : PReg) (x : PWord) : (d.wrP q x).core.ctxbuf = d.core.ctxbuf := by unfold Dev.wrP; split <;> rfl
@[simp] theorem Dev.wrP_core_ipend (d : Dev) (q : PReg) (x : PWord) : (d.wrP q x).core.ipend = d.core.ipend := by unfold Dev.wrP; split <;> rfl
@[simp] theorem Dev.wrP_core_frst (d : Dev) (q : PReg) (x : PWord) : (d.wrP q x).core.frst = d.core.frst := by unfold Dev.wrP; split <;> rfl
@[simp] theorem Dev.wrP_core_fflags (d : Dev) (q : PReg) (x : PWord) : (d.wrP q x).core.fflags = d.core.fflags := by unfold Dev.wrP; split <;> rfl
@[simp] theorem Dev.wrP_core_preemptSource (d : Dev) (q : PReg) (x : PWord) : (d.wrP q x).core.preemptSource = d.core.preemptSource := by unfold Dev.wrP; split <;> rfl
@[simp] theorem Dev.wrP_core_stopTick (d : Dev) (q : PReg) (x : PWord) : (d.wrP q x).core.stopTick = d.core.stopTick := by unfold Dev.wrP; split <;> rfl
@[simp] theorem Dev.wrP_core_minimaMask (d : Dev) (q : PReg) (x : PWord) : (d.wrP q x).core.minimaMask = d.core.minimaMask := by unfold Dev.wrP; split <;> rfl
@[simp] theorem Dev.wrP_core_uncorr (d : Dev) (q : PReg) (x : PWord) : (d.wrP q x).core.uncorr = d.core.uncorr := by unfold Dev.wrP; split <;> rfl
@[simp] theorem Dev.wrP_core_inbox (d : Dev) (q : PReg) (x : PWord) : (d.wrP q x).core.inbox = d.core.inbox := by unfold Dev.wrP; split <;> rfl
@[simp] theorem Dev.wrP_core_delivered (d : Dev) (q : PReg) (x : PWord) : (d.wrP q x).core.delivered = d.core.delivered := by unfold Dev.wrP; split <;> rfl
@[simp] theorem Dev.wrP_core_stall (d : Dev) (q : PReg) (x : PWord) : (d.wrP q x).core.stall = d.core.stall := by unfold Dev.wrP; split <;> rfl
@[simp] theorem Dev.wrP_core_frame (d : Dev) (q : PReg) (x : PWord) : (d.wrP q x).core.frame = d.core.frame := by unfold Dev.wrP; split <;> rfl
@[simp] theorem Dev.wrP_core_matrix (d : Dev) (q : PReg) (x : PWord) : (d.wrP q x).core.matrix = d.core.matrix := by unfold Dev.wrP; split <;> rfl
@[simp] theorem Dev.wrP_core_pad (d : Dev) (q : PReg) (x : PWord) : (d.wrP q x).core.pad = d.core.pad := by unfold Dev.wrP; split <;> rfl
@[simp] theorem Dev.wrP_core_gang (d : Dev) (q : PReg) (x : PWord) : (d.wrP q x).core.gang = d.core.gang := by unfold Dev.wrP; split <;> rfl
@[simp] theorem Dev.wrP_core_leaving (d : Dev) (q : PReg) (x : PWord) : (d.wrP q x).core.leaving = d.core.leaving := by unfold Dev.wrP; split <;> rfl
@[simp] theorem Dev.wrP_core_parked (d : Dev) (q : PReg) (x : PWord) : (d.wrP q x).core.parked = d.core.parked := by unfold Dev.wrP; split <;> rfl
@[simp] theorem Dev.wrP_core_task (d : Dev) (q : PReg) (x : PWord) : (d.wrP q x).core.task = d.core.task := by unfold Dev.wrP; split <;> rfl
@[simp] theorem Dev.wrP_core_yielded (d : Dev) (q : PReg) (x : PWord) : (d.wrP q x).core.yielded = d.core.yielded := by unfold Dev.wrP; split <;> rfl
@[simp] theorem Dev.wrP_core_sequencer (d : Dev) (q : PReg) (x : PWord) : (d.wrP q x).core.sequencer = d.core.sequencer := by unfold Dev.wrP; split <;> rfl
@[simp] theorem Dev.wrP_core_spilled (d : Dev) (q : PReg) (x : PWord) : (d.wrP q x).core.spilled = d.core.spilled := by unfold Dev.wrP; split <;> rfl
@[simp] theorem Dev.wrP_core_halt (d : Dev) (q : PReg) (x : PWord) : (d.wrP q x).core.halt = d.core.halt := by unfold Dev.wrP; split <;> rfl
@[simp] theorem Dev.wrP_core_ends (d : Dev) (q : PReg) (x : PWord) : (d.wrP q x).core.ends = d.core.ends := by unfold Dev.wrP; split <;> rfl
@[simp] theorem Dev.wrP_core_traps (d : Dev) (q : PReg) (x : PWord) : (d.wrP q x).core.traps = d.core.traps := by unfold Dev.wrP; split <;> rfl

-- Dev.wrD
@[simp] theorem Dev.wrD_others (d : Dev) (n : BitVec 4) (x : Word) : (d.wrD n x).others = d.others := rfl
@[simp] theorem Dev.wrD_clusters (d : Dev) (n : BitVec 4) (x : Word) : (d.wrD n x).clusters = d.clusters := rfl
@[simp] theorem Dev.wrD_owners (d : Dev) (n : BitVec 4) (x : Word) : (d.wrD n x).owners = d.owners := rfl
@[simp] theorem Dev.wrD_mem (d : Dev) (n : BitVec 4) (x : Word) : (d.wrD n x).mem = d.mem := rfl
@[simp] theorem Dev.wrD_messages (d : Dev) (n : BitVec 4) (x : Word) : (d.wrD n x).messages = d.messages := rfl
@[simp] theorem Dev.wrD_queues (d : Dev) (n : BitVec 4) (x : Word) : (d.wrD n x).queues = d.queues := rfl
@[simp] theorem Dev.wrD_pieces (d : Dev) (n : BitVec 4) (x : Word) : (d.wrD n x).pieces = d.pieces := rfl
@[simp] theorem Dev.wrD_nextPiece (d : Dev) (n : BitVec 4) (x : Word) : (d.wrD n x).nextPiece = d.nextPiece := rfl
@[simp] theorem Dev.wrD_packets (d : Dev) (n : BitVec 4) (x : Word) : (d.wrD n x).packets = d.packets := rfl
@[simp] theorem Dev.wrD_nextPacket (d : Dev) (n : BitVec 4) (x : Word) : (d.wrD n x).nextPacket = d.nextPacket := rfl
@[simp] theorem Dev.wrD_arbiters (d : Dev) (n : BitVec 4) (x : Word) : (d.wrD n x).arbiters = d.arbiters := rfl
@[simp] theorem Dev.wrD_stops (d : Dev) (n : BitVec 4) (x : Word) : (d.wrD n x).stops = d.stops := rfl
@[simp] theorem Dev.wrD_contexts (d : Dev) (n : BitVec 4) (x : Word) : (d.wrD n x).contexts = d.contexts := rfl
@[simp] theorem Dev.wrD_trigger (d : Dev) (n : BitVec 4) (x : Word) : (d.wrD n x).trigger = d.trigger := rfl
@[simp] theorem Dev.wrD_toff (d : Dev) (n : BitVec 4) (x : Word) : (d.wrD n x).toff = d.toff := rfl
@[simp] theorem Dev.wrD_servo (d : Dev) (n : BitVec 4) (x : Word) : (d.wrD n x).servo = d.servo := rfl
@[simp] theorem Dev.wrD_host (d : Dev) (n : BitVec 4) (x : Word) : (d.wrD n x).host = d.host := rfl
@[simp] theorem Dev.wrD_deviceId (d : Dev) (n : BitVec 4) (x : Word) : (d.wrD n x).deviceId = d.deviceId := rfl
@[simp] theorem Dev.wrD_draws (d : Dev) (n : BitVec 4) (x : Word) : (d.wrD n x).draws = d.draws := rfl
@[simp] theorem Dev.wrD_core_id (d : Dev) (n : BitVec 4) (x : Word) : (d.wrD n x).core.id = d.core.id := rfl
@[simp] theorem Dev.wrD_core_pc (d : Dev) (n : BitVec 4) (x : Word) : (d.wrD n x).core.pc = d.core.pc := rfl
@[simp] theorem Dev.wrD_core_run (d : Dev) (n : BitVec 4) (x : Word) : (d.wrD n x).core.run = d.core.run := rfl
@[simp] theorem Dev.wrD_core_s (d : Dev) (n : BitVec 4) (x : Word) : (d.wrD n x).core.s = d.core.s := rfl
@[simp] theorem Dev.wrD_core_v (d : Dev) (n : BitVec 4) (x : Word) : (d.wrD n x).core.v = d.core.v := rfl
@[simp] theorem Dev.wrD_core_p (d : Dev) (n : BitVec 4) (x : Word) : (d.wrD n x).core.p = d.core.p := rfl
@[simp] theorem Dev.wrD_core_acc (d : Dev) (n : BitVec 4) (x : Word) : (d.wrD n x).core.acc = d.core.acc := rfl
@[simp] theorem Dev.wrD_core_stream (d : Dev) (n : BitVec 4) (x : Word) : (d.wrD n x).core.stream = d.core.stream := rfl
@[simp] theorem Dev.wrD_core_port (d : Dev) (n : BitVec 4) (x : Word) : (d.wrD n x).core.port = d.core.port := rfl
@[simp] theorem Dev.wrD_core_status (d : Dev) (n : BitVec 4) (x : Word) : (d.wrD n x).core.status = d.core.status := rfl
@[simp] theorem Dev.wrD_core_cause (d : Dev) (n : BitVec 4) (x : Word) : (d.wrD n x).core.cause = d.core.cause := rfl
@[simp] theorem Dev.wrD_core_epc (d : Dev) (n : BitVec 4) (x : Word) : (d.wrD n x).core.epc = d.core.epc := rfl
@[simp] theorem Dev.wrD_core_faddr (d : Dev) (n : BitVec 4) (x : Word) : (d.wrD n x).core.faddr = d.core.faddr := rfl
@[simp] theorem Dev.wrD_core_finfo (d : Dev) (n : BitVec 4) (x : Word) : (d.wrD n x).core.finfo = d.core.finfo := rfl
@[simp] theorem Dev.wrD_core_tvec (d : Dev) (n : BitVec 4) (x : Word) : (d.wrD n x).core.tvec = d.core.tvec := rfl
@[simp] theorem Dev.wrD_core_tstack (d : Dev) (n : BitVec 4) (x : Word) : (d.wrD n x).core.tstack = d.core.tstack := rfl
@[simp] theorem Dev.wrD_core_kscr (d : Dev) (n : BitVec 4) (x : Word) : (d.wrD n x).core.kscr = d.core.kscr := rfl
@[simp] theorem Dev.wrD_core_savearea (d : Dev) (n : BitVec 4) (x : Word) : (d.wrD n x).core.savearea = d.core.savearea := rfl
@[simp] theorem Dev.wrD_core_ctxbuf (d : Dev) (n : BitVec 4) (x : Word) : (d.wrD n x).core.ctxbuf = d.core.ctxbuf := rfl
@[simp] theorem Dev.wrD_core_ipend (d : Dev) (n : BitVec 4) (x : Word) : (d.wrD n x).core.ipend = d.core.ipend := rfl
@[simp] theorem Dev.wrD_core_frst (d : Dev) (n : BitVec 4) (x : Word) : (d.wrD n x).core.frst = d.core.frst := rfl
@[simp] theorem Dev.wrD_core_fflags (d : Dev) (n : BitVec 4) (x : Word) : (d.wrD n x).core.fflags = d.core.fflags := rfl
@[simp] theorem Dev.wrD_core_preemptSource (d : Dev) (n : BitVec 4) (x : Word) : (d.wrD n x).core.preemptSource = d.core.preemptSource := rfl
@[simp] theorem Dev.wrD_core_stopTick (d : Dev) (n : BitVec 4) (x : Word) : (d.wrD n x).core.stopTick = d.core.stopTick := rfl
@[simp] theorem Dev.wrD_core_minimaMask (d : Dev) (n : BitVec 4) (x : Word) : (d.wrD n x).core.minimaMask = d.core.minimaMask := rfl
@[simp] theorem Dev.wrD_core_uncorr (d : Dev) (n : BitVec 4) (x : Word) : (d.wrD n x).core.uncorr = d.core.uncorr := rfl
@[simp] theorem Dev.wrD_core_inbox (d : Dev) (n : BitVec 4) (x : Word) : (d.wrD n x).core.inbox = d.core.inbox := rfl
@[simp] theorem Dev.wrD_core_delivered (d : Dev) (n : BitVec 4) (x : Word) : (d.wrD n x).core.delivered = d.core.delivered := rfl
@[simp] theorem Dev.wrD_core_stall (d : Dev) (n : BitVec 4) (x : Word) : (d.wrD n x).core.stall = d.core.stall := rfl
@[simp] theorem Dev.wrD_core_frame (d : Dev) (n : BitVec 4) (x : Word) : (d.wrD n x).core.frame = d.core.frame := rfl
@[simp] theorem Dev.wrD_core_matrix (d : Dev) (n : BitVec 4) (x : Word) : (d.wrD n x).core.matrix = d.core.matrix := rfl
@[simp] theorem Dev.wrD_core_pad (d : Dev) (n : BitVec 4) (x : Word) : (d.wrD n x).core.pad = d.core.pad := rfl
@[simp] theorem Dev.wrD_core_gang (d : Dev) (n : BitVec 4) (x : Word) : (d.wrD n x).core.gang = d.core.gang := rfl
@[simp] theorem Dev.wrD_core_leaving (d : Dev) (n : BitVec 4) (x : Word) : (d.wrD n x).core.leaving = d.core.leaving := rfl
@[simp] theorem Dev.wrD_core_parked (d : Dev) (n : BitVec 4) (x : Word) : (d.wrD n x).core.parked = d.core.parked := rfl
@[simp] theorem Dev.wrD_core_task (d : Dev) (n : BitVec 4) (x : Word) : (d.wrD n x).core.task = d.core.task := rfl
@[simp] theorem Dev.wrD_core_yielded (d : Dev) (n : BitVec 4) (x : Word) : (d.wrD n x).core.yielded = d.core.yielded := rfl
@[simp] theorem Dev.wrD_core_sequencer (d : Dev) (n : BitVec 4) (x : Word) : (d.wrD n x).core.sequencer = d.core.sequencer := rfl
@[simp] theorem Dev.wrD_core_spilled (d : Dev) (n : BitVec 4) (x : Word) : (d.wrD n x).core.spilled = d.core.spilled := rfl
@[simp] theorem Dev.wrD_core_halt (d : Dev) (n : BitVec 4) (x : Word) : (d.wrD n x).core.halt = d.core.halt := rfl
@[simp] theorem Dev.wrD_core_ends (d : Dev) (n : BitVec 4) (x : Word) : (d.wrD n x).core.ends = d.core.ends := rfl
@[simp] theorem Dev.wrD_core_traps (d : Dev) (n : BitVec 4) (x : Word) : (d.wrD n x).core.traps = d.core.traps := rfl

-- Dev.wrDs
@[simp] theorem Dev.wrDs_others (d : Dev) (n : BitVec 4) (x : Word) : (d.wrDs n x).others = d.others := rfl
@[simp] theorem Dev.wrDs_clusters (d : Dev) (n : BitVec 4) (x : Word) : (d.wrDs n x).clusters = d.clusters := rfl
@[simp] theorem Dev.wrDs_owners (d : Dev) (n : BitVec 4) (x : Word) : (d.wrDs n x).owners = d.owners := rfl
@[simp] theorem Dev.wrDs_mem (d : Dev) (n : BitVec 4) (x : Word) : (d.wrDs n x).mem = d.mem := rfl
@[simp] theorem Dev.wrDs_messages (d : Dev) (n : BitVec 4) (x : Word) : (d.wrDs n x).messages = d.messages := rfl
@[simp] theorem Dev.wrDs_queues (d : Dev) (n : BitVec 4) (x : Word) : (d.wrDs n x).queues = d.queues := rfl
@[simp] theorem Dev.wrDs_pieces (d : Dev) (n : BitVec 4) (x : Word) : (d.wrDs n x).pieces = d.pieces := rfl
@[simp] theorem Dev.wrDs_nextPiece (d : Dev) (n : BitVec 4) (x : Word) : (d.wrDs n x).nextPiece = d.nextPiece := rfl
@[simp] theorem Dev.wrDs_packets (d : Dev) (n : BitVec 4) (x : Word) : (d.wrDs n x).packets = d.packets := rfl
@[simp] theorem Dev.wrDs_nextPacket (d : Dev) (n : BitVec 4) (x : Word) : (d.wrDs n x).nextPacket = d.nextPacket := rfl
@[simp] theorem Dev.wrDs_arbiters (d : Dev) (n : BitVec 4) (x : Word) : (d.wrDs n x).arbiters = d.arbiters := rfl
@[simp] theorem Dev.wrDs_stops (d : Dev) (n : BitVec 4) (x : Word) : (d.wrDs n x).stops = d.stops := rfl
@[simp] theorem Dev.wrDs_contexts (d : Dev) (n : BitVec 4) (x : Word) : (d.wrDs n x).contexts = d.contexts := rfl
@[simp] theorem Dev.wrDs_trigger (d : Dev) (n : BitVec 4) (x : Word) : (d.wrDs n x).trigger = d.trigger := rfl
@[simp] theorem Dev.wrDs_toff (d : Dev) (n : BitVec 4) (x : Word) : (d.wrDs n x).toff = d.toff := rfl
@[simp] theorem Dev.wrDs_servo (d : Dev) (n : BitVec 4) (x : Word) : (d.wrDs n x).servo = d.servo := rfl
@[simp] theorem Dev.wrDs_host (d : Dev) (n : BitVec 4) (x : Word) : (d.wrDs n x).host = d.host := rfl
@[simp] theorem Dev.wrDs_deviceId (d : Dev) (n : BitVec 4) (x : Word) : (d.wrDs n x).deviceId = d.deviceId := rfl
@[simp] theorem Dev.wrDs_draws (d : Dev) (n : BitVec 4) (x : Word) : (d.wrDs n x).draws = d.draws := rfl
@[simp] theorem Dev.wrDs_core_id (d : Dev) (n : BitVec 4) (x : Word) : (d.wrDs n x).core.id = d.core.id := rfl
@[simp] theorem Dev.wrDs_core_pc (d : Dev) (n : BitVec 4) (x : Word) : (d.wrDs n x).core.pc = d.core.pc := rfl
@[simp] theorem Dev.wrDs_core_run (d : Dev) (n : BitVec 4) (x : Word) : (d.wrDs n x).core.run = d.core.run := rfl
@[simp] theorem Dev.wrDs_core_s (d : Dev) (n : BitVec 4) (x : Word) : (d.wrDs n x).core.s = d.core.s := rfl
@[simp] theorem Dev.wrDs_core_v (d : Dev) (n : BitVec 4) (x : Word) : (d.wrDs n x).core.v = d.core.v := rfl
@[simp] theorem Dev.wrDs_core_p (d : Dev) (n : BitVec 4) (x : Word) : (d.wrDs n x).core.p = d.core.p := rfl
@[simp] theorem Dev.wrDs_core_acc (d : Dev) (n : BitVec 4) (x : Word) : (d.wrDs n x).core.acc = d.core.acc := rfl
@[simp] theorem Dev.wrDs_core_desc (d : Dev) (n : BitVec 4) (x : Word) : (d.wrDs n x).core.desc = d.core.desc := rfl
@[simp] theorem Dev.wrDs_core_port (d : Dev) (n : BitVec 4) (x : Word) : (d.wrDs n x).core.port = d.core.port := rfl
@[simp] theorem Dev.wrDs_core_status (d : Dev) (n : BitVec 4) (x : Word) : (d.wrDs n x).core.status = d.core.status := rfl
@[simp] theorem Dev.wrDs_core_cause (d : Dev) (n : BitVec 4) (x : Word) : (d.wrDs n x).core.cause = d.core.cause := rfl
@[simp] theorem Dev.wrDs_core_epc (d : Dev) (n : BitVec 4) (x : Word) : (d.wrDs n x).core.epc = d.core.epc := rfl
@[simp] theorem Dev.wrDs_core_faddr (d : Dev) (n : BitVec 4) (x : Word) : (d.wrDs n x).core.faddr = d.core.faddr := rfl
@[simp] theorem Dev.wrDs_core_finfo (d : Dev) (n : BitVec 4) (x : Word) : (d.wrDs n x).core.finfo = d.core.finfo := rfl
@[simp] theorem Dev.wrDs_core_tvec (d : Dev) (n : BitVec 4) (x : Word) : (d.wrDs n x).core.tvec = d.core.tvec := rfl
@[simp] theorem Dev.wrDs_core_tstack (d : Dev) (n : BitVec 4) (x : Word) : (d.wrDs n x).core.tstack = d.core.tstack := rfl
@[simp] theorem Dev.wrDs_core_kscr (d : Dev) (n : BitVec 4) (x : Word) : (d.wrDs n x).core.kscr = d.core.kscr := rfl
@[simp] theorem Dev.wrDs_core_savearea (d : Dev) (n : BitVec 4) (x : Word) : (d.wrDs n x).core.savearea = d.core.savearea := rfl
@[simp] theorem Dev.wrDs_core_ctxbuf (d : Dev) (n : BitVec 4) (x : Word) : (d.wrDs n x).core.ctxbuf = d.core.ctxbuf := rfl
@[simp] theorem Dev.wrDs_core_ipend (d : Dev) (n : BitVec 4) (x : Word) : (d.wrDs n x).core.ipend = d.core.ipend := rfl
@[simp] theorem Dev.wrDs_core_frst (d : Dev) (n : BitVec 4) (x : Word) : (d.wrDs n x).core.frst = d.core.frst := rfl
@[simp] theorem Dev.wrDs_core_fflags (d : Dev) (n : BitVec 4) (x : Word) : (d.wrDs n x).core.fflags = d.core.fflags := rfl
@[simp] theorem Dev.wrDs_core_preemptSource (d : Dev) (n : BitVec 4) (x : Word) : (d.wrDs n x).core.preemptSource = d.core.preemptSource := rfl
@[simp] theorem Dev.wrDs_core_stopTick (d : Dev) (n : BitVec 4) (x : Word) : (d.wrDs n x).core.stopTick = d.core.stopTick := rfl
@[simp] theorem Dev.wrDs_core_minimaMask (d : Dev) (n : BitVec 4) (x : Word) : (d.wrDs n x).core.minimaMask = d.core.minimaMask := rfl
@[simp] theorem Dev.wrDs_core_uncorr (d : Dev) (n : BitVec 4) (x : Word) : (d.wrDs n x).core.uncorr = d.core.uncorr := rfl
@[simp] theorem Dev.wrDs_core_inbox (d : Dev) (n : BitVec 4) (x : Word) : (d.wrDs n x).core.inbox = d.core.inbox := rfl
@[simp] theorem Dev.wrDs_core_delivered (d : Dev) (n : BitVec 4) (x : Word) : (d.wrDs n x).core.delivered = d.core.delivered := rfl
@[simp] theorem Dev.wrDs_core_stall (d : Dev) (n : BitVec 4) (x : Word) : (d.wrDs n x).core.stall = d.core.stall := rfl
@[simp] theorem Dev.wrDs_core_frame (d : Dev) (n : BitVec 4) (x : Word) : (d.wrDs n x).core.frame = d.core.frame := rfl
@[simp] theorem Dev.wrDs_core_matrix (d : Dev) (n : BitVec 4) (x : Word) : (d.wrDs n x).core.matrix = d.core.matrix := rfl
@[simp] theorem Dev.wrDs_core_pad (d : Dev) (n : BitVec 4) (x : Word) : (d.wrDs n x).core.pad = d.core.pad := rfl
@[simp] theorem Dev.wrDs_core_gang (d : Dev) (n : BitVec 4) (x : Word) : (d.wrDs n x).core.gang = d.core.gang := rfl
@[simp] theorem Dev.wrDs_core_leaving (d : Dev) (n : BitVec 4) (x : Word) : (d.wrDs n x).core.leaving = d.core.leaving := rfl
@[simp] theorem Dev.wrDs_core_parked (d : Dev) (n : BitVec 4) (x : Word) : (d.wrDs n x).core.parked = d.core.parked := rfl
@[simp] theorem Dev.wrDs_core_task (d : Dev) (n : BitVec 4) (x : Word) : (d.wrDs n x).core.task = d.core.task := rfl
@[simp] theorem Dev.wrDs_core_yielded (d : Dev) (n : BitVec 4) (x : Word) : (d.wrDs n x).core.yielded = d.core.yielded := rfl
@[simp] theorem Dev.wrDs_core_sequencer (d : Dev) (n : BitVec 4) (x : Word) : (d.wrDs n x).core.sequencer = d.core.sequencer := rfl
@[simp] theorem Dev.wrDs_core_spilled (d : Dev) (n : BitVec 4) (x : Word) : (d.wrDs n x).core.spilled = d.core.spilled := rfl
@[simp] theorem Dev.wrDs_core_halt (d : Dev) (n : BitVec 4) (x : Word) : (d.wrDs n x).core.halt = d.core.halt := rfl
@[simp] theorem Dev.wrDs_core_ends (d : Dev) (n : BitVec 4) (x : Word) : (d.wrDs n x).core.ends = d.core.ends := rfl
@[simp] theorem Dev.wrDs_core_traps (d : Dev) (n : BitVec 4) (x : Word) : (d.wrDs n x).core.traps = d.core.traps := rfl

-- Dev.advance
@[simp] theorem Dev.advance_others (d : Dev) : (d.advance).others = d.others := rfl
@[simp] theorem Dev.advance_clusters (d : Dev) : (d.advance).clusters = d.clusters := rfl
@[simp] theorem Dev.advance_owners (d : Dev) : (d.advance).owners = d.owners := rfl
@[simp] theorem Dev.advance_mem (d : Dev) : (d.advance).mem = d.mem := rfl
@[simp] theorem Dev.advance_messages (d : Dev) : (d.advance).messages = d.messages := rfl
@[simp] theorem Dev.advance_queues (d : Dev) : (d.advance).queues = d.queues := rfl
@[simp] theorem Dev.advance_pieces (d : Dev) : (d.advance).pieces = d.pieces := rfl
@[simp] theorem Dev.advance_nextPiece (d : Dev) : (d.advance).nextPiece = d.nextPiece := rfl
@[simp] theorem Dev.advance_packets (d : Dev) : (d.advance).packets = d.packets := rfl
@[simp] theorem Dev.advance_nextPacket (d : Dev) : (d.advance).nextPacket = d.nextPacket := rfl
@[simp] theorem Dev.advance_arbiters (d : Dev) : (d.advance).arbiters = d.arbiters := rfl
@[simp] theorem Dev.advance_stops (d : Dev) : (d.advance).stops = d.stops := rfl
@[simp] theorem Dev.advance_contexts (d : Dev) : (d.advance).contexts = d.contexts := rfl
@[simp] theorem Dev.advance_trigger (d : Dev) : (d.advance).trigger = d.trigger := rfl
@[simp] theorem Dev.advance_toff (d : Dev) : (d.advance).toff = d.toff := rfl
@[simp] theorem Dev.advance_servo (d : Dev) : (d.advance).servo = d.servo := rfl
@[simp] theorem Dev.advance_host (d : Dev) : (d.advance).host = d.host := rfl
@[simp] theorem Dev.advance_deviceId (d : Dev) : (d.advance).deviceId = d.deviceId := rfl
@[simp] theorem Dev.advance_draws (d : Dev) : (d.advance).draws = d.draws := rfl
@[simp] theorem Dev.advance_core_id (d : Dev) : (d.advance).core.id = d.core.id := rfl
@[simp] theorem Dev.advance_core_run (d : Dev) : (d.advance).core.run = d.core.run := rfl
@[simp] theorem Dev.advance_core_s (d : Dev) : (d.advance).core.s = d.core.s := rfl
@[simp] theorem Dev.advance_core_v (d : Dev) : (d.advance).core.v = d.core.v := rfl
@[simp] theorem Dev.advance_core_p (d : Dev) : (d.advance).core.p = d.core.p := rfl
@[simp] theorem Dev.advance_core_acc (d : Dev) : (d.advance).core.acc = d.core.acc := rfl
@[simp] theorem Dev.advance_core_desc (d : Dev) : (d.advance).core.desc = d.core.desc := rfl
@[simp] theorem Dev.advance_core_stream (d : Dev) : (d.advance).core.stream = d.core.stream := rfl
@[simp] theorem Dev.advance_core_port (d : Dev) : (d.advance).core.port = d.core.port := rfl
@[simp] theorem Dev.advance_core_status (d : Dev) : (d.advance).core.status = d.core.status := rfl
@[simp] theorem Dev.advance_core_cause (d : Dev) : (d.advance).core.cause = d.core.cause := rfl
@[simp] theorem Dev.advance_core_epc (d : Dev) : (d.advance).core.epc = d.core.epc := rfl
@[simp] theorem Dev.advance_core_faddr (d : Dev) : (d.advance).core.faddr = d.core.faddr := rfl
@[simp] theorem Dev.advance_core_finfo (d : Dev) : (d.advance).core.finfo = d.core.finfo := rfl
@[simp] theorem Dev.advance_core_tvec (d : Dev) : (d.advance).core.tvec = d.core.tvec := rfl
@[simp] theorem Dev.advance_core_tstack (d : Dev) : (d.advance).core.tstack = d.core.tstack := rfl
@[simp] theorem Dev.advance_core_kscr (d : Dev) : (d.advance).core.kscr = d.core.kscr := rfl
@[simp] theorem Dev.advance_core_savearea (d : Dev) : (d.advance).core.savearea = d.core.savearea := rfl
@[simp] theorem Dev.advance_core_ctxbuf (d : Dev) : (d.advance).core.ctxbuf = d.core.ctxbuf := rfl
@[simp] theorem Dev.advance_core_ipend (d : Dev) : (d.advance).core.ipend = d.core.ipend := rfl
@[simp] theorem Dev.advance_core_frst (d : Dev) : (d.advance).core.frst = d.core.frst := rfl
@[simp] theorem Dev.advance_core_fflags (d : Dev) : (d.advance).core.fflags = d.core.fflags := rfl
@[simp] theorem Dev.advance_core_preemptSource (d : Dev) : (d.advance).core.preemptSource = d.core.preemptSource := rfl
@[simp] theorem Dev.advance_core_stopTick (d : Dev) : (d.advance).core.stopTick = d.core.stopTick := rfl
@[simp] theorem Dev.advance_core_minimaMask (d : Dev) : (d.advance).core.minimaMask = d.core.minimaMask := rfl
@[simp] theorem Dev.advance_core_uncorr (d : Dev) : (d.advance).core.uncorr = d.core.uncorr := rfl
@[simp] theorem Dev.advance_core_inbox (d : Dev) : (d.advance).core.inbox = d.core.inbox := rfl
@[simp] theorem Dev.advance_core_delivered (d : Dev) : (d.advance).core.delivered = d.core.delivered := rfl
@[simp] theorem Dev.advance_core_stall (d : Dev) : (d.advance).core.stall = d.core.stall := rfl
@[simp] theorem Dev.advance_core_frame (d : Dev) : (d.advance).core.frame = d.core.frame := rfl
@[simp] theorem Dev.advance_core_matrix (d : Dev) : (d.advance).core.matrix = d.core.matrix := rfl
@[simp] theorem Dev.advance_core_pad (d : Dev) : (d.advance).core.pad = d.core.pad := rfl
@[simp] theorem Dev.advance_core_gang (d : Dev) : (d.advance).core.gang = d.core.gang := rfl
@[simp] theorem Dev.advance_core_leaving (d : Dev) : (d.advance).core.leaving = d.core.leaving := rfl
@[simp] theorem Dev.advance_core_parked (d : Dev) : (d.advance).core.parked = d.core.parked := rfl
@[simp] theorem Dev.advance_core_task (d : Dev) : (d.advance).core.task = d.core.task := rfl
@[simp] theorem Dev.advance_core_yielded (d : Dev) : (d.advance).core.yielded = d.core.yielded := rfl
@[simp] theorem Dev.advance_core_sequencer (d : Dev) : (d.advance).core.sequencer = d.core.sequencer := rfl
@[simp] theorem Dev.advance_core_spilled (d : Dev) : (d.advance).core.spilled = d.core.spilled := rfl
@[simp] theorem Dev.advance_core_halt (d : Dev) : (d.advance).core.halt = d.core.halt := rfl
@[simp] theorem Dev.advance_core_ends (d : Dev) : (d.advance).core.ends = d.core.ends := rfl
@[simp] theorem Dev.advance_core_traps (d : Dev) : (d.advance).core.traps = d.core.traps := rfl

-- Dev.jump
@[simp] theorem Dev.jump_others (d : Dev) (t : Word) : (d.jump t).others = d.others := rfl
@[simp] theorem Dev.jump_clusters (d : Dev) (t : Word) : (d.jump t).clusters = d.clusters := rfl
@[simp] theorem Dev.jump_owners (d : Dev) (t : Word) : (d.jump t).owners = d.owners := rfl
@[simp] theorem Dev.jump_mem (d : Dev) (t : Word) : (d.jump t).mem = d.mem := rfl
@[simp] theorem Dev.jump_messages (d : Dev) (t : Word) : (d.jump t).messages = d.messages := rfl
@[simp] theorem Dev.jump_queues (d : Dev) (t : Word) : (d.jump t).queues = d.queues := rfl
@[simp] theorem Dev.jump_pieces (d : Dev) (t : Word) : (d.jump t).pieces = d.pieces := rfl
@[simp] theorem Dev.jump_nextPiece (d : Dev) (t : Word) : (d.jump t).nextPiece = d.nextPiece := rfl
@[simp] theorem Dev.jump_packets (d : Dev) (t : Word) : (d.jump t).packets = d.packets := rfl
@[simp] theorem Dev.jump_nextPacket (d : Dev) (t : Word) : (d.jump t).nextPacket = d.nextPacket := rfl
@[simp] theorem Dev.jump_arbiters (d : Dev) (t : Word) : (d.jump t).arbiters = d.arbiters := rfl
@[simp] theorem Dev.jump_stops (d : Dev) (t : Word) : (d.jump t).stops = d.stops := rfl
@[simp] theorem Dev.jump_contexts (d : Dev) (t : Word) : (d.jump t).contexts = d.contexts := rfl
@[simp] theorem Dev.jump_trigger (d : Dev) (t : Word) : (d.jump t).trigger = d.trigger := rfl
@[simp] theorem Dev.jump_toff (d : Dev) (t : Word) : (d.jump t).toff = d.toff := rfl
@[simp] theorem Dev.jump_servo (d : Dev) (t : Word) : (d.jump t).servo = d.servo := rfl
@[simp] theorem Dev.jump_host (d : Dev) (t : Word) : (d.jump t).host = d.host := rfl
@[simp] theorem Dev.jump_deviceId (d : Dev) (t : Word) : (d.jump t).deviceId = d.deviceId := rfl
@[simp] theorem Dev.jump_draws (d : Dev) (t : Word) : (d.jump t).draws = d.draws := rfl
@[simp] theorem Dev.jump_core_id (d : Dev) (t : Word) : (d.jump t).core.id = d.core.id := rfl
@[simp] theorem Dev.jump_core_run (d : Dev) (t : Word) : (d.jump t).core.run = d.core.run := rfl
@[simp] theorem Dev.jump_core_s (d : Dev) (t : Word) : (d.jump t).core.s = d.core.s := rfl
@[simp] theorem Dev.jump_core_v (d : Dev) (t : Word) : (d.jump t).core.v = d.core.v := rfl
@[simp] theorem Dev.jump_core_p (d : Dev) (t : Word) : (d.jump t).core.p = d.core.p := rfl
@[simp] theorem Dev.jump_core_acc (d : Dev) (t : Word) : (d.jump t).core.acc = d.core.acc := rfl
@[simp] theorem Dev.jump_core_desc (d : Dev) (t : Word) : (d.jump t).core.desc = d.core.desc := rfl
@[simp] theorem Dev.jump_core_stream (d : Dev) (t : Word) : (d.jump t).core.stream = d.core.stream := rfl
@[simp] theorem Dev.jump_core_port (d : Dev) (t : Word) : (d.jump t).core.port = d.core.port := rfl
@[simp] theorem Dev.jump_core_status (d : Dev) (t : Word) : (d.jump t).core.status = d.core.status := rfl
@[simp] theorem Dev.jump_core_cause (d : Dev) (t : Word) : (d.jump t).core.cause = d.core.cause := rfl
@[simp] theorem Dev.jump_core_epc (d : Dev) (t : Word) : (d.jump t).core.epc = d.core.epc := rfl
@[simp] theorem Dev.jump_core_faddr (d : Dev) (t : Word) : (d.jump t).core.faddr = d.core.faddr := rfl
@[simp] theorem Dev.jump_core_finfo (d : Dev) (t : Word) : (d.jump t).core.finfo = d.core.finfo := rfl
@[simp] theorem Dev.jump_core_tvec (d : Dev) (t : Word) : (d.jump t).core.tvec = d.core.tvec := rfl
@[simp] theorem Dev.jump_core_tstack (d : Dev) (t : Word) : (d.jump t).core.tstack = d.core.tstack := rfl
@[simp] theorem Dev.jump_core_kscr (d : Dev) (t : Word) : (d.jump t).core.kscr = d.core.kscr := rfl
@[simp] theorem Dev.jump_core_savearea (d : Dev) (t : Word) : (d.jump t).core.savearea = d.core.savearea := rfl
@[simp] theorem Dev.jump_core_ctxbuf (d : Dev) (t : Word) : (d.jump t).core.ctxbuf = d.core.ctxbuf := rfl
@[simp] theorem Dev.jump_core_ipend (d : Dev) (t : Word) : (d.jump t).core.ipend = d.core.ipend := rfl
@[simp] theorem Dev.jump_core_frst (d : Dev) (t : Word) : (d.jump t).core.frst = d.core.frst := rfl
@[simp] theorem Dev.jump_core_fflags (d : Dev) (t : Word) : (d.jump t).core.fflags = d.core.fflags := rfl
@[simp] theorem Dev.jump_core_preemptSource (d : Dev) (t : Word) : (d.jump t).core.preemptSource = d.core.preemptSource := rfl
@[simp] theorem Dev.jump_core_stopTick (d : Dev) (t : Word) : (d.jump t).core.stopTick = d.core.stopTick := rfl
@[simp] theorem Dev.jump_core_minimaMask (d : Dev) (t : Word) : (d.jump t).core.minimaMask = d.core.minimaMask := rfl
@[simp] theorem Dev.jump_core_uncorr (d : Dev) (t : Word) : (d.jump t).core.uncorr = d.core.uncorr := rfl
@[simp] theorem Dev.jump_core_inbox (d : Dev) (t : Word) : (d.jump t).core.inbox = d.core.inbox := rfl
@[simp] theorem Dev.jump_core_delivered (d : Dev) (t : Word) : (d.jump t).core.delivered = d.core.delivered := rfl
@[simp] theorem Dev.jump_core_stall (d : Dev) (t : Word) : (d.jump t).core.stall = d.core.stall := rfl
@[simp] theorem Dev.jump_core_frame (d : Dev) (t : Word) : (d.jump t).core.frame = d.core.frame := rfl
@[simp] theorem Dev.jump_core_matrix (d : Dev) (t : Word) : (d.jump t).core.matrix = d.core.matrix := rfl
@[simp] theorem Dev.jump_core_pad (d : Dev) (t : Word) : (d.jump t).core.pad = d.core.pad := rfl
@[simp] theorem Dev.jump_core_gang (d : Dev) (t : Word) : (d.jump t).core.gang = d.core.gang := rfl
@[simp] theorem Dev.jump_core_leaving (d : Dev) (t : Word) : (d.jump t).core.leaving = d.core.leaving := rfl
@[simp] theorem Dev.jump_core_parked (d : Dev) (t : Word) : (d.jump t).core.parked = d.core.parked := rfl
@[simp] theorem Dev.jump_core_task (d : Dev) (t : Word) : (d.jump t).core.task = d.core.task := rfl
@[simp] theorem Dev.jump_core_yielded (d : Dev) (t : Word) : (d.jump t).core.yielded = d.core.yielded := rfl
@[simp] theorem Dev.jump_core_sequencer (d : Dev) (t : Word) : (d.jump t).core.sequencer = d.core.sequencer := rfl
@[simp] theorem Dev.jump_core_spilled (d : Dev) (t : Word) : (d.jump t).core.spilled = d.core.spilled := rfl
@[simp] theorem Dev.jump_core_halt (d : Dev) (t : Word) : (d.jump t).core.halt = d.core.halt := rfl
@[simp] theorem Dev.jump_core_ends (d : Dev) (t : Word) : (d.jump t).core.ends = d.core.ends := rfl
@[simp] theorem Dev.jump_core_traps (d : Dev) (t : Word) : (d.jump t).core.traps = d.core.traps := rfl

-- Dev.takeTrap
@[simp] theorem Dev.takeTrap_others (d : Dev) (t : Trap) : (d.takeTrap t).others = d.others := rfl
@[simp] theorem Dev.takeTrap_clusters (d : Dev) (t : Trap) : (d.takeTrap t).clusters = d.clusters := rfl
@[simp] theorem Dev.takeTrap_owners (d : Dev) (t : Trap) : (d.takeTrap t).owners = d.owners := rfl
@[simp] theorem Dev.takeTrap_mem (d : Dev) (t : Trap) : (d.takeTrap t).mem = d.mem := rfl
@[simp] theorem Dev.takeTrap_messages (d : Dev) (t : Trap) : (d.takeTrap t).messages = d.messages := rfl
@[simp] theorem Dev.takeTrap_queues (d : Dev) (t : Trap) : (d.takeTrap t).queues = d.queues := rfl
@[simp] theorem Dev.takeTrap_pieces (d : Dev) (t : Trap) : (d.takeTrap t).pieces = d.pieces := rfl
@[simp] theorem Dev.takeTrap_nextPiece (d : Dev) (t : Trap) : (d.takeTrap t).nextPiece = d.nextPiece := rfl
@[simp] theorem Dev.takeTrap_packets (d : Dev) (t : Trap) : (d.takeTrap t).packets = d.packets := rfl
@[simp] theorem Dev.takeTrap_nextPacket (d : Dev) (t : Trap) : (d.takeTrap t).nextPacket = d.nextPacket := rfl
@[simp] theorem Dev.takeTrap_arbiters (d : Dev) (t : Trap) : (d.takeTrap t).arbiters = d.arbiters := rfl
@[simp] theorem Dev.takeTrap_stops (d : Dev) (t : Trap) : (d.takeTrap t).stops = d.stops := rfl
@[simp] theorem Dev.takeTrap_contexts (d : Dev) (t : Trap) : (d.takeTrap t).contexts = d.contexts := rfl
@[simp] theorem Dev.takeTrap_trigger (d : Dev) (t : Trap) : (d.takeTrap t).trigger = d.trigger := rfl
@[simp] theorem Dev.takeTrap_toff (d : Dev) (t : Trap) : (d.takeTrap t).toff = d.toff := rfl
@[simp] theorem Dev.takeTrap_servo (d : Dev) (t : Trap) : (d.takeTrap t).servo = d.servo := rfl
@[simp] theorem Dev.takeTrap_deviceId (d : Dev) (t : Trap) : (d.takeTrap t).deviceId = d.deviceId := rfl
@[simp] theorem Dev.takeTrap_draws (d : Dev) (t : Trap) : (d.takeTrap t).draws = d.draws := rfl

-- Dev.setCluster
@[simp] theorem Dev.setCluster_core (d : Dev) (k : Fin 32) (c : Cluster) : (d.setCluster k c).core = d.core := rfl
@[simp] theorem Dev.setCluster_others (d : Dev) (k : Fin 32) (c : Cluster) : (d.setCluster k c).others = d.others := rfl
@[simp] theorem Dev.setCluster_owners (d : Dev) (k : Fin 32) (c : Cluster) : (d.setCluster k c).owners = d.owners := rfl
@[simp] theorem Dev.setCluster_mem (d : Dev) (k : Fin 32) (c : Cluster) : (d.setCluster k c).mem = d.mem := rfl
@[simp] theorem Dev.setCluster_messages (d : Dev) (k : Fin 32) (c : Cluster) : (d.setCluster k c).messages = d.messages := rfl
@[simp] theorem Dev.setCluster_queues (d : Dev) (k : Fin 32) (c : Cluster) : (d.setCluster k c).queues = d.queues := rfl
@[simp] theorem Dev.setCluster_pieces (d : Dev) (k : Fin 32) (c : Cluster) : (d.setCluster k c).pieces = d.pieces := rfl
@[simp] theorem Dev.setCluster_nextPiece (d : Dev) (k : Fin 32) (c : Cluster) : (d.setCluster k c).nextPiece = d.nextPiece := rfl
@[simp] theorem Dev.setCluster_packets (d : Dev) (k : Fin 32) (c : Cluster) : (d.setCluster k c).packets = d.packets := rfl
@[simp] theorem Dev.setCluster_nextPacket (d : Dev) (k : Fin 32) (c : Cluster) : (d.setCluster k c).nextPacket = d.nextPacket := rfl
@[simp] theorem Dev.setCluster_arbiters (d : Dev) (k : Fin 32) (c : Cluster) : (d.setCluster k c).arbiters = d.arbiters := rfl
@[simp] theorem Dev.setCluster_stops (d : Dev) (k : Fin 32) (c : Cluster) : (d.setCluster k c).stops = d.stops := rfl
@[simp] theorem Dev.setCluster_contexts (d : Dev) (k : Fin 32) (c : Cluster) : (d.setCluster k c).contexts = d.contexts := rfl
@[simp] theorem Dev.setCluster_trigger (d : Dev) (k : Fin 32) (c : Cluster) : (d.setCluster k c).trigger = d.trigger := rfl
@[simp] theorem Dev.setCluster_toff (d : Dev) (k : Fin 32) (c : Cluster) : (d.setCluster k c).toff = d.toff := rfl
@[simp] theorem Dev.setCluster_servo (d : Dev) (k : Fin 32) (c : Cluster) : (d.setCluster k c).servo = d.servo := rfl
@[simp] theorem Dev.setCluster_host (d : Dev) (k : Fin 32) (c : Cluster) : (d.setCluster k c).host = d.host := rfl
@[simp] theorem Dev.setCluster_deviceId (d : Dev) (k : Fin 32) (c : Cluster) : (d.setCluster k c).deviceId = d.deviceId := rfl
@[simp] theorem Dev.setCluster_draws (d : Dev) (k : Fin 32) (c : Cluster) : (d.setCluster k c).draws = d.draws := rfl

-- Dev.setOwner
@[simp] theorem Dev.setOwner_core (d : Dev) (j : Nat) (x : Owner) : (d.setOwner j x).core = d.core := rfl
@[simp] theorem Dev.setOwner_others (d : Dev) (j : Nat) (x : Owner) : (d.setOwner j x).others = d.others := rfl
@[simp] theorem Dev.setOwner_clusters (d : Dev) (j : Nat) (x : Owner) : (d.setOwner j x).clusters = d.clusters := rfl
@[simp] theorem Dev.setOwner_mem (d : Dev) (j : Nat) (x : Owner) : (d.setOwner j x).mem = d.mem := rfl
@[simp] theorem Dev.setOwner_messages (d : Dev) (j : Nat) (x : Owner) : (d.setOwner j x).messages = d.messages := rfl
@[simp] theorem Dev.setOwner_queues (d : Dev) (j : Nat) (x : Owner) : (d.setOwner j x).queues = d.queues := rfl
@[simp] theorem Dev.setOwner_pieces (d : Dev) (j : Nat) (x : Owner) : (d.setOwner j x).pieces = d.pieces := rfl
@[simp] theorem Dev.setOwner_nextPiece (d : Dev) (j : Nat) (x : Owner) : (d.setOwner j x).nextPiece = d.nextPiece := rfl
@[simp] theorem Dev.setOwner_packets (d : Dev) (j : Nat) (x : Owner) : (d.setOwner j x).packets = d.packets := rfl
@[simp] theorem Dev.setOwner_nextPacket (d : Dev) (j : Nat) (x : Owner) : (d.setOwner j x).nextPacket = d.nextPacket := rfl
@[simp] theorem Dev.setOwner_arbiters (d : Dev) (j : Nat) (x : Owner) : (d.setOwner j x).arbiters = d.arbiters := rfl
@[simp] theorem Dev.setOwner_stops (d : Dev) (j : Nat) (x : Owner) : (d.setOwner j x).stops = d.stops := rfl
@[simp] theorem Dev.setOwner_contexts (d : Dev) (j : Nat) (x : Owner) : (d.setOwner j x).contexts = d.contexts := rfl
@[simp] theorem Dev.setOwner_trigger (d : Dev) (j : Nat) (x : Owner) : (d.setOwner j x).trigger = d.trigger := rfl
@[simp] theorem Dev.setOwner_toff (d : Dev) (j : Nat) (x : Owner) : (d.setOwner j x).toff = d.toff := rfl
@[simp] theorem Dev.setOwner_servo (d : Dev) (j : Nat) (x : Owner) : (d.setOwner j x).servo = d.servo := rfl
@[simp] theorem Dev.setOwner_host (d : Dev) (j : Nat) (x : Owner) : (d.setOwner j x).host = d.host := rfl
@[simp] theorem Dev.setOwner_deviceId (d : Dev) (j : Nat) (x : Owner) : (d.setOwner j x).deviceId = d.deviceId := rfl
@[simp] theorem Dev.setOwner_draws (d : Dev) (j : Nat) (x : Owner) : (d.setOwner j x).draws = d.draws := rfl

@[simp] theorem Dev.advance_core_pc (d : Dev) : d.advance.core.pc = d.core.pc + 4 := rfl
@[simp] theorem Dev.jump_core_pc (d : Dev) (t : Word) : (d.jump t).core.pc = t := rfl

end Sys2Proof.Machine
end

