-- ==== Sys2Proof/Laws/Ops.lean ====
section
/-! SUPPORT. What each shared operation does, said once: reading and writing registers, the outcome of an instruction, taking a
trap and returning from one, tables, and numbers in bytes. -/
namespace Sys2Proof.Machine
open Sys2Proof

-- The outcome of an instruction.

@[simp] theorem finish_ok (s : State) (d : Dev) : finish s (.ok d) = .next (s.withDev d) := rfl
@[simp] theorem finish_error (s : State) (e : Stop) : finish s (.error e) = .next (s.withDev (s.d.stopped e)) := rfl

/-- An instruction whose effect is an Act always answers a next state: it goes on, traps or waits. -/
theorem finish_next (s : State) (a : Act) : ∃ d, finish s a = .next (s.withDev d) := by
  cases a with
  | ok d => exact ⟨d, rfl⟩
  | error e => exact ⟨_, rfl⟩

/-- Everything finish can answer. -/
theorem finish_cases {s t : State} {a : Act} (h : finish s a = .next t) :
    (∃ d, a = .ok d ∧ t = s.withDev d) ∨
    (∃ r, a = .error (.trap r) ∧ t = s.withDev (s.d.takeTrap r)) ∨
    (∃ w, a = .error (.wait w) ∧ t = s.withDev { s.d with core := { s.d.core with stall := w } }) ∨
    (∃ d w, a = .error (.left d w) ∧ t = s.withDev { d with core := { s.d.core with stall := w, uncorr := d.core.uncorr } }) ∨
    (∃ d r, a = .error (.walkedTrap d r) ∧
      t = s.withDev (({ d with core := { s.d.core with uncorr := d.core.uncorr } } : Dev).takeTrap r)) := by
  cases a with
  | ok d => exact .inl ⟨d, rfl, by simpa using h.symm⟩
  | error e =>
    cases e with
    | trap r => exact .inr (.inl ⟨r, rfl, by simpa [Dev.stopped] using h.symm⟩)
    | wait w => exact .inr (.inr (.inl ⟨w, rfl, by simpa [Dev.stopped] using h.symm⟩))
    | left d w => exact .inr (.inr (.inr (.inl ⟨d, w, rfl, by simpa [Dev.stopped] using h.symm⟩)))
    | walkedTrap d r => exact .inr (.inr (.inr (.inr ⟨d, r, rfl, by simpa [Dev.stopped] using h.symm⟩)))

@[simp] theorem stopped_trap (d : Dev) (t : Trap) : d.stopped (.trap t) = d.takeTrap t := rfl
@[simp] theorem stopped_wait (d : Dev) (r : BitVec 4) : d.stopped (.wait r) = { d with core := { d.core with stall := r } } := rfl
@[simp] theorem stopped_left (d e : Dev) (r : BitVec 4) :
    d.stopped (.left e r) = { e with core := { d.core with stall := r, uncorr := e.core.uncorr } } := rfl

@[simp] theorem stopped_walkedTrap (d e : Dev) (t : Trap) :
    d.stopped (.walkedTrap e t) = ({ e with core := { d.core with uncorr := e.core.uncorr } } : Dev).takeTrap t := rfl

/-- An instruction that writes one scalar register. -/
theorem setS_eq (s : State) (rd : SReg) (x : Word) : setS s rd x = .next (s.withDev (s.d.wr rd x).advance) := rfl

-- Generations, clusters and owners do not depend on what the registers hold.

@[simp] theorem Dev.gen_wr (d : Dev) (r : SReg) (x : Word) : (d.wr r x).gen = d.gen := by simp [Dev.gen, Dev.cluster]
@[simp] theorem Dev.gen_wrPair (d : Dev) (r : SReg) (x : BitVec 128) : (d.wrPair r x).gen = d.gen := by simp [Dev.gen, Dev.cluster]
@[simp] theorem Dev.gen_wrV (d : Dev) (r : VReg) (x : VWord) : (d.wrV r x).gen = d.gen := rfl
@[simp] theorem Dev.gen_wrP (d : Dev) (q : PReg) (x : PWord) : (d.wrP q x).gen = d.gen := by simp [Dev.gen, Dev.cluster]
@[simp] theorem Dev.gen_wrD (d : Dev) (n : BitVec 4) (x : Word) : (d.wrD n x).gen = d.gen := rfl
@[simp] theorem Dev.gen_wrDs (d : Dev) (n : BitVec 4) (x : Word) : (d.wrDs n x).gen = d.gen := rfl
@[simp] theorem Dev.gen_advance (d : Dev) : d.advance.gen = d.gen := rfl
@[simp] theorem Dev.gen_jump (d : Dev) (t : Word) : (d.jump t).gen = d.gen := rfl

-- Registers.

theorem toFin_ne {n : Nat} {x y : BitVec n} (h : x ≠ y) : x.toFin.val ≠ y.toFin.val := fun e => h (BitVec.eq_of_toNat_eq e)

/-- s0 reads as zero (R29). -/
@[simp] theorem Core.readS_zero (c : Core) (g : BitVec 8) : c.readS g 0 = 0 := rfl
@[simp] theorem Dev.rd_zero (d : Dev) : d.rd 0 = 0 := rfl

/-- A read after a write: s0 stays zero, the register written reads as the value, every other as before. -/
theorem Core.readS_writeS (c : Core) (g : BitVec 8) (r q : SReg) (x : Word) :
    (c.writeS g r x).readS g q = if q = 0 then 0 else if q = r then x else c.readS g q := by
  unfold Core.readS Core.writeS
  by_cases hq : q = 0
  · rw [if_pos hq, if_pos hq]
  · rw [if_neg hq, if_neg hq]
    by_cases hr : r = 0
    · have : q ≠ r := fun h => hq (h.trans hr)
      rw [if_pos hr, if_neg this, if_neg hq]
    · rw [if_neg hr]
      by_cases h : q = r
      · subst h; simp [Tagged.read]
      · rw [if_neg h, if_neg hq]
        simp only [Tagged.read, Fin.getElem_fin, Vector.getElem_set_ne _ _ (toFin_ne (Ne.symm h))]

theorem Dev.rd_wr (d : Dev) (r q : SReg) (x : Word) :
    (d.wr r x).rd q = if q = 0 then 0 else if q = r then x else d.rd q := by
  unfold Dev.rd; rw [Dev.gen_wr]; exact Core.readS_writeS d.core d.gen r q x

@[simp] theorem Dev.rd_wr_same (d : Dev) (r : SReg) (x : Word) (h : r ≠ 0) : (d.wr r x).rd r = x := by
  rw [Dev.rd_wr, if_neg h, if_pos rfl]
theorem Dev.rd_wr_other (d : Dev) (r q : SReg) (x : Word) (h : q ≠ r) : (d.wr r x).rd q = d.rd q := by
  rw [Dev.rd_wr, if_neg h]; split
  · subst_vars; rfl
  · rfl

@[simp] theorem Dev.rd_advance (d : Dev) (r : SReg) : d.advance.rd r = d.rd r := rfl
@[simp] theorem Dev.rd_jump (d : Dev) (t : Word) (r : SReg) : (d.jump t).rd r = d.rd r := rfl

theorem Dev.rdV_wrV (d : Dev) (r q : VReg) (x : VWord) : (d.wrV r x).rdV q = if q = r then x else d.rdV q := by
  unfold Dev.rdV
  rw [Dev.gen_wrV]
  by_cases h : q = r
  · subst h; simp [Tagged.read, Dev.wrV]
  · rw [if_neg h]; simp only [Dev.wrV, Tagged.read, Fin.getElem_fin, Vector.getElem_set_ne _ _ (toFin_ne (Ne.symm h))]

/-- p0 reads as all ones (R29). -/
@[simp] theorem Dev.rdP_zero (d : Dev) : d.rdP 0 = BitVec.allOnes 256 := rfl

theorem Dev.rdP_wrP (d : Dev) (r q : PReg) (x : PWord) :
    (d.wrP r x).rdP q = if q = 0 then BitVec.allOnes 256 else if q = r then x else d.rdP q := by
  unfold Dev.rdP
  by_cases hq : q = 0
  · rw [if_pos hq, if_pos hq]
  · rw [if_neg hq, if_neg hq, Dev.gen_wrP]
    by_cases h : q = r
    · subst h; rw [if_pos rfl]; simp only [Dev.wrP, if_neg hq]; simp [Tagged.read]
    · rw [if_neg h, if_neg hq]
      by_cases hr : r = 0
      · simp [Dev.wrP, hr]
      · simp only [Dev.wrP, if_neg hr, Tagged.read, Fin.getElem_fin, Vector.getElem_set_ne _ _ (toFin_ne (Ne.symm h))]

theorem Dev.rdD_wrD (d : Dev) (n m : BitVec 4) (x : Word) : (d.wrD n x).rdD m = if m = n then x else d.rdD m := by
  unfold Dev.rdD
  rw [Dev.gen_wrD]
  by_cases h : m = n
  · subst h; simp [Tagged.read, Dev.wrD]
  · rw [if_neg h]; simp only [Dev.wrD, Tagged.read, Fin.getElem_fin, Vector.getElem_set_ne _ _ (toFin_ne (Ne.symm h))]

theorem Dev.rdDs_wrDs (d : Dev) (n m : BitVec 4) (x : Word) : (d.wrDs n x).rdDs m = if m = n then x else d.rdDs m := by
  unfold Dev.rdDs
  rw [Dev.gen_wrDs]
  by_cases h : m = n
  · subst h; simp [Tagged.read, Dev.wrDs]
  · rw [if_neg h]; simp only [Dev.wrDs, Tagged.read, Fin.getElem_fin, Vector.getElem_set_ne _ _ (toFin_ne (Ne.symm h))]

-- Clusters and owners.

@[simp] theorem Dev.setCluster_same (d : Dev) (k : Fin 32) (c : Cluster) : (d.setCluster k c).clusters[k] = c := by
  simp [Dev.setCluster]
theorem Dev.setCluster_other (d : Dev) (k j : Fin 32) (c : Cluster) (h : j ≠ k) :
    (d.setCluster k c).clusters[j] = d.clusters[j] := by
  have : k.val ≠ j.val := fun e => h (Fin.ext e.symm)
  simp only [Dev.setCluster, Fin.getElem_fin, Vector.getElem_set_ne _ _ this]
@[simp] theorem Dev.setOwner_same (d : Dev) (j : Nat) (x : Owner) : (d.setOwner j x).ownerAt j = x := by
  simp [Dev.setOwner, Dev.ownerAt]

-- Traps.

/-- With nothing for the vector engine to complete a trap leaves no FRAME, and gives no register write up (R99, R242). -/
theorem Core.savedRegs_none (c : Core) (h : c.frame = none) (q : c.sequencer = []) : c.savedRegs = c.s := by simp [Core.savedRegs, h, q]
theorem Core.putBack_none (c : Core) (h : c.frame = none) (q : c.sequencer = []) : c.putBack = c := by
  rw [Core.putBack, c.savedRegs_none h q, ← q]
theorem Core.leaveFrame_none (c : Core) (h : c.frame = none) (q : c.sequencer = []) : c.leaveFrame = c := by
  simp [Core.leaveFrame, h, c.putBack_none h q]
theorem Core.resumeAt_none (c : Core) (epc : Word) (h : c.frame = none) (q : c.sequencer = []) : c.resumeAt epc = epc := by
  simp [Core.resumeAt, h, q]
/-- Where vector instructions wait in the sequencer, a trap resumes at the oldest of them, with the registers as they then were (R96, R242). -/
theorem Core.resumeAt_handed (c : Core) (epc : Word) (x : Handed) (t : List Handed) (h : c.frame = none) (q : c.sequencer = x :: t) :
    c.resumeAt epc = x.addr ∧ c.leaveFrame.s = x.saved ∧ c.leaveFrame.sequencer = [] := by
  simp [Core.resumeAt, Core.leaveFrame, Core.putBack, Core.savedRegs, h, q]

/-- What giving up the writes of what ran ahead keeps. -/
@[simp] theorem Core.putBack_status (c : Core) : c.putBack.status = c.status := rfl
@[simp] theorem Core.putBack_tvec (c : Core) : c.putBack.tvec = c.tvec := rfl
@[simp] theorem Core.putBack_id (c : Core) : c.putBack.id = c.id := rfl
@[simp] theorem Core.putBack_frame (c : Core) : c.putBack.frame = c.frame := rfl
@[simp] theorem Core.putBack_sequencer (c : Core) : c.putBack.sequencer = [] := rfl
/-- What leaving a FRAME keeps. -/
@[simp] theorem Core.leaveFrame_status (c : Core) : c.leaveFrame.status = c.status := by unfold Core.leaveFrame; split <;> rfl
@[simp] theorem Core.leaveFrame_tvec (c : Core) : c.leaveFrame.tvec = c.tvec := by unfold Core.leaveFrame; split <;> rfl
@[simp] theorem Core.leaveFrame_id (c : Core) : c.leaveFrame.id = c.id := by unfold Core.leaveFrame; split <;> rfl
@[simp] theorem Core.leaveFrame_sequencer (c : Core) : c.leaveFrame.sequencer = [] := by unfold Core.leaveFrame; split <;> rfl

/-- A trap with CONS = 0 stops the core, with its FRAME, whose ahead-running instructions lose their writes (R94, R242). -/
theorem Core.takeTrap_double (c : Core) (g : BitVec 8) (t : Trap) (h : c.status.cons = false) :
    c.takeTrap g t = { c.putBack with
      pc := c.resumeAt c.pc, run := .escalated t.code (c.resumeAt c.pc) t.faddr t.finfo, parked := false, traps := c.traps + 1 } := by
  simp [Core.takeTrap, h]

@[simp] theorem Core.swapStack_status (c : Core) (g : BitVec 8) : (c.swapStack g).status = c.status := by simp [Core.swapStack]

/-- What TakeTrap writes (R91): everything but the registers that the exchange of the stack and a FRAME concern. -/
theorem Core.takeTrap_enters (c : Core) (g : BitVec 8) (t : Trap) (h : c.status.cons = true) :
    let e := c.takeTrap g t
    e.cause = { defer := t.defer, async := t.async, code := t.code } ∧ e.epc = c.resumeAt t.epc ∧ e.faddr = t.faddr ∧
    e.finfo = t.finfo ∧ e.pc = c.tvec ∧ e.run = .running ∧ e.traps = c.traps + 1 ∧
    e.status = { c.status with ppl := c.status.pl, pie := c.status.ie, ie := false, cons := false, pl := .supervisor } := by
  simp only [Core.takeTrap, h, Bool.true_eq_false, if_false]
  split <;> simp [Core.swapStack]

/-- A trap that escalates changes no memory and no other core, and reports itself (R94). -/
theorem Dev.takeTrap_double (d : Dev) (t : Trap) (h : d.core.status.cons = false) :
    d.takeTrap t = { d with core := { d.core.putBack with
                              pc := d.core.resumeAt d.core.pc, run := .escalated t.code (d.core.resumeAt d.core.pc) t.faddr t.finfo
                              parked := false, traps := d.core.traps + 1 }
                            host := { d.host with notices := d.host.notices ++ [d.core.escalation d.deviceId t] } } := by
  simp [Dev.takeTrap, Core.takeTrap_double _ _ _ h, h]

/-- A return restores the level and IE and sets CONS; the next pc is EPC (R92). -/
theorem Core.eret_fields (c : Core) (g : BitVec 8) :
    (c.eret g).pc = c.epc ∧ (c.eret g).status = { c.status with pl := c.status.ppl, ie := c.status.pie, cons := true } := by
  unfold Core.eret; dsimp only; split <;> simp

-- Tables.

theorem Tbl.find_set {α : Type} (t : Tbl α) (k j : Nat) (x : α) : (t.set k x).find j = if j = k then some x else t.find j := by
  induction t with
  | nil => simp only [Tbl.set, Tbl.find]; split <;> split <;> first | rfl | omega
  | cons c r ih =>
    obtain ⟨i, y⟩ := c
    simp only [Tbl.set]
    by_cases hj : j = k
    · subst hj; rw [if_pos rfl]
      split
      · simp [Tbl.find]
      · split
        · simp [Tbl.find]
        · rw [Tbl.find, if_neg ‹¬ i = j›, ih, if_pos rfl]
    · have hk : ¬ k = j := fun h => hj h.symm
      rw [if_neg hj]
      split
      · rw [Tbl.find, if_neg hk]
      · split
        · have ha : ¬ i = j := by omega
          rw [Tbl.find, if_neg hk, Tbl.find, if_neg ha]
        · rw [Tbl.find, Tbl.find, ih, if_neg hj]

/-- The current core is read back. -/
theorem Dev.coreAt_current (d : Dev) : d.coreAt d.core.id = d.core := by simp [Dev.coreAt]

/-- A core that was set is read back, and every other core is as before. -/
theorem Dev.coreAt_setCore (d : Dev) (c : Core) (k : Nat) : (d.setCore c).coreAt k = if k = c.id then c else d.coreAt k := by
  unfold Dev.setCore
  by_cases h : c.id = d.core.id
  · rw [if_pos h]; unfold Dev.coreAt; dsimp only
    by_cases hk : k = c.id
    · rw [if_pos hk, if_pos hk]
    · rw [if_neg hk, if_neg hk, if_neg (fun e => hk (e.trans h.symm))]
  · rw [if_neg h]; unfold Dev.coreAt; dsimp only
    rw [Tbl.find_set]
    by_cases hk : k = c.id
    · subst hk; rw [if_neg h]; simp
    · rw [if_neg hk, if_neg hk]

-- Numbers in bytes (R4).

@[simp] theorem length_leBytes (n x : Nat) : (leBytes n x).length = n := by
  induction n generalizing x with
  | zero => rfl
  | succ n ih => simp [leBytes, ih]

/-- The bytes of a number hold the number, modulo what they can hold. -/
theorem leNat_leBytes (n x : Nat) : leNat (leBytes n x) = x % 256 ^ n := by
  induction n generalizing x with
  | zero => simp [leBytes, leNat, Nat.mod_one]
  | succ n ih =>
    rw [leBytes, leNat, ih, BitVec.toNat_ofNat, pow_succ' 256 n]; exact (Nat.mod_mul (a := 256)).symm

/-- Bytes hold a number below the bound. -/
theorem leNat_lt (bs : List Byte) : leNat bs < 256 ^ bs.length := by
  induction bs with
  | nil => simp [leNat]
  | cons b t ih =>
    have hb := b.isLt
    simp only [leNat, List.length_cons, pow_succ']
    omega

end Sys2Proof.Machine
end

