-- ==== Sys2Proof/Laws/Device.lean ====
section
/-! SUPPORT. What the operations that device agents share do: counters, queues, packets, notices, requests at arbitrated instances,
lookups of MSC slices, and the ALU words of an atomic region. -/
namespace Sys2Proof.Machine
open Sys2Proof

-- Dev.count
@[simp] theorem Dev.count_core (d : Dev) (o n k : Nat) : (d.count o n k).core = d.core := rfl
@[simp] theorem Dev.count_others (d : Dev) (o n k : Nat) : (d.count o n k).others = d.others := rfl
@[simp] theorem Dev.count_clusters (d : Dev) (o n k : Nat) : (d.count o n k).clusters = d.clusters := rfl
@[simp] theorem Dev.count_mem (d : Dev) (o n k : Nat) : (d.count o n k).mem = d.mem := rfl
@[simp] theorem Dev.count_messages (d : Dev) (o n k : Nat) : (d.count o n k).messages = d.messages := rfl
@[simp] theorem Dev.count_queues (d : Dev) (o n k : Nat) : (d.count o n k).queues = d.queues := rfl
@[simp] theorem Dev.count_pieces (d : Dev) (o n k : Nat) : (d.count o n k).pieces = d.pieces := rfl
@[simp] theorem Dev.count_nextPiece (d : Dev) (o n k : Nat) : (d.count o n k).nextPiece = d.nextPiece := rfl
@[simp] theorem Dev.count_packets (d : Dev) (o n k : Nat) : (d.count o n k).packets = d.packets := rfl
@[simp] theorem Dev.count_nextPacket (d : Dev) (o n k : Nat) : (d.count o n k).nextPacket = d.nextPacket := rfl
@[simp] theorem Dev.count_arbiters (d : Dev) (o n k : Nat) : (d.count o n k).arbiters = d.arbiters := rfl
@[simp] theorem Dev.count_stops (d : Dev) (o n k : Nat) : (d.count o n k).stops = d.stops := rfl
@[simp] theorem Dev.count_contexts (d : Dev) (o n k : Nat) : (d.count o n k).contexts = d.contexts := rfl
@[simp] theorem Dev.count_trigger (d : Dev) (o n k : Nat) : (d.count o n k).trigger = d.trigger := rfl
@[simp] theorem Dev.count_toff (d : Dev) (o n k : Nat) : (d.count o n k).toff = d.toff := rfl
@[simp] theorem Dev.count_servo (d : Dev) (o n k : Nat) : (d.count o n k).servo = d.servo := rfl
@[simp] theorem Dev.count_host (d : Dev) (o n k : Nat) : (d.count o n k).host = d.host := rfl
@[simp] theorem Dev.count_deviceId (d : Dev) (o n k : Nat) : (d.count o n k).deviceId = d.deviceId := rfl
@[simp] theorem Dev.count_draws (d : Dev) (o n k : Nat) : (d.count o n k).draws = d.draws := rfl

-- Dev.event
@[simp] theorem Dev.event_core (d : Dev) (o : Nat) (code : BitVec 8) (k : Nat) : (d.event o code k).core = d.core := rfl
@[simp] theorem Dev.event_others (d : Dev) (o : Nat) (code : BitVec 8) (k : Nat) : (d.event o code k).others = d.others := rfl
@[simp] theorem Dev.event_clusters (d : Dev) (o : Nat) (code : BitVec 8) (k : Nat) : (d.event o code k).clusters = d.clusters := rfl
@[simp] theorem Dev.event_mem (d : Dev) (o : Nat) (code : BitVec 8) (k : Nat) : (d.event o code k).mem = d.mem := rfl
@[simp] theorem Dev.event_messages (d : Dev) (o : Nat) (code : BitVec 8) (k : Nat) : (d.event o code k).messages = d.messages := rfl
@[simp] theorem Dev.event_queues (d : Dev) (o : Nat) (code : BitVec 8) (k : Nat) : (d.event o code k).queues = d.queues := rfl
@[simp] theorem Dev.event_pieces (d : Dev) (o : Nat) (code : BitVec 8) (k : Nat) : (d.event o code k).pieces = d.pieces := rfl
@[simp] theorem Dev.event_nextPiece (d : Dev) (o : Nat) (code : BitVec 8) (k : Nat) : (d.event o code k).nextPiece = d.nextPiece := rfl
@[simp] theorem Dev.event_packets (d : Dev) (o : Nat) (code : BitVec 8) (k : Nat) : (d.event o code k).packets = d.packets := rfl
@[simp] theorem Dev.event_nextPacket (d : Dev) (o : Nat) (code : BitVec 8) (k : Nat) : (d.event o code k).nextPacket = d.nextPacket := rfl
@[simp] theorem Dev.event_arbiters (d : Dev) (o : Nat) (code : BitVec 8) (k : Nat) : (d.event o code k).arbiters = d.arbiters := rfl
@[simp] theorem Dev.event_stops (d : Dev) (o : Nat) (code : BitVec 8) (k : Nat) : (d.event o code k).stops = d.stops := rfl
@[simp] theorem Dev.event_contexts (d : Dev) (o : Nat) (code : BitVec 8) (k : Nat) : (d.event o code k).contexts = d.contexts := rfl
@[simp] theorem Dev.event_trigger (d : Dev) (o : Nat) (code : BitVec 8) (k : Nat) : (d.event o code k).trigger = d.trigger := rfl
@[simp] theorem Dev.event_toff (d : Dev) (o : Nat) (code : BitVec 8) (k : Nat) : (d.event o code k).toff = d.toff := rfl
@[simp] theorem Dev.event_servo (d : Dev) (o : Nat) (code : BitVec 8) (k : Nat) : (d.event o code k).servo = d.servo := rfl
@[simp] theorem Dev.event_host (d : Dev) (o : Nat) (code : BitVec 8) (k : Nat) : (d.event o code k).host = d.host := rfl
@[simp] theorem Dev.event_deviceId (d : Dev) (o : Nat) (code : BitVec 8) (k : Nat) : (d.event o code k).deviceId = d.deviceId := rfl
@[simp] theorem Dev.event_draws (d : Dev) (o : Nat) (code : BitVec 8) (k : Nat) : (d.event o code k).draws = d.draws := rfl

-- Dev.setQueue
@[simp] theorem Dev.setQueue_core (d : Dev) (n : Nat) (q : Queue) : (d.setQueue n q).core = d.core := rfl
@[simp] theorem Dev.setQueue_others (d : Dev) (n : Nat) (q : Queue) : (d.setQueue n q).others = d.others := rfl
@[simp] theorem Dev.setQueue_clusters (d : Dev) (n : Nat) (q : Queue) : (d.setQueue n q).clusters = d.clusters := rfl
@[simp] theorem Dev.setQueue_owners (d : Dev) (n : Nat) (q : Queue) : (d.setQueue n q).owners = d.owners := rfl
@[simp] theorem Dev.setQueue_mem (d : Dev) (n : Nat) (q : Queue) : (d.setQueue n q).mem = d.mem := rfl
@[simp] theorem Dev.setQueue_messages (d : Dev) (n : Nat) (q : Queue) : (d.setQueue n q).messages = d.messages := rfl
@[simp] theorem Dev.setQueue_pieces (d : Dev) (n : Nat) (q : Queue) : (d.setQueue n q).pieces = d.pieces := rfl
@[simp] theorem Dev.setQueue_nextPiece (d : Dev) (n : Nat) (q : Queue) : (d.setQueue n q).nextPiece = d.nextPiece := rfl
@[simp] theorem Dev.setQueue_packets (d : Dev) (n : Nat) (q : Queue) : (d.setQueue n q).packets = d.packets := rfl
@[simp] theorem Dev.setQueue_nextPacket (d : Dev) (n : Nat) (q : Queue) : (d.setQueue n q).nextPacket = d.nextPacket := rfl
@[simp] theorem Dev.setQueue_arbiters (d : Dev) (n : Nat) (q : Queue) : (d.setQueue n q).arbiters = d.arbiters := rfl
@[simp] theorem Dev.setQueue_stops (d : Dev) (n : Nat) (q : Queue) : (d.setQueue n q).stops = d.stops := rfl
@[simp] theorem Dev.setQueue_contexts (d : Dev) (n : Nat) (q : Queue) : (d.setQueue n q).contexts = d.contexts := rfl
@[simp] theorem Dev.setQueue_trigger (d : Dev) (n : Nat) (q : Queue) : (d.setQueue n q).trigger = d.trigger := rfl
@[simp] theorem Dev.setQueue_toff (d : Dev) (n : Nat) (q : Queue) : (d.setQueue n q).toff = d.toff := rfl
@[simp] theorem Dev.setQueue_servo (d : Dev) (n : Nat) (q : Queue) : (d.setQueue n q).servo = d.servo := rfl
@[simp] theorem Dev.setQueue_host (d : Dev) (n : Nat) (q : Queue) : (d.setQueue n q).host = d.host := rfl
@[simp] theorem Dev.setQueue_deviceId (d : Dev) (n : Nat) (q : Queue) : (d.setQueue n q).deviceId = d.deviceId := rfl
@[simp] theorem Dev.setQueue_draws (d : Dev) (n : Nat) (q : Queue) : (d.setQueue n q).draws = d.draws := rfl

-- Dev.notice
@[simp] theorem Dev.notice_core (d : Dev) (n : Notice) : (d.notice n).core = d.core := rfl
@[simp] theorem Dev.notice_others (d : Dev) (n : Notice) : (d.notice n).others = d.others := rfl
@[simp] theorem Dev.notice_clusters (d : Dev) (n : Notice) : (d.notice n).clusters = d.clusters := rfl
@[simp] theorem Dev.notice_owners (d : Dev) (n : Notice) : (d.notice n).owners = d.owners := rfl
@[simp] theorem Dev.notice_mem (d : Dev) (n : Notice) : (d.notice n).mem = d.mem := rfl
@[simp] theorem Dev.notice_messages (d : Dev) (n : Notice) : (d.notice n).messages = d.messages := rfl
@[simp] theorem Dev.notice_queues (d : Dev) (n : Notice) : (d.notice n).queues = d.queues := rfl
@[simp] theorem Dev.notice_pieces (d : Dev) (n : Notice) : (d.notice n).pieces = d.pieces := rfl
@[simp] theorem Dev.notice_nextPiece (d : Dev) (n : Notice) : (d.notice n).nextPiece = d.nextPiece := rfl
@[simp] theorem Dev.notice_packets (d : Dev) (n : Notice) : (d.notice n).packets = d.packets := rfl
@[simp] theorem Dev.notice_nextPacket (d : Dev) (n : Notice) : (d.notice n).nextPacket = d.nextPacket := rfl
@[simp] theorem Dev.notice_arbiters (d : Dev) (n : Notice) : (d.notice n).arbiters = d.arbiters := rfl
@[simp] theorem Dev.notice_stops (d : Dev) (n : Notice) : (d.notice n).stops = d.stops := rfl
@[simp] theorem Dev.notice_contexts (d : Dev) (n : Notice) : (d.notice n).contexts = d.contexts := rfl
@[simp] theorem Dev.notice_trigger (d : Dev) (n : Notice) : (d.notice n).trigger = d.trigger := rfl
@[simp] theorem Dev.notice_toff (d : Dev) (n : Notice) : (d.notice n).toff = d.toff := rfl
@[simp] theorem Dev.notice_servo (d : Dev) (n : Notice) : (d.notice n).servo = d.servo := rfl
@[simp] theorem Dev.notice_deviceId (d : Dev) (n : Notice) : (d.notice n).deviceId = d.deviceId := rfl
@[simp] theorem Dev.notice_draws (d : Dev) (n : Notice) : (d.notice n).draws = d.draws := rfl

-- Dev.sendOff
@[simp] theorem Dev.sendOff_core (d : Dev) (k : Fin 32) (p : Packet) : (d.sendOff k p).core = d.core := rfl
@[simp] theorem Dev.sendOff_others (d : Dev) (k : Fin 32) (p : Packet) : (d.sendOff k p).others = d.others := rfl
@[simp] theorem Dev.sendOff_owners (d : Dev) (k : Fin 32) (p : Packet) : (d.sendOff k p).owners = d.owners := rfl
@[simp] theorem Dev.sendOff_mem (d : Dev) (k : Fin 32) (p : Packet) : (d.sendOff k p).mem = d.mem := rfl
@[simp] theorem Dev.sendOff_messages (d : Dev) (k : Fin 32) (p : Packet) : (d.sendOff k p).messages = d.messages := rfl
@[simp] theorem Dev.sendOff_queues (d : Dev) (k : Fin 32) (p : Packet) : (d.sendOff k p).queues = d.queues := rfl
@[simp] theorem Dev.sendOff_pieces (d : Dev) (k : Fin 32) (p : Packet) : (d.sendOff k p).pieces = d.pieces := rfl
@[simp] theorem Dev.sendOff_nextPiece (d : Dev) (k : Fin 32) (p : Packet) : (d.sendOff k p).nextPiece = d.nextPiece := rfl
@[simp] theorem Dev.sendOff_arbiters (d : Dev) (k : Fin 32) (p : Packet) : (d.sendOff k p).arbiters = d.arbiters := rfl
@[simp] theorem Dev.sendOff_stops (d : Dev) (k : Fin 32) (p : Packet) : (d.sendOff k p).stops = d.stops := rfl
@[simp] theorem Dev.sendOff_contexts (d : Dev) (k : Fin 32) (p : Packet) : (d.sendOff k p).contexts = d.contexts := rfl
@[simp] theorem Dev.sendOff_trigger (d : Dev) (k : Fin 32) (p : Packet) : (d.sendOff k p).trigger = d.trigger := rfl
@[simp] theorem Dev.sendOff_toff (d : Dev) (k : Fin 32) (p : Packet) : (d.sendOff k p).toff = d.toff := rfl
@[simp] theorem Dev.sendOff_servo (d : Dev) (k : Fin 32) (p : Packet) : (d.sendOff k p).servo = d.servo := rfl
@[simp] theorem Dev.sendOff_host (d : Dev) (k : Fin 32) (p : Packet) : (d.sendOff k p).host = d.host := rfl
@[simp] theorem Dev.sendOff_deviceId (d : Dev) (k : Fin 32) (p : Packet) : (d.sendOff k p).deviceId = d.deviceId := rfl
@[simp] theorem Dev.sendOff_draws (d : Dev) (k : Fin 32) (p : Packet) : (d.sendOff k p).draws = d.draws := rfl

-- Dev.passes
@[simp] theorem Dev.passes_core (d : Dev) (a b : Fin 32) : (d.passes a b).core = d.core := rfl
@[simp] theorem Dev.passes_others (d : Dev) (a b : Fin 32) : (d.passes a b).others = d.others := rfl
@[simp] theorem Dev.passes_owners (d : Dev) (a b : Fin 32) : (d.passes a b).owners = d.owners := rfl
@[simp] theorem Dev.passes_mem (d : Dev) (a b : Fin 32) : (d.passes a b).mem = d.mem := rfl
@[simp] theorem Dev.passes_messages (d : Dev) (a b : Fin 32) : (d.passes a b).messages = d.messages := rfl
@[simp] theorem Dev.passes_queues (d : Dev) (a b : Fin 32) : (d.passes a b).queues = d.queues := rfl
@[simp] theorem Dev.passes_pieces (d : Dev) (a b : Fin 32) : (d.passes a b).pieces = d.pieces := rfl
@[simp] theorem Dev.passes_nextPiece (d : Dev) (a b : Fin 32) : (d.passes a b).nextPiece = d.nextPiece := rfl
@[simp] theorem Dev.passes_packets (d : Dev) (a b : Fin 32) : (d.passes a b).packets = d.packets := rfl
@[simp] theorem Dev.passes_nextPacket (d : Dev) (a b : Fin 32) : (d.passes a b).nextPacket = d.nextPacket := rfl
@[simp] theorem Dev.passes_arbiters (d : Dev) (a b : Fin 32) : (d.passes a b).arbiters = d.arbiters := rfl
@[simp] theorem Dev.passes_stops (d : Dev) (a b : Fin 32) : (d.passes a b).stops = d.stops := rfl
@[simp] theorem Dev.passes_contexts (d : Dev) (a b : Fin 32) : (d.passes a b).contexts = d.contexts := rfl
@[simp] theorem Dev.passes_trigger (d : Dev) (a b : Fin 32) : (d.passes a b).trigger = d.trigger := rfl
@[simp] theorem Dev.passes_toff (d : Dev) (a b : Fin 32) : (d.passes a b).toff = d.toff := rfl
@[simp] theorem Dev.passes_servo (d : Dev) (a b : Fin 32) : (d.passes a b).servo = d.servo := rfl
@[simp] theorem Dev.passes_host (d : Dev) (a b : Fin 32) : (d.passes a b).host = d.host := rfl
@[simp] theorem Dev.passes_deviceId (d : Dev) (a b : Fin 32) : (d.passes a b).deviceId = d.deviceId := rfl
@[simp] theorem Dev.passes_draws (d : Dev) (a b : Fin 32) : (d.passes a b).draws = d.draws := rfl

-- Dev.enterHold
@[simp] theorem Dev.enterHold_core (d : Dev) (k : Fin 32) (h : HeldAccess) : (d.enterHold k h).core = d.core := rfl
@[simp] theorem Dev.enterHold_others (d : Dev) (k : Fin 32) (h : HeldAccess) : (d.enterHold k h).others = d.others := rfl
@[simp] theorem Dev.enterHold_mem (d : Dev) (k : Fin 32) (h : HeldAccess) : (d.enterHold k h).mem = d.mem := rfl
@[simp] theorem Dev.enterHold_messages (d : Dev) (k : Fin 32) (h : HeldAccess) : (d.enterHold k h).messages = d.messages := rfl
@[simp] theorem Dev.enterHold_queues (d : Dev) (k : Fin 32) (h : HeldAccess) : (d.enterHold k h).queues = d.queues := rfl
@[simp] theorem Dev.enterHold_pieces (d : Dev) (k : Fin 32) (h : HeldAccess) : (d.enterHold k h).pieces = d.pieces := rfl
@[simp] theorem Dev.enterHold_nextPiece (d : Dev) (k : Fin 32) (h : HeldAccess) : (d.enterHold k h).nextPiece = d.nextPiece := rfl
@[simp] theorem Dev.enterHold_packets (d : Dev) (k : Fin 32) (h : HeldAccess) : (d.enterHold k h).packets = d.packets := rfl
@[simp] theorem Dev.enterHold_nextPacket (d : Dev) (k : Fin 32) (h : HeldAccess) : (d.enterHold k h).nextPacket = d.nextPacket := rfl
@[simp] theorem Dev.enterHold_arbiters (d : Dev) (k : Fin 32) (h : HeldAccess) : (d.enterHold k h).arbiters = d.arbiters := rfl
@[simp] theorem Dev.enterHold_stops (d : Dev) (k : Fin 32) (h : HeldAccess) : (d.enterHold k h).stops = d.stops := rfl
@[simp] theorem Dev.enterHold_contexts (d : Dev) (k : Fin 32) (h : HeldAccess) : (d.enterHold k h).contexts = d.contexts := rfl
@[simp] theorem Dev.enterHold_trigger (d : Dev) (k : Fin 32) (h : HeldAccess) : (d.enterHold k h).trigger = d.trigger := rfl
@[simp] theorem Dev.enterHold_toff (d : Dev) (k : Fin 32) (h : HeldAccess) : (d.enterHold k h).toff = d.toff := rfl
@[simp] theorem Dev.enterHold_servo (d : Dev) (k : Fin 32) (h : HeldAccess) : (d.enterHold k h).servo = d.servo := rfl
@[simp] theorem Dev.enterHold_host (d : Dev) (k : Fin 32) (h : HeldAccess) : (d.enterHold k h).host = d.host := rfl
@[simp] theorem Dev.enterHold_deviceId (d : Dev) (k : Fin 32) (h : HeldAccess) : (d.enterHold k h).deviceId = d.deviceId := rfl
@[simp] theorem Dev.enterHold_draws (d : Dev) (k : Fin 32) (h : HeldAccess) : (d.enterHold k h).draws = d.draws := rfl

-- Dev.setMem
@[simp] theorem Dev.setMem_core (d : Dev) (m : MemState) : (d.setMem m).core = d.core := rfl
@[simp] theorem Dev.setMem_others (d : Dev) (m : MemState) : (d.setMem m).others = d.others := rfl
@[simp] theorem Dev.setMem_clusters (d : Dev) (m : MemState) : (d.setMem m).clusters = d.clusters := rfl
@[simp] theorem Dev.setMem_owners (d : Dev) (m : MemState) : (d.setMem m).owners = d.owners := rfl
@[simp] theorem Dev.setMem_messages (d : Dev) (m : MemState) : (d.setMem m).messages = d.messages := rfl
@[simp] theorem Dev.setMem_queues (d : Dev) (m : MemState) : (d.setMem m).queues = d.queues := rfl
@[simp] theorem Dev.setMem_pieces (d : Dev) (m : MemState) : (d.setMem m).pieces = d.pieces := rfl
@[simp] theorem Dev.setMem_nextPiece (d : Dev) (m : MemState) : (d.setMem m).nextPiece = d.nextPiece := rfl
@[simp] theorem Dev.setMem_packets (d : Dev) (m : MemState) : (d.setMem m).packets = d.packets := rfl
@[simp] theorem Dev.setMem_nextPacket (d : Dev) (m : MemState) : (d.setMem m).nextPacket = d.nextPacket := rfl
@[simp] theorem Dev.setMem_arbiters (d : Dev) (m : MemState) : (d.setMem m).arbiters = d.arbiters := rfl
@[simp] theorem Dev.setMem_stops (d : Dev) (m : MemState) : (d.setMem m).stops = d.stops := rfl
@[simp] theorem Dev.setMem_contexts (d : Dev) (m : MemState) : (d.setMem m).contexts = d.contexts := rfl
@[simp] theorem Dev.setMem_trigger (d : Dev) (m : MemState) : (d.setMem m).trigger = d.trigger := rfl
@[simp] theorem Dev.setMem_toff (d : Dev) (m : MemState) : (d.setMem m).toff = d.toff := rfl
@[simp] theorem Dev.setMem_servo (d : Dev) (m : MemState) : (d.setMem m).servo = d.servo := rfl
@[simp] theorem Dev.setMem_host (d : Dev) (m : MemState) : (d.setMem m).host = d.host := rfl
@[simp] theorem Dev.setMem_deviceId (d : Dev) (m : MemState) : (d.setMem m).deviceId = d.deviceId := rfl
@[simp] theorem Dev.setMem_draws (d : Dev) (m : MemState) : (d.setMem m).draws = d.draws := rfl
@[simp] theorem Dev.setMem_mem (d : Dev) (m : MemState) : (d.setMem m).mem = m := rfl

-- What is read back.

theorem Tbl.get_eq {α : Type} (z : α) (t : Tbl α) (k : Nat) : t.get z k = (t.find k).getD z := by
  induction t with
  | nil => rfl
  | cons c r ih => obtain ⟨i, y⟩ := c; simp only [Tbl.get, Tbl.find]; split <;> simp [ih]
theorem Tbl.get_set {α : Type} (z : α) (t : Tbl α) (k j : Nat) (x : α) : (t.set k x).get z j = if j = k then x else t.get z j := by
  rw [Tbl.get_eq, Tbl.get_eq, Tbl.find_set]; split <;> rfl

/-- A counter rises by k, to 2^48 - 1 at most (R342). -/
theorem Owner.count_same (o : Owner) (n k : Nat) : (o.count n k).counters.get 0 n = min (2 ^ 48 - 1) (o.counters.get 0 n + k) := by
  simp [Owner.count, Tbl.get_set]
theorem Owner.count_other (o : Owner) (n k m : Nat) (h : m ≠ n) : (o.count n k).counters.get 0 m = o.counters.get 0 m := by
  simp [Owner.count, Tbl.get_set, h]

/-- A queue that was set is read back, and every other queue is as before. -/
theorem Dev.queueAt_setQueue (d : Dev) (n m : Nat) (q : Queue) : (d.setQueue n q).queueAt m = if m = n then q else d.queueAt m := by
  exact Tbl.get_set ..

-- Requests at arbitrated instances (R201 to R203).

/-- Only streams, counters and instances differ. -/
def Dev.Asked (d e : Dev) : Prop := ∃ os as, e = { d with owners := os, arbiters := as }

theorem Dev.Asked.refl (d : Dev) : d.Asked d := ⟨d.owners, d.arbiters, rfl⟩
theorem Dev.Asked.trans {d e f : Dev} (h : d.Asked e) (k : e.Asked f) : d.Asked f := by
  obtain ⟨os, as, rfl⟩ := h; obtain ⟨ps, bs, rfl⟩ := k; exact ⟨ps, bs, rfl⟩
theorem Dev.asked_setOwner (d : Dev) (j : Nat) (x : Owner) : d.Asked (d.setOwner j x) := ⟨_, d.arbiters, rfl⟩
theorem Dev.asked_event (d : Dev) (o : Nat) (c : BitVec 8) (k : Nat) : d.Asked (d.event o c k) := d.asked_setOwner _ _
theorem Dev.asked_arbiters (d : Dev) (t : Tbl ArbInstance) : d.Asked { d with arbiters := t } := ⟨d.owners, t, rfl⟩

theorem Dev.asked_lottery (c inst : Nat) (os : List Nat) : ∀ (d : Dev) (b : Option (Nat × Nat)), d.Asked (d.lottery c inst os b).1 := by
  induction os with
  | nil => exact fun d _ => .refl d
  | cons o t ih => exact fun d _ => (d.asked_setOwner _ _).trans (ih _ _)

theorem Dev.asked_losers (os : List Nat) : ∀ d : Dev, d.Asked (os.foldl (fun e o => e.event o 0x06) d) := by
  induction os with
  | nil => exact .refl
  | cons o t ih => exact fun d => (d.asked_event o _ _).trans (ih _)

theorem Dev.asked_roundWinner (d : Dev) (c inst : Nat) (a : ArbInstance) : d.Asked (d.roundWinner c inst a).1 := by
  unfold Dev.roundWinner
  split
  · exact .refl d
  · exact (Dev.asked_lottery c inst _ d none).trans (Dev.asked_losers _ _)

/-- A round changes streams, counters and instances only. -/
theorem Dev.asked_arbitrate (d : Dev) (c inst : Nat) (accepts : Bool) : d.Asked (d.arbitrate c inst accepts) := by
  unfold Dev.arbitrate
  split
  · dsimp only
    split
    · exact .refl d
    · split
      · exact (d.asked_roundWinner c inst _).trans (((Dev.asked_setOwner _ _ _)).trans (Dev.asked_arbiters _ _))
      · exact (d.asked_roundWinner c inst _).trans (((Dev.asked_event _ _ _ _)).trans (Dev.asked_arbiters _ _))
  · exact .refl d

theorem Dev.asked_roundsUntil (c inst o goal n : Nat) : ∀ d : Dev, d.Asked (Dev.roundsUntil c inst o goal n d) := by
  induction n with
  | zero => exact .refl
  | succ n ih =>
    intro d
    rw [Dev.roundsUntil]
    split
    · exact .refl d
    · exact (d.asked_arbitrate c inst true).trans (ih _)

/-- A request that is granted changes streams, counters and instances only (R202, R203). -/
theorem Dev.asked_ask (d : Dev) (c inst o : Nat) : d.Asked (d.ask c inst o) := by
  refine Dev.Asked.trans ?_ (Dev.asked_roundsUntil c inst o _ _ _)
  unfold Dev.requestAt
  split
  · exact d.asked_arbiters _
  · exact .refl d

/-- What every field but those holds after such a change. -/
theorem Dev.Asked.keeps {d e : Dev} (h : d.Asked e) :
    e.core = d.core ∧ e.others = d.others ∧ e.clusters = d.clusters ∧ e.mem = d.mem ∧ e.queues = d.queues ∧ e.host = d.host := by
  obtain ⟨os, as, rfl⟩ := h; exact ⟨rfl, rfl, rfl, rfl, rfl, rfl⟩

theorem Dev.asked_askTimes (c inst o n : Nat) : ∀ d : Dev, d.Asked (d.askTimes c inst o n) := by
  induction n with
  | zero => exact .refl
  | succ n ih => exact fun d => (d.asked_ask c inst o).trans (ih _)

/-- An access of MSC slices changes streams, counters, instances and the blocks of the slices only. -/
def Dev.Looked (d e : Dev) : Prop := ∃ os as bs, e = { d with owners := os, arbiters := as, mem := { d.mem with msc := bs } }
theorem Dev.Asked.looked {d e : Dev} (h : d.Asked e) : d.Looked e := by
  obtain ⟨os, as, rfl⟩ := h; exact ⟨os, as, d.mem.msc, rfl⟩
theorem Dev.Looked.trans {d e f : Dev} (h : d.Looked e) (k : e.Looked f) : d.Looked f := by
  obtain ⟨os, as, bs, rfl⟩ := h; obtain ⟨ps, cs, ds, rfl⟩ := k; exact ⟨ps, cs, ds, rfl⟩
theorem Dev.looked_placeBlock (d : Dev) (stack o line : Nat) (v w : BitVec 16) : d.Looked (d.placeBlock stack o line v w) :=
  ⟨_, d.arbiters, _, rfl⟩
theorem Dev.looked_dropBlock (d : Dev) (stack : Nat) (b : MscBlock) : d.Looked (d.dropBlock stack b) := ⟨d.owners, d.arbiters, _, rfl⟩
theorem Dev.looked_replaceBlock (d : Dev) (stack : Nat) (b x : MscBlock) : d.Looked (d.replaceBlock stack b x) :=
  ⟨d.owners, d.arbiters, _, rfl⟩
theorem Dev.looked_moveSectors (d : Dev) (stack line : Nat) (m : BitVec 16) (o : Nat) : d.Looked (d.moveSectors stack line m o) :=
  (Dev.asked_askTimes _ _ _ _ d).looked
theorem Dev.looked_allocate (d : Dev) (stack o line : Nat) (v w : BitVec 16) (r : Nat) : d.Looked (d.allocate stack o line v w r) := by
  unfold Dev.allocate
  split
  · exact d.looked_placeBlock _ _ _ _ _
  · exact (d.looked_moveSectors _ _ _ _).trans (Dev.looked_placeBlock _ _ _ _ _ _)

/-- A lookup of an MSC slice changes streams, counters, instances and the blocks of the slices only (R194, R195, R199). -/
theorem Dev.mscAccess_frame (d : Dev) (pa n o : Nat) (written : Option (Nat × Nat)) : d.Looked (d.mscAccess pa n o written) := by
  unfold Dev.mscAccess
  have h := (d.asked_ask 2 (homeStack pa) o).looked
  dsimp only
  rcases (d.ask 2 (homeStack pa) o).findBlock (homeStack pa) (d.frameOwner pa) (lineOf pa) with _ | b
  · exact ((h.trans (Dev.looked_moveSectors _ _ _ _ _)).trans (Dev.asked_event _ _ _ _).looked).trans (Dev.looked_allocate _ _ _ _ _ _ _)
  · have hf : d.Looked (if sectorsOf pa n &&& ~~~b.valid = 0 then d.ask 2 (homeStack pa) o
        else ((d.ask 2 (homeStack pa) o).moveSectors (homeStack pa) (lineOf pa) (sectorsOf pa n &&& ~~~b.valid) o).event (d.frameOwner pa) 0x03) := by
      split
      · exact h
      · exact (h.trans (Dev.looked_moveSectors _ _ _ _ _)).trans (Dev.asked_event _ _ _ _).looked
    revert hf
    dsimp only
    generalize (if sectorsOf pa n &&& ~~~b.valid = 0 then d.ask 2 (homeStack pa) o else _) = f
    intro hf
    by_cases hp : b.parity ≠ (f.ownerAt (d.frameOwner pa)).parity
    · rw [if_pos hp]; exact (hf.trans (Dev.looked_dropBlock _ _ _)).trans (Dev.looked_allocate _ _ _ _ _ _ _)
    · rw [if_neg hp]
      cases written <;> dsimp only <;> split <;> first | exact hf | exact hf.trans (Dev.looked_replaceBlock _ _ _ _)

theorem Dev.looked_crossDies (d : Dev) (a b o : Nat) : d.Looked (d.crossDies a b o) := by
  unfold Dev.crossDies
  split
  · exact (Dev.Asked.refl d).looked
  · exact (d.asked_ask _ _ _).looked

/-- A packet that leaves the device changes streams, counters and instances only (R202, R416). -/
theorem Dev.asked_egress (d : Dev) (x : BitVec 12) (o n : Nat) : d.Asked (d.egress x o n) := by
  unfold Dev.egress
  split
  · exact .refl d
  · split
    · exact .refl d
    · exact Dev.asked_askTimes _ _ _ _ _

/-- An access that asks where its home is changes streams, counters, instances and the blocks of the slices only, wherever the home is. -/
theorem Dev.lookup_frame (d : Dev) (dev : Option (BitVec 12)) (pa n o : Nat) (written : Option (Nat × Nat)) (die : Option Nat) :
    d.Looked (d.lookup dev pa n o written die) := by
  unfold Dev.lookup
  split
  · exact ((d.looked_crossDies _ _ _).trans (Dev.mscAccess_frame _ _ _ _ _)).trans (Dev.looked_crossDies _ _ _ _)
  · exact (d.asked_egress _ _ _).looked

-- Uncorrectable errors and single-line atomic regions.

/-- A reported error changes the pending records of one core only (R98). -/
theorem Dev.recordUncorr_mem (d : Dev) (c : Nat) (a : Word) (p : BitVec 3) : (d.recordUncorr c a p).mem = d.mem := by
  unfold Dev.recordUncorr
  split
  · unfold Dev.setCore; dsimp only; split <;> rfl
  · rfl

/-- An ALU word of a region writes what the instruction by itself writes (R179). -/
theorem regionAlu_exec (s : State) (i : Instr) (r : SReg × Word) (h : regionAlu s.d i = some r) : exec i s = setS s r.1 r.2 := by
  cases i <;> simp only [regionAlu] at h <;> first | (cases h; rfl) | (exact absurd h (by simp))

end Sys2Proof.Machine
end

