-- ==== Sys2Proof/Laws/Encoding.lean ====
section
/-! SUPPORT. The fields of the words that the encoder builds: what each field of R33 reads in each format. -/
namespace Sys2Proof.Laws
open Sys2Proof

/-- A field above the low part of a word lies in the high part. -/
theorem extract_high {n m s l : Nat} (x : BitVec n) (y : BitVec m) (h : m ≤ s) :
    (x ++ y).extractLsb' s l = x.extractLsb' (s - m) l := BitVec.extractLsb'_append_eq_of_le h

/-- A field within the low part of a word lies there. -/
theorem extract_low {n m s l : Nat} (x : BitVec n) (y : BitVec m) (h : s + l ≤ m) :
    (x ++ y).extractLsb' s l = y.extractLsb' s l := BitVec.extractLsb'_append_eq_of_add_le h

/-- All of a word is the word. -/
theorem extract_all {n : Nat} (x : BitVec n) : x.extractLsb' 0 n = x := BitVec.extractLsb'_eq_self

@[simp] theorem moOf_encR (mo : BitVec 6) (rd ra rb : BitVec 5) (fn : BitVec 11) :
    moOf (encR mo rd ra rb fn) = mo := by
  unfold moOf encR
  rw [extract_high _ _ (by decide), extract_high _ _ (by decide), extract_high _ _ (by decide), extract_high _ _ (by decide)]
  exact extract_all _
@[simp] theorem f25_encR (mo : BitVec 6) (rd ra rb : BitVec 5) (fn : BitVec 11) :
    f25 (encR mo rd ra rb fn) = rd := by
  unfold f25 encR
  rw [extract_high _ _ (by decide), extract_high _ _ (by decide), extract_high _ _ (by decide)]
  exact (extract_low _ _ (by decide)).trans (extract_all _)
@[simp] theorem f20_encR (mo : BitVec 6) (rd ra rb : BitVec 5) (fn : BitVec 11) :
    f20 (encR mo rd ra rb fn) = ra := by
  unfold f20 encR
  rw [extract_high _ _ (by decide), extract_high _ _ (by decide)]
  exact (extract_low _ _ (by decide)).trans (extract_all _)
@[simp] theorem f15_encR (mo : BitVec 6) (rd ra rb : BitVec 5) (fn : BitVec 11) :
    f15 (encR mo rd ra rb fn) = rb := by
  unfold f15 encR
  rw [extract_high _ _ (by decide)]
  exact (extract_low _ _ (by decide)).trans (extract_all _)
@[simp] theorem fn11_encR (mo : BitVec 6) (rd ra rb : BitVec 5) (fn : BitVec 11) :
    fn11 (encR mo rd ra rb fn) = fn := by
  unfold fn11 encR
  exact (extract_low _ _ (by decide)).trans (extract_all _)
@[simp] theorem moOf_encI (mo : BitVec 6) (rd ra : BitVec 5) (imm : BitVec 16) :
    moOf (encI mo rd ra imm) = mo := by
  unfold moOf encI
  rw [extract_high _ _ (by decide), extract_high _ _ (by decide), extract_high _ _ (by decide)]
  exact extract_all _
@[simp] theorem f25_encI (mo : BitVec 6) (rd ra : BitVec 5) (imm : BitVec 16) :
    f25 (encI mo rd ra imm) = rd := by
  unfold f25 encI
  rw [extract_high _ _ (by decide), extract_high _ _ (by decide)]
  exact (extract_low _ _ (by decide)).trans (extract_all _)
@[simp] theorem f20_encI (mo : BitVec 6) (rd ra : BitVec 5) (imm : BitVec 16) :
    f20 (encI mo rd ra imm) = ra := by
  unfold f20 encI
  rw [extract_high _ _ (by decide)]
  exact (extract_low _ _ (by decide)).trans (extract_all _)
@[simp] theorem imm16_encI (mo : BitVec 6) (rd ra : BitVec 5) (imm : BitVec 16) :
    imm16 (encI mo rd ra imm) = imm := by
  unfold imm16 encI
  exact (extract_low _ _ (by decide)).trans (extract_all _)
@[simp] theorem moOf_encM (mo : BitVec 6) (rd ra : BitVec 5) (sz : BitVec 3) (off : BitVec 13) :
    moOf (encM mo rd ra sz off) = mo := by
  unfold moOf encM
  rw [extract_high _ _ (by decide), extract_high _ _ (by decide), extract_high _ _ (by decide), extract_high _ _ (by decide)]
  exact extract_all _
@[simp] theorem f25_encM (mo : BitVec 6) (rd ra : BitVec 5) (sz : BitVec 3) (off : BitVec 13) :
    f25 (encM mo rd ra sz off) = rd := by
  unfold f25 encM
  rw [extract_high _ _ (by decide), extract_high _ _ (by decide), extract_high _ _ (by decide)]
  exact (extract_low _ _ (by decide)).trans (extract_all _)
@[simp] theorem f20_encM (mo : BitVec 6) (rd ra : BitVec 5) (sz : BitVec 3) (off : BitVec 13) :
    f20 (encM mo rd ra sz off) = ra := by
  unfold f20 encM
  rw [extract_high _ _ (by decide), extract_high _ _ (by decide)]
  exact (extract_low _ _ (by decide)).trans (extract_all _)
@[simp] theorem f13_encM (mo : BitVec 6) (rd ra : BitVec 5) (sz : BitVec 3) (off : BitVec 13) :
    f13 (encM mo rd ra sz off) = sz := by
  unfold f13 encM
  rw [extract_high _ _ (by decide)]
  exact (extract_low _ _ (by decide)).trans (extract_all _)
@[simp] theorem off13_encM (mo : BitVec 6) (rd ra : BitVec 5) (sz : BitVec 3) (off : BitVec 13) :
    off13 (encM mo rd ra sz off) = off := by
  unfold off13 encM
  exact (extract_low _ _ (by decide)).trans (extract_all _)
@[simp] theorem moOf_encJ (mo : BitVec 6) (off : BitVec 26) :
    moOf (encJ mo off) = mo := by
  unfold moOf encJ
  rw [extract_high _ _ (by decide)]
  exact extract_all _
@[simp] theorem off26_encJ (mo : BitVec 6) (off : BitVec 26) :
    off26 (encJ mo off) = off := by
  unfold off26 encJ
  exact (extract_low _ _ (by decide)).trans (extract_all _)
@[simp] theorem moOf_encQ (mo : BitVec 6) (rd ra rb rc : BitVec 5) (fn : BitVec 6) :
    moOf (encQ mo rd ra rb rc fn) = mo := by
  unfold moOf encQ
  rw [extract_high _ _ (by decide), extract_high _ _ (by decide), extract_high _ _ (by decide), extract_high _ _ (by decide), extract_high _ _ (by decide)]
  exact extract_all _
@[simp] theorem f25_encQ (mo : BitVec 6) (rd ra rb rc : BitVec 5) (fn : BitVec 6) :
    f25 (encQ mo rd ra rb rc fn) = rd := by
  unfold f25 encQ
  rw [extract_high _ _ (by decide), extract_high _ _ (by decide), extract_high _ _ (by decide), extract_high _ _ (by decide)]
  exact (extract_low _ _ (by decide)).trans (extract_all _)
@[simp] theorem f20_encQ (mo : BitVec 6) (rd ra rb rc : BitVec 5) (fn : BitVec 6) :
    f20 (encQ mo rd ra rb rc fn) = ra := by
  unfold f20 encQ
  rw [extract_high _ _ (by decide), extract_high _ _ (by decide), extract_high _ _ (by decide)]
  exact (extract_low _ _ (by decide)).trans (extract_all _)
@[simp] theorem f15_encQ (mo : BitVec 6) (rd ra rb rc : BitVec 5) (fn : BitVec 6) :
    f15 (encQ mo rd ra rb rc fn) = rb := by
  unfold f15 encQ
  rw [extract_high _ _ (by decide), extract_high _ _ (by decide)]
  exact (extract_low _ _ (by decide)).trans (extract_all _)
@[simp] theorem f10_encQ (mo : BitVec 6) (rd ra rb rc : BitVec 5) (fn : BitVec 6) :
    f10 (encQ mo rd ra rb rc fn) = rc := by
  unfold f10 encQ
  rw [extract_high _ _ (by decide)]
  exact (extract_low _ _ (by decide)).trans (extract_all _)
@[simp] theorem moOf_encV (mo : BitVec 6) (vd va vb : BitVec 5) (pg : BitVec 3) (fn : BitVec 8) :
    moOf (encV mo vd va vb pg fn) = mo := by
  unfold moOf encV
  rw [extract_high _ _ (by decide), extract_high _ _ (by decide), extract_high _ _ (by decide), extract_high _ _ (by decide), extract_high _ _ (by decide)]
  exact extract_all _
@[simp] theorem f25_encV (mo : BitVec 6) (vd va vb : BitVec 5) (pg : BitVec 3) (fn : BitVec 8) :
    f25 (encV mo vd va vb pg fn) = vd := by
  unfold f25 encV
  rw [extract_high _ _ (by decide), extract_high _ _ (by decide), extract_high _ _ (by decide), extract_high _ _ (by decide)]
  exact (extract_low _ _ (by decide)).trans (extract_all _)
@[simp] theorem f20_encV (mo : BitVec 6) (vd va vb : BitVec 5) (pg : BitVec 3) (fn : BitVec 8) :
    f20 (encV mo vd va vb pg fn) = va := by
  unfold f20 encV
  rw [extract_high _ _ (by decide), extract_high _ _ (by decide), extract_high _ _ (by decide)]
  exact (extract_low _ _ (by decide)).trans (extract_all _)
@[simp] theorem f15_encV (mo : BitVec 6) (vd va vb : BitVec 5) (pg : BitVec 3) (fn : BitVec 8) :
    f15 (encV mo vd va vb pg fn) = vb := by
  unfold f15 encV
  rw [extract_high _ _ (by decide), extract_high _ _ (by decide)]
  exact (extract_low _ _ (by decide)).trans (extract_all _)
@[simp] theorem pgOf_encV (mo : BitVec 6) (vd va vb : BitVec 5) (pg : BitVec 3) (fn : BitVec 8) :
    pgOf (encV mo vd va vb pg fn) = pg := by
  unfold pgOf encV
  rw [extract_high _ _ (by decide)]
  exact (extract_low _ _ (by decide)).trans (extract_all _)
@[simp] theorem fn8_encV (mo : BitVec 6) (vd va vb : BitVec 5) (pg : BitVec 3) (fn : BitVec 8) :
    fn8 (encV mo vd va vb pg fn) = fn := by
  unfold fn8 encV
  exact (extract_low _ _ (by decide)).trans (extract_all _)
@[simp] theorem moOf_encV4 (mo : BitVec 6) (vd va vb vc : BitVec 5) (pg fn : BitVec 3) :
    moOf (encV4 mo vd va vb vc pg fn) = mo := by
  unfold moOf encV4
  rw [extract_high _ _ (by decide), extract_high _ _ (by decide), extract_high _ _ (by decide), extract_high _ _ (by decide), extract_high _ _ (by decide), extract_high _ _ (by decide)]
  exact extract_all _
@[simp] theorem f25_encV4 (mo : BitVec 6) (vd va vb vc : BitVec 5) (pg fn : BitVec 3) :
    f25 (encV4 mo vd va vb vc pg fn) = vd := by
  unfold f25 encV4
  rw [extract_high _ _ (by decide), extract_high _ _ (by decide), extract_high _ _ (by decide), extract_high _ _ (by decide), extract_high _ _ (by decide)]
  exact (extract_low _ _ (by decide)).trans (extract_all _)
@[simp] theorem f20_encV4 (mo : BitVec 6) (vd va vb vc : BitVec 5) (pg fn : BitVec 3) :
    f20 (encV4 mo vd va vb vc pg fn) = va := by
  unfold f20 encV4
  rw [extract_high _ _ (by decide), extract_high _ _ (by decide), extract_high _ _ (by decide), extract_high _ _ (by decide)]
  exact (extract_low _ _ (by decide)).trans (extract_all _)
@[simp] theorem f15_encV4 (mo : BitVec 6) (vd va vb vc : BitVec 5) (pg fn : BitVec 3) :
    f15 (encV4 mo vd va vb vc pg fn) = vb := by
  unfold f15 encV4
  rw [extract_high _ _ (by decide), extract_high _ _ (by decide), extract_high _ _ (by decide)]
  exact (extract_low _ _ (by decide)).trans (extract_all _)
@[simp] theorem f10_encV4 (mo : BitVec 6) (vd va vb vc : BitVec 5) (pg fn : BitVec 3) :
    f10 (encV4 mo vd va vb vc pg fn) = vc := by
  unfold f10 encV4
  rw [extract_high _ _ (by decide), extract_high _ _ (by decide)]
  exact (extract_low _ _ (by decide)).trans (extract_all _)
@[simp] theorem moOf_encVM (mo : BitVec 6) (vd ra rb : BitVec 5) (pg : BitVec 3) (adv : BitVec 1) (addr : BitVec 2) (sz : BitVec 3) (q : BitVec 2) :
    moOf (encVM mo vd ra rb pg adv addr sz q) = mo := by
  unfold moOf encVM
  rw [extract_high _ _ (by decide), extract_high _ _ (by decide), extract_high _ _ (by decide), extract_high _ _ (by decide), extract_high _ _ (by decide), extract_high _ _ (by decide), extract_high _ _ (by decide), extract_high _ _ (by decide)]
  exact extract_all _
@[simp] theorem f25_encVM (mo : BitVec 6) (vd ra rb : BitVec 5) (pg : BitVec 3) (adv : BitVec 1) (addr : BitVec 2) (sz : BitVec 3) (q : BitVec 2) :
    f25 (encVM mo vd ra rb pg adv addr sz q) = vd := by
  unfold f25 encVM
  rw [extract_high _ _ (by decide), extract_high _ _ (by decide), extract_high _ _ (by decide), extract_high _ _ (by decide), extract_high _ _ (by decide), extract_high _ _ (by decide), extract_high _ _ (by decide)]
  exact (extract_low _ _ (by decide)).trans (extract_all _)
@[simp] theorem f20_encVM (mo : BitVec 6) (vd ra rb : BitVec 5) (pg : BitVec 3) (adv : BitVec 1) (addr : BitVec 2) (sz : BitVec 3) (q : BitVec 2) :
    f20 (encVM mo vd ra rb pg adv addr sz q) = ra := by
  unfold f20 encVM
  rw [extract_high _ _ (by decide), extract_high _ _ (by decide), extract_high _ _ (by decide), extract_high _ _ (by decide), extract_high _ _ (by decide), extract_high _ _ (by decide)]
  exact (extract_low _ _ (by decide)).trans (extract_all _)
@[simp] theorem f15_encVM (mo : BitVec 6) (vd ra rb : BitVec 5) (pg : BitVec 3) (adv : BitVec 1) (addr : BitVec 2) (sz : BitVec 3) (q : BitVec 2) :
    f15 (encVM mo vd ra rb pg adv addr sz q) = rb := by
  unfold f15 encVM
  rw [extract_high _ _ (by decide), extract_high _ _ (by decide), extract_high _ _ (by decide), extract_high _ _ (by decide), extract_high _ _ (by decide)]
  exact (extract_low _ _ (by decide)).trans (extract_all _)
@[simp] theorem pgOf_encVM (mo : BitVec 6) (vd ra rb : BitVec 5) (pg : BitVec 3) (adv : BitVec 1) (addr : BitVec 2) (sz : BitVec 3) (q : BitVec 2) :
    pgOf (encVM mo vd ra rb pg adv addr sz q) = pg := by
  unfold pgOf encVM
  rw [extract_high _ _ (by decide), extract_high _ _ (by decide), extract_high _ _ (by decide), extract_high _ _ (by decide)]
  exact (extract_low _ _ (by decide)).trans (extract_all _)
@[simp] theorem moOf_encS (mo : BitVec 6) (rd ra : BitVec 5) (sub : BitVec 6) (imm : BitVec 10) :
    moOf (encS mo rd ra sub imm) = mo := by
  unfold moOf encS
  rw [extract_high _ _ (by decide), extract_high _ _ (by decide), extract_high _ _ (by decide), extract_high _ _ (by decide)]
  exact extract_all _
@[simp] theorem f25_encS (mo : BitVec 6) (rd ra : BitVec 5) (sub : BitVec 6) (imm : BitVec 10) :
    f25 (encS mo rd ra sub imm) = rd := by
  unfold f25 encS
  rw [extract_high _ _ (by decide), extract_high _ _ (by decide), extract_high _ _ (by decide)]
  exact (extract_low _ _ (by decide)).trans (extract_all _)
@[simp] theorem f20_encS (mo : BitVec 6) (rd ra : BitVec 5) (sub : BitVec 6) (imm : BitVec 10) :
    f20 (encS mo rd ra sub imm) = ra := by
  unfold f20 encS
  rw [extract_high _ _ (by decide), extract_high _ _ (by decide)]
  exact (extract_low _ _ (by decide)).trans (extract_all _)
@[simp] theorem subOf_encS (mo : BitVec 6) (rd ra : BitVec 5) (sub : BitVec 6) (imm : BitVec 10) :
    subOf (encS mo rd ra sub imm) = sub := by
  unfold subOf encS
  rw [extract_high _ _ (by decide)]
  exact (extract_low _ _ (by decide)).trans (extract_all _)
@[simp] theorem imm10_encS (mo : BitVec 6) (rd ra : BitVec 5) (sub : BitVec 6) (imm : BitVec 10) :
    imm10 (encS mo rd ra sub imm) = imm := by
  unfold imm10 encS
  exact (extract_low _ _ (by decide)).trans (extract_all _)
@[simp] theorem moOf_encFpu (rd ra rb op : BitVec 5) (rm fmt : BitVec 3) :
    moOf (encFpu rd ra rb op rm fmt) = 0x18 := by unfold encFpu; exact moOf_encR ..
@[simp] theorem moOf_encFma (op : BitVec 2) (f : FFmt) (m : Rm) (rd ra rb rc : BitVec 5) :
    moOf (encFma op f m rd ra rb rc) = 0x19 := by unfold encFma; exact moOf_encQ ..
@[simp] theorem moOf_encAtom (op : BitVec 3) (z : Size) (o : MemOrder) (s : MemScope) (rd ra rb : BitVec 5) :
    moOf (encAtom op z o s rd ra rb) = 0x14 := by unfold encAtom; exact moOf_encR ..
@[simp] theorem moOf_encRed (op : BitVec 3) (arr : Bool) (t : Ty) (o : MemOrder) (s : MemScope) (ra rb : BitVec 5) :
    moOf (encRed op arr t o s ra rb) = 0x15 := by unfold encRed; exact moOf_encR ..
@[simp] theorem moOf_encVmem (mo : BitVec 6) (addr : BitVec 2) (z : ESize) (q : Fe) (adv : Bool) (pg : PReg) (vd ra rb : BitVec 5) :
    moOf (encVmem mo addr z q adv pg vd ra rb) = mo := by unfold encVmem; exact moOf_encVM ..
@[simp] theorem moOf_encVint (op : BitVec 5) (t : ITy) (pg : PReg) (vd va vb : BitVec 5) :
    moOf (encVint op t pg vd va vb) = 0x1C := by unfold encVint; exact moOf_encV ..
@[simp] theorem moOf_encVfp (op : BitVec 5) (f : FFmt) (pg : PReg) (vd va vb : BitVec 5) :
    moOf (encVfp op f pg vd va vb) = 0x1D := by unfold encVfp; exact moOf_encV ..
@[simp] theorem moOf_encVperm (op : BitVec 5) (z : ESize) (pg : PReg) (vd va vb : BitVec 5) :
    moOf (encVperm op z pg vd va vb) = 0x1F := by unfold encVperm; exact moOf_encV ..
@[simp] theorem moOf_encVcmp (op t : BitVec 4) (pg pd : PReg) (va vb : BitVec 5) :
    moOf (encVcmp op t pg pd va vb) = 0x20 := by unfold encVcmp; exact moOf_encV ..
@[simp] theorem moOf_encPlogic (op : BitVec 4) (pd pa pb : PReg) :
    moOf (encPlogic op pd pa pb) = 0x20 := by unfold encPlogic; exact moOf_encV ..
@[simp] theorem moOf_encPscan (op : BitVec 4) (t : Ty) (rd : SReg) (pa : PReg) :
    moOf (encPscan op t rd pa) = 0x20 := by unfold encPscan; exact moOf_encV ..
@[simp] theorem moOf_encVred (op : BitVec 4) (t : Ty) (pg : PReg) (vd va vb : BitVec 5) :
    moOf (encVred op t pg vd va vb) = 0x21 := by unfold encVred; exact moOf_encV ..
@[simp] theorem moOf_encVmove (op : BitVec 5) (sz : BitVec 3) (pg : PReg) (vd va vb : BitVec 5) :
    moOf (encVmove op sz pg vd va vb) = 0x24 := by unfold encVmove; exact moOf_encV ..
@[simp] theorem moOf_encDs (sub : BitVec 6) (rd : BitVec 5) (n : BitVec 4) (ra : BitVec 5) :
    moOf (encDs sub rd n ra) = 0x2C := by unfold encDs; exact moOf_encS ..
@[simp] theorem moOf_encCell (op : BitVec 3) (m : Bool) (o : MemOrder) (s : MemScope) (rd ra rb : BitVec 5) :
    moOf (encCell op m o s rd ra rb) = 0x2D := by unfold encCell; exact moOf_encR ..

end Sys2Proof.Laws
end

