-- ==== Sys2Proof/Laws/Memory.lean ====
section
/-! SUPPORT. The laws of memory: every operation keeps the canonical form, a write is read back, and it leaves every other
address alone. -/
namespace Sys2Proof.Laws
open Sys2Proof Sys2Proof.Machine

/-- A memory above a bound lies above every lower one. -/
theorem above_mono {m : Memory} {lo lo' : Nat} (h : lo' ≤ lo) (hm : Memory.above lo m = true) : Memory.above lo' m = true := by
  cases m with
  | nil => rfl
  | cons c t => obtain ⟨a, b⟩ := c; simp only [Memory.above, Bool.and_eq_true, decide_eq_true_eq] at hm ⊢; exact ⟨⟨by omega, hm.1.2⟩, hm.2⟩

/-- An address below the bound reads as unlisted. -/
theorem get_below {m : Memory} {lo k : Nat} (hm : Memory.above lo m = true) (h : k < lo) : m.get k = Memory.unlisted := by
  induction m generalizing lo with
  | nil => rfl
  | cons c t ih =>
    obtain ⟨a, b⟩ := c
    simp only [Memory.above, Bool.and_eq_true, decide_eq_true_eq] at hm
    rw [Memory.get, if_neg (by omega)]; exact ih hm.2 (by omega)

/-- Erasing keeps the form. -/
theorem above_erase {m : Memory} {lo : Nat} (k : Nat) (hm : Memory.above lo m = true) : Memory.above lo (m.erase k) = true := by
  induction m generalizing lo with
  | nil => rfl
  | cons c t ih =>
    obtain ⟨a, b⟩ := c
    have h := hm
    simp only [Memory.above, Bool.and_eq_true, decide_eq_true_eq] at h
    simp only [Memory.erase]
    split
    · exact hm
    · split
      · exact above_mono (by omega) h.2
      · simp only [Memory.above, Bool.and_eq_true, decide_eq_true_eq]; exact ⟨h.1, ih h.2⟩

/-- Listing a value that is not the unlisted one keeps the form. -/
theorem above_insert {m : Memory} {lo : Nat} {k : Nat} {v : Byte} (hk : lo ≤ k) (hv : v ≠ Memory.unlisted)
    (hm : Memory.above lo m = true) : Memory.above lo (m.insert k v) = true := by
  induction m generalizing lo with
  | nil => simp [Memory.insert, Memory.above, hk, hv]
  | cons c t ih =>
    obtain ⟨a, b⟩ := c
    have h := hm
    simp only [Memory.above, Bool.and_eq_true, decide_eq_true_eq] at h
    simp only [Memory.insert]
    split
    · simp only [Memory.above, Bool.and_eq_true, decide_eq_true_eq]; exact ⟨⟨hk, hv⟩, ⟨by omega, h.1.2⟩, h.2⟩
    · split
      · simp only [Memory.above, Bool.and_eq_true, decide_eq_true_eq]; exact ⟨⟨hk, hv⟩, above_mono (by omega) h.2⟩
      · simp only [Memory.above, Bool.and_eq_true, decide_eq_true_eq]; exact ⟨h.1, ih (by omega) h.2⟩

/-- Writing a byte keeps the form above a bound that the address respects. -/
theorem above_set {m : Memory} {lo k : Nat} (v : Byte) (hk : lo ≤ k) (hm : Memory.above lo m = true) :
    Memory.above lo (m.set k v) = true := by
  unfold Memory.set; split
  · exact above_erase k hm
  · exact above_insert hk ‹_› hm

/-- Writing a byte keeps the canonical form. -/
theorem wf_set {m : Memory} (k : Nat) (v : Byte) (hm : m.wf = true) : (m.set k v).wf = true := above_set v (Nat.zero_le k) hm

/-- Writing bytes keeps the canonical form. -/
theorem wf_write {m : Memory} (a : Nat) (bs : List Byte) (hm : m.wf = true) : (m.write a bs).wf = true := by
  induction bs generalizing m a with
  | nil => exact hm
  | cons b t ih => exact ih (a + 1) (wf_set a b hm)

/-- Leaving entries out keeps the form. -/
theorem above_filter {m : Memory} {lo : Nat} (p : Host.Cell → Bool) (hm : Memory.above lo m = true) :
    Memory.above lo (m.filter p) = true := by
  induction m generalizing lo with
  | nil => rfl
  | cons c t ih =>
    obtain ⟨a, b⟩ := c
    simp only [Memory.above, Bool.and_eq_true, decide_eq_true_eq] at hm
    rw [List.filter_cons]; split
    · simp only [Memory.above, Bool.and_eq_true, decide_eq_true_eq]; exact ⟨hm.1, ih hm.2⟩
    · exact above_mono (by omega) (ih hm.2)

/-- Zeroing a range keeps the canonical form. -/
theorem wf_zeroRange {m : Memory} (a n : Nat) (hm : m.wf = true) : (Memory.zeroRange m a n).wf = true := above_filter _ hm

/-- The empty memory, which reset leaves, has the form. -/
theorem wf_nil : Memory.wf [] = true := rfl

/-- Device memory after reset has the form. -/
theorem wf_reset : (State.reset.d.mem.hbm).wf = true := rfl

/-- An erased address reads as unlisted, and every other one as before. -/
theorem get_erase {m : Memory} {lo : Nat} (k j : Nat) (hm : Memory.above lo m = true) :
    (m.erase k).get j = if j = k then Memory.unlisted else m.get j := by
  induction m generalizing lo with
  | nil => simp [Memory.erase, Memory.get]
  | cons c t ih =>
    obtain ⟨a, b⟩ := c
    have h := hm
    simp only [Memory.above, Bool.and_eq_true, decide_eq_true_eq] at h
    simp only [Memory.erase]
    split
    · by_cases hj : j = k
      · subst hj; rw [if_pos rfl]; exact get_below (m := (a, b) :: t) (lo := a) (by simp [Memory.above, h.1.2, h.2]) ‹_›
      · rw [if_neg hj]
    · split
      · by_cases hj : j = k
        · subst hj; rw [if_pos rfl]; exact get_below h.2 (by omega)
        · have ha : ¬ a = j := by omega
          rw [if_neg hj, Memory.get, if_neg ha]
      · rw [Memory.get, Memory.get, ih h.2]
        by_cases hj : a = j
        · have hk : ¬ j = k := by omega
          rw [if_pos hj, if_neg hk, if_pos hj]
        · rw [if_neg hj, if_neg hj]

/-- A listed address reads as its value, and every other one as before. -/
theorem get_insert (m : Memory) (k j : Nat) (v : Byte) : (m.insert k v).get j = if j = k then v else m.get j := by
  induction m with
  | nil => simp only [Memory.insert, Memory.get]; split <;> split <;> first | rfl | omega
  | cons c t ih =>
    obtain ⟨a, b⟩ := c
    simp only [Memory.insert]
    by_cases hj : j = k
    · subst hj; rw [if_pos rfl]
      split
      · simp [Memory.get]
      · split
        · simp [Memory.get]
        · rw [Memory.get, if_neg ‹¬ a = j›, ih, if_pos rfl]
    · have hk : ¬ k = j := fun h => hj h.symm
      rw [if_neg hj]
      split
      · rw [Memory.get, if_neg hk]
      · split
        · have ha : ¬ a = j := by omega
          rw [Memory.get, if_neg hk, Memory.get, if_neg ha]
        · rw [Memory.get, Memory.get, ih, if_neg hj]

/-- Read after write: the written address reads as the byte, every other one as before. -/
theorem get_set {m : Memory} (k j : Nat) (v : Byte) (hm : m.wf = true) :
    (m.set k v).get j = if j = k then v else m.get j := by
  unfold Memory.set; split
  · rw [get_erase k j hm]; split
    · exact ‹v = _›.symm
    · rfl
  · exact get_insert m k j v

/-- A write of bytes leaves every address outside them alone. -/
theorem get_write_outside {m : Memory} (a j : Nat) (bs : List Byte) (hm : m.wf = true) (h : j < a ∨ a + bs.length ≤ j) :
    (m.write a bs).get j = m.get j := by
  induction bs generalizing m a with
  | nil => rfl
  | cons b t ih =>
    simp only [List.length_cons] at h
    rw [Memory.write, ih (a + 1) (wf_set a b hm) (by omega), get_set a j b hm, if_neg (by omega)]

/-- A write of bytes is read back byte by byte. -/
theorem get_write_inside {m : Memory} (a i : Nat) (bs : List Byte) (hm : m.wf = true) (h : i < bs.length) :
    (m.write a bs).get (a + i) = bs[i] := by
  induction bs generalizing m a i with
  | nil => simp at h
  | cons b t ih =>
    rw [Memory.write]
    cases i with
    | zero => rw [get_write_outside (a + 1) (a + 0) t (wf_set a b hm) (by omega), get_set a (a + 0) b hm, if_pos (by omega)]; rfl
    | succ n =>
      have := ih (m := m.set a b) (a + 1) n (wf_set a b hm) (by simpa using h)
      rw [show a + (n + 1) = a + 1 + n by omega, this]; rfl

/-- As many bytes are read as are asked for. -/
theorem length_read (m : Memory) (a n : Nat) : (Memory.read m a n).length = n := by
  induction n generalizing a with
  | zero => rfl
  | succ n ih => simp [Memory.read, ih]

/-- What was written is what is read. -/
theorem read_write {m : Memory} (a : Nat) (bs : List Byte) (hm : m.wf = true) :
    Memory.read (m.write a bs) a bs.length = bs := by
  have key : ∀ (n i : Nat), i + n = bs.length → Memory.read (m.write a bs) (a + i) n = bs.drop i := by
    intro n
    induction n with
    | zero => intro i hi; simp [Memory.read, List.drop_of_length_le (by omega : bs.length ≤ i)]
    | succ n ih =>
      intro i hi
      have hlt : i < bs.length := by omega
      rw [Memory.read, get_write_inside a i bs hm hlt, show a + i + 1 = a + (i + 1) by omega, ih (i + 1) (by omega)]
      exact (List.drop_eq_getElem_cons hlt).symm
  simpa using key bs.length 0 (by omega)

end Sys2Proof.Laws
end

