-- ==== Sys2Proof/Laws/PerInstr.lean ====
section
/-! SUPPORT. Statements made per instruction. AssignedOpcode: no word that the encoder builds has an illegal or a reserved
major opcode (R37, R39). -/
namespace Sys2Proof.Laws
open Sys2Proof

/-- The major opcode of every word of the instruction is an assigned one, 0x01 to 0x30 (R37). -/
def AssignedOpcode.Statement (i : Instr) : Prop :=
  ∀ w, encode i = some w → 1 ≤ (moOf w).toNat ∧ (moOf w).toNat ≤ 0x30

/-- An instruction with a word has the statement when its word does. -/
theorem assigned_of_word {i : Instr} (v : Word32) (h : encode i = some v) (hv : 1 ≤ (moOf v).toNat ∧ (moOf v).toNat ≤ 0x30) :
    AssignedOpcode.Statement i := by
  intro w hw; rw [h] at hw; cases hw; exact hv

/-- A row without an encoding has the statement. -/
theorem assigned_of_none {i : Instr} (h : encode i = none) : AssignedOpcode.Statement i := by
  intro w hw; rw [h] at hw; cases hw

theorem AssignedOpcode.illop (word : Word32) (reason : BitVec 4) : AssignedOpcode.Statement (.illop word reason) := assigned_of_none rfl
theorem AssignedOpcode.add (rd ra rb : SReg) : AssignedOpcode.Statement (.add rd ra rb) :=
  assigned_of_word _ rfl (by rw [moOf_encR]; decide)
theorem AssignedOpcode.sub (rd ra rb : SReg) : AssignedOpcode.Statement (.sub rd ra rb) :=
  assigned_of_word _ rfl (by rw [moOf_encR]; decide)
theorem AssignedOpcode.and (rd ra rb : SReg) : AssignedOpcode.Statement (.and rd ra rb) :=
  assigned_of_word _ rfl (by rw [moOf_encR]; decide)
theorem AssignedOpcode.or (rd ra rb : SReg) : AssignedOpcode.Statement (.or rd ra rb) :=
  assigned_of_word _ rfl (by rw [moOf_encR]; decide)
theorem AssignedOpcode.xor (rd ra rb : SReg) : AssignedOpcode.Statement (.xor rd ra rb) :=
  assigned_of_word _ rfl (by rw [moOf_encR]; decide)
theorem AssignedOpcode.andn (rd ra rb : SReg) : AssignedOpcode.Statement (.andn rd ra rb) :=
  assigned_of_word _ rfl (by rw [moOf_encR]; decide)
theorem AssignedOpcode.orn (rd ra rb : SReg) : AssignedOpcode.Statement (.orn rd ra rb) :=
  assigned_of_word _ rfl (by rw [moOf_encR]; decide)
theorem AssignedOpcode.xnor (rd ra rb : SReg) : AssignedOpcode.Statement (.xnor rd ra rb) :=
  assigned_of_word _ rfl (by rw [moOf_encR]; decide)
theorem AssignedOpcode.sll (rd ra rb : SReg) : AssignedOpcode.Statement (.sll rd ra rb) :=
  assigned_of_word _ rfl (by rw [moOf_encR]; decide)
theorem AssignedOpcode.srl (rd ra rb : SReg) : AssignedOpcode.Statement (.srl rd ra rb) :=
  assigned_of_word _ rfl (by rw [moOf_encR]; decide)
theorem AssignedOpcode.sra (rd ra rb : SReg) : AssignedOpcode.Statement (.sra rd ra rb) :=
  assigned_of_word _ rfl (by rw [moOf_encR]; decide)
theorem AssignedOpcode.ror (rd ra rb : SReg) : AssignedOpcode.Statement (.ror rd ra rb) :=
  assigned_of_word _ rfl (by rw [moOf_encR]; decide)
theorem AssignedOpcode.slt (rd ra rb : SReg) : AssignedOpcode.Statement (.slt rd ra rb) :=
  assigned_of_word _ rfl (by rw [moOf_encR]; decide)
theorem AssignedOpcode.sltn (rd ra rb : SReg) : AssignedOpcode.Statement (.sltn rd ra rb) :=
  assigned_of_word _ rfl (by rw [moOf_encR]; decide)
theorem AssignedOpcode.min (rd ra rb : SReg) : AssignedOpcode.Statement (.min rd ra rb) :=
  assigned_of_word _ rfl (by rw [moOf_encR]; decide)
theorem AssignedOpcode.max (rd ra rb : SReg) : AssignedOpcode.Statement (.max rd ra rb) :=
  assigned_of_word _ rfl (by rw [moOf_encR]; decide)
theorem AssignedOpcode.minn (rd ra rb : SReg) : AssignedOpcode.Statement (.minn rd ra rb) :=
  assigned_of_word _ rfl (by rw [moOf_encR]; decide)
theorem AssignedOpcode.maxn (rd ra rb : SReg) : AssignedOpcode.Statement (.maxn rd ra rb) :=
  assigned_of_word _ rfl (by rw [moOf_encR]; decide)
theorem AssignedOpcode.mul (rd ra rb : SReg) : AssignedOpcode.Statement (.mul rd ra rb) :=
  assigned_of_word _ rfl (by rw [moOf_encR]; decide)
theorem AssignedOpcode.mulh (rd ra rb : SReg) : AssignedOpcode.Statement (.mulh rd ra rb) :=
  assigned_of_word _ rfl (by rw [moOf_encR]; decide)
theorem AssignedOpcode.mulhn (rd ra rb : SReg) : AssignedOpcode.Statement (.mulhn rd ra rb) :=
  assigned_of_word _ rfl (by rw [moOf_encR]; decide)
theorem AssignedOpcode.div (rd ra rb : SReg) : AssignedOpcode.Statement (.div rd ra rb) :=
  assigned_of_word _ rfl (by rw [moOf_encR]; decide)
theorem AssignedOpcode.divn (rd ra rb : SReg) : AssignedOpcode.Statement (.divn rd ra rb) :=
  assigned_of_word _ rfl (by rw [moOf_encR]; decide)
theorem AssignedOpcode.rem (rd ra rb : SReg) : AssignedOpcode.Statement (.rem rd ra rb) :=
  assigned_of_word _ rfl (by rw [moOf_encR]; decide)
theorem AssignedOpcode.remn (rd ra rb : SReg) : AssignedOpcode.Statement (.remn rd ra rb) :=
  assigned_of_word _ rfl (by rw [moOf_encR]; decide)
theorem AssignedOpcode.clz (rd ra : SReg) : AssignedOpcode.Statement (.clz rd ra) :=
  assigned_of_word _ rfl (by rw [moOf_encR]; decide)
theorem AssignedOpcode.ctz (rd ra : SReg) : AssignedOpcode.Statement (.ctz rd ra) :=
  assigned_of_word _ rfl (by rw [moOf_encR]; decide)
theorem AssignedOpcode.popc (rd ra : SReg) : AssignedOpcode.Statement (.popc rd ra) :=
  assigned_of_word _ rfl (by rw [moOf_encR]; decide)
theorem AssignedOpcode.bswap (rd ra : SReg) : AssignedOpcode.Statement (.bswap rd ra) :=
  assigned_of_word _ rfl (by rw [moOf_encR]; decide)
theorem AssignedOpcode.addw (rd ra rb : SReg) : AssignedOpcode.Statement (.addw rd ra rb) :=
  assigned_of_word _ rfl (by rw [moOf_encR]; decide)
theorem AssignedOpcode.subw (rd ra rb : SReg) : AssignedOpcode.Statement (.subw rd ra rb) :=
  assigned_of_word _ rfl (by rw [moOf_encR]; decide)
theorem AssignedOpcode.sllw (rd ra rb : SReg) : AssignedOpcode.Statement (.sllw rd ra rb) :=
  assigned_of_word _ rfl (by rw [moOf_encR]; decide)
theorem AssignedOpcode.srlw (rd ra rb : SReg) : AssignedOpcode.Statement (.srlw rd ra rb) :=
  assigned_of_word _ rfl (by rw [moOf_encR]; decide)
theorem AssignedOpcode.sraw (rd ra rb : SReg) : AssignedOpcode.Statement (.sraw rd ra rb) :=
  assigned_of_word _ rfl (by rw [moOf_encR]; decide)
theorem AssignedOpcode.mulw (rd ra rb : SReg) : AssignedOpcode.Statement (.mulw rd ra rb) :=
  assigned_of_word _ rfl (by rw [moOf_encR]; decide)
theorem AssignedOpcode.adds (rd ra rb : SReg) : AssignedOpcode.Statement (.adds rd ra rb) :=
  assigned_of_word _ rfl (by rw [moOf_encR]; decide)
theorem AssignedOpcode.subs (rd ra rb : SReg) : AssignedOpcode.Statement (.subs rd ra rb) :=
  assigned_of_word _ rfl (by rw [moOf_encR]; decide)
theorem AssignedOpcode.addi (rd ra : SReg) (imm : BitVec 16) : AssignedOpcode.Statement (.addi rd ra imm) :=
  assigned_of_word _ rfl (by rw [moOf_encI]; decide)
theorem AssignedOpcode.andi (rd ra : SReg) (imm : BitVec 16) : AssignedOpcode.Statement (.andi rd ra imm) :=
  assigned_of_word _ rfl (by rw [moOf_encI]; decide)
theorem AssignedOpcode.ori (rd ra : SReg) (imm : BitVec 16) : AssignedOpcode.Statement (.ori rd ra imm) :=
  assigned_of_word _ rfl (by rw [moOf_encI]; decide)
theorem AssignedOpcode.xori (rd ra : SReg) (imm : BitVec 16) : AssignedOpcode.Statement (.xori rd ra imm) :=
  assigned_of_word _ rfl (by rw [moOf_encI]; decide)
theorem AssignedOpcode.slti (rd ra : SReg) (imm : BitVec 16) : AssignedOpcode.Statement (.slti rd ra imm) :=
  assigned_of_word _ rfl (by rw [moOf_encI]; decide)
theorem AssignedOpcode.sltin (rd ra : SReg) (imm : BitVec 16) : AssignedOpcode.Statement (.sltin rd ra imm) :=
  assigned_of_word _ rfl (by rw [moOf_encI]; decide)
theorem AssignedOpcode.slli (rd ra : SReg) (n : BitVec 6) : AssignedOpcode.Statement (.slli rd ra n) :=
  assigned_of_word _ rfl (by rw [moOf_encS]; decide)
theorem AssignedOpcode.srli (rd ra : SReg) (n : BitVec 6) : AssignedOpcode.Statement (.srli rd ra n) :=
  assigned_of_word _ rfl (by rw [moOf_encS]; decide)
theorem AssignedOpcode.srai (rd ra : SReg) (n : BitVec 6) : AssignedOpcode.Statement (.srai rd ra n) :=
  assigned_of_word _ rfl (by rw [moOf_encS]; decide)
theorem AssignedOpcode.rori (rd ra : SReg) (n : BitVec 6) : AssignedOpcode.Statement (.rori rd ra n) :=
  assigned_of_word _ rfl (by rw [moOf_encS]; decide)
theorem AssignedOpcode.slliw (rd ra : SReg) (n : BitVec 5) : AssignedOpcode.Statement (.slliw rd ra n) :=
  assigned_of_word _ rfl (by rw [moOf_encS]; decide)
theorem AssignedOpcode.srliw (rd ra : SReg) (n : BitVec 5) : AssignedOpcode.Statement (.srliw rd ra n) :=
  assigned_of_word _ rfl (by rw [moOf_encS]; decide)
theorem AssignedOpcode.sraiw (rd ra : SReg) (n : BitVec 5) : AssignedOpcode.Statement (.sraiw rd ra n) :=
  assigned_of_word _ rfl (by rw [moOf_encS]; decide)
theorem AssignedOpcode.hwz (rd : SReg) (k : BitVec 2) (imm : BitVec 16) : AssignedOpcode.Statement (.hwz rd k imm) :=
  assigned_of_word _ rfl (by rw [moOf_encI]; decide)
theorem AssignedOpcode.hwi (rd : SReg) (k : BitVec 2) (imm : BitVec 16) : AssignedOpcode.Statement (.hwi rd k imm) :=
  assigned_of_word _ rfl (by rw [moOf_encI]; decide)
theorem AssignedOpcode.hws (rd : SReg) (k : BitVec 2) (imm : BitVec 16) : AssignedOpcode.Statement (.hws rd k imm) :=
  assigned_of_word _ rfl (by rw [moOf_encI]; decide)
theorem AssignedOpcode.adpc (rd : SReg) (imm : BitVec 16) : AssignedOpcode.Statement (.adpc rd imm) :=
  assigned_of_word _ rfl (by rw [moOf_encI]; decide)
theorem AssignedOpcode.adpch (rd : SReg) (imm : BitVec 16) : AssignedOpcode.Statement (.adpch rd imm) :=
  assigned_of_word _ rfl (by rw [moOf_encI]; decide)
theorem AssignedOpcode.beq (ra rb : SReg) (off : BitVec 13) : AssignedOpcode.Statement (.beq ra rb off) :=
  assigned_of_word _ rfl (by rw [moOf_encM]; decide)
theorem AssignedOpcode.bne (ra rb : SReg) (off : BitVec 13) : AssignedOpcode.Statement (.bne ra rb off) :=
  assigned_of_word _ rfl (by rw [moOf_encM]; decide)
theorem AssignedOpcode.blt (ra rb : SReg) (off : BitVec 13) : AssignedOpcode.Statement (.blt ra rb off) :=
  assigned_of_word _ rfl (by rw [moOf_encM]; decide)
theorem AssignedOpcode.bge (ra rb : SReg) (off : BitVec 13) : AssignedOpcode.Statement (.bge ra rb off) :=
  assigned_of_word _ rfl (by rw [moOf_encM]; decide)
theorem AssignedOpcode.bltn (ra rb : SReg) (off : BitVec 13) : AssignedOpcode.Statement (.bltn ra rb off) :=
  assigned_of_word _ rfl (by rw [moOf_encM]; decide)
theorem AssignedOpcode.bgen (ra rb : SReg) (off : BitVec 13) : AssignedOpcode.Statement (.bgen ra rb off) :=
  assigned_of_word _ rfl (by rw [moOf_encM]; decide)
theorem AssignedOpcode.bany (ra rb : SReg) (off : BitVec 13) : AssignedOpcode.Statement (.bany ra rb off) :=
  assigned_of_word _ rfl (by rw [moOf_encM]; decide)
theorem AssignedOpcode.bnone (ra rb : SReg) (off : BitVec 13) : AssignedOpcode.Statement (.bnone ra rb off) :=
  assigned_of_word _ rfl (by rw [moOf_encM]; decide)
theorem AssignedOpcode.loop (ra : SReg) (off : BitVec 13) : AssignedOpcode.Statement (.loop ra off) :=
  assigned_of_word _ rfl (by rw [moOf_encM]; decide)
theorem AssignedOpcode.loopn (ra rb : SReg) (off : BitVec 13) : AssignedOpcode.Statement (.loopn ra rb off) :=
  assigned_of_word _ rfl (by rw [moOf_encM]; decide)
theorem AssignedOpcode.loopd (ra rb : SReg) (off : BitVec 13) : AssignedOpcode.Statement (.loopd ra rb off) :=
  assigned_of_word _ rfl (by rw [moOf_encM]; decide)
theorem AssignedOpcode.jmp (off : BitVec 26) : AssignedOpcode.Statement (.jmp off) :=
  assigned_of_word _ rfl (by rw [moOf_encJ]; decide)
theorem AssignedOpcode.call (off : BitVec 26) : AssignedOpcode.Statement (.call off) :=
  assigned_of_word _ rfl (by rw [moOf_encJ]; decide)
theorem AssignedOpcode.jreg (rd ra : SReg) : AssignedOpcode.Statement (.jreg rd ra) :=
  assigned_of_word _ rfl (by rw [moOf_encR]; decide)
theorem AssignedOpcode.fadd (fmt : FFmt) (rm : Rm) (rd ra rb : SReg) : AssignedOpcode.Statement (.fadd fmt rm rd ra rb) :=
  assigned_of_word _ rfl (by rw [moOf_encFpu]; decide)
theorem AssignedOpcode.fsub (fmt : FFmt) (rm : Rm) (rd ra rb : SReg) : AssignedOpcode.Statement (.fsub fmt rm rd ra rb) :=
  assigned_of_word _ rfl (by rw [moOf_encFpu]; decide)
theorem AssignedOpcode.fmul (fmt : FFmt) (rm : Rm) (rd ra rb : SReg) : AssignedOpcode.Statement (.fmul fmt rm rd ra rb) :=
  assigned_of_word _ rfl (by rw [moOf_encFpu]; decide)
theorem AssignedOpcode.fdiv (fmt : FFmt) (rm : Rm) (rd ra rb : SReg) : AssignedOpcode.Statement (.fdiv fmt rm rd ra rb) :=
  assigned_of_word _ rfl (by rw [moOf_encFpu]; decide)
theorem AssignedOpcode.fsqrt (fmt : FFmt) (rm : Rm) (rd ra : SReg) : AssignedOpcode.Statement (.fsqrt fmt rm rd ra) :=
  assigned_of_word _ rfl (by rw [moOf_encFpu]; decide)
theorem AssignedOpcode.fmin (fmt : FFmt) (rd ra rb : SReg) : AssignedOpcode.Statement (.fmin fmt rd ra rb) :=
  assigned_of_word _ rfl (by rw [moOf_encFpu]; decide)
theorem AssignedOpcode.fmax (fmt : FFmt) (rd ra rb : SReg) : AssignedOpcode.Statement (.fmax fmt rd ra rb) :=
  assigned_of_word _ rfl (by rw [moOf_encFpu]; decide)
theorem AssignedOpcode.fcopysg (fmt : FFmt) (rd ra rb : SReg) : AssignedOpcode.Statement (.fcopysg fmt rd ra rb) :=
  assigned_of_word _ rfl (by rw [moOf_encFpu]; decide)
theorem AssignedOpcode.fneg (fmt : FFmt) (rd ra : SReg) : AssignedOpcode.Statement (.fneg fmt rd ra) :=
  assigned_of_word _ rfl (by rw [moOf_encFpu]; decide)
theorem AssignedOpcode.fabs (fmt : FFmt) (rd ra : SReg) : AssignedOpcode.Statement (.fabs fmt rd ra) :=
  assigned_of_word _ rfl (by rw [moOf_encFpu]; decide)
theorem AssignedOpcode.feq (fmt : FFmt) (rd ra rb : SReg) : AssignedOpcode.Statement (.feq fmt rd ra rb) :=
  assigned_of_word _ rfl (by rw [moOf_encFpu]; decide)
theorem AssignedOpcode.flt (fmt : FFmt) (rd ra rb : SReg) : AssignedOpcode.Statement (.flt fmt rd ra rb) :=
  assigned_of_word _ rfl (by rw [moOf_encFpu]; decide)
theorem AssignedOpcode.fle (fmt : FFmt) (rd ra rb : SReg) : AssignedOpcode.Statement (.fle fmt rd ra rb) :=
  assigned_of_word _ rfl (by rw [moOf_encFpu]; decide)
theorem AssignedOpcode.fkind (fmt : FFmt) (rd ra : SReg) : AssignedOpcode.Statement (.fkind fmt rd ra) :=
  assigned_of_word _ rfl (by rw [moOf_encFpu]; decide)
theorem AssignedOpcode.fcvt (fmt src : FFmt) (rm : Rm) (rd ra : SReg) : AssignedOpcode.Statement (.fcvt fmt src rm rd ra) :=
  assigned_of_word _ rfl (by rw [moOf_encFpu]; decide)
theorem AssignedOpcode.fcvti (fmt : FFmt) (unsigned : Bool) (rm : Rm) (rd ra : SReg) : AssignedOpcode.Statement (.fcvti fmt unsigned rm rd ra) :=
  assigned_of_word _ rfl (by rw [moOf_encFpu]; decide)
theorem AssignedOpcode.fcvtf (fmt : FFmt) (unsigned : Bool) (rm : Rm) (rd ra : SReg) : AssignedOpcode.Statement (.fcvtf fmt unsigned rm rd ra) :=
  assigned_of_word _ rfl (by rw [moOf_encFpu]; decide)
theorem AssignedOpcode.fmadd (fmt : FFmt) (rm : Rm) (rd ra rb rc : SReg) : AssignedOpcode.Statement (.fmadd fmt rm rd ra rb rc) :=
  assigned_of_word _ rfl (by rw [moOf_encFma]; decide)
theorem AssignedOpcode.fmsub (fmt : FFmt) (rm : Rm) (rd ra rb rc : SReg) : AssignedOpcode.Statement (.fmsub fmt rm rd ra rb rc) :=
  assigned_of_word _ rfl (by rw [moOf_encFma]; decide)
theorem AssignedOpcode.fnmadd (fmt : FFmt) (rm : Rm) (rd ra rb rc : SReg) : AssignedOpcode.Statement (.fnmadd fmt rm rd ra rb rc) :=
  assigned_of_word _ rfl (by rw [moOf_encFma]; decide)
theorem AssignedOpcode.fnmsub (fmt : FFmt) (rm : Rm) (rd ra rb rc : SReg) : AssignedOpcode.Statement (.fnmsub fmt rm rd ra rb rc) :=
  assigned_of_word _ rfl (by rw [moOf_encFma]; decide)
theorem AssignedOpcode.nop  : AssignedOpcode.Statement (.nop) :=
  assigned_of_word _ rfl (by rw [moOf_encS]; decide)
theorem AssignedOpcode.trap (code : BitVec 10) : AssignedOpcode.Statement (.trap code) :=
  assigned_of_word _ rfl (by rw [moOf_encS]; decide)
theorem AssignedOpcode.brk (code : BitVec 10) : AssignedOpcode.Statement (.brk code) :=
  assigned_of_word _ rfl (by rw [moOf_encS]; decide)
theorem AssignedOpcode.eret  : AssignedOpcode.Statement (.eret) :=
  assigned_of_word _ rfl (by rw [moOf_encS]; decide)
theorem AssignedOpcode.crd (rd : SReg) (creg : CReg) : AssignedOpcode.Statement (.crd rd creg) :=
  assigned_of_word _ rfl (by rw [moOf_encS]; decide)
theorem AssignedOpcode.crdFflags (rd : SReg) : AssignedOpcode.Statement (.crdFflags rd) :=
  assigned_of_word _ rfl (by rw [moOf_encS]; decide)
theorem AssignedOpcode.cwr (creg : CReg) (ra : SReg) : AssignedOpcode.Statement (.cwr creg ra) :=
  assigned_of_word _ rfl (by rw [moOf_encS]; decide)
theorem AssignedOpcode.cwrStatus (ra : SReg) : AssignedOpcode.Statement (.cwrStatus ra) :=
  assigned_of_word _ rfl (by rw [moOf_encS]; decide)
theorem AssignedOpcode.cwrFflags (ra : SReg) : AssignedOpcode.Statement (.cwrFflags ra) :=
  assigned_of_word _ rfl (by rw [moOf_encS]; decide)
theorem AssignedOpcode.halt  : AssignedOpcode.Statement (.halt) :=
  assigned_of_word _ rfl (by rw [moOf_encS]; decide)
theorem AssignedOpcode.ld (kind : LdKind) (rd ra : SReg) (off : BitVec 13) : AssignedOpcode.Statement (.ld kind rd ra off) :=
  assigned_of_word _ rfl (by rw [moOf_encM]; decide)
theorem AssignedOpcode.st (size : Size) (rs ra : SReg) (off : BitVec 13) : AssignedOpcode.Statement (.st size rs ra off) :=
  assigned_of_word _ rfl (by rw [moOf_encM]; decide)
theorem AssignedOpcode.ldx (size : Size) (signed : Bool) (fq : Fe) (ord : MemOrder) (scope : MemScope) (rd ra rb : SReg) : AssignedOpcode.Statement (.ldx size signed fq ord scope rd ra rb) :=
  assigned_of_word _ rfl (by rw [moOf_encR]; decide)
theorem AssignedOpcode.stx (size : Size) (fq : Fe) (ord : MemOrder) (scope : MemScope) (rs ra rb : SReg) : AssignedOpcode.Statement (.stx size fq ord scope rs ra rb) :=
  assigned_of_word _ rfl (by rw [moOf_encR]; decide)
theorem AssignedOpcode.atomSwp (size : Size) (ord : MemOrder) (scope : MemScope) (rd ra rb : SReg) : AssignedOpcode.Statement (.atomSwp size ord scope rd ra rb) :=
  assigned_of_word _ rfl (by rw [moOf_encAtom]; decide)
theorem AssignedOpcode.atomCas (size : Size) (ord : MemOrder) (scope : MemScope) (rd ra rb : SReg) : AssignedOpcode.Statement (.atomCas size ord scope rd ra rb) :=
  assigned_of_word _ rfl (by rw [moOf_encAtom]; decide)
theorem AssignedOpcode.atomAdd (size : Size) (ord : MemOrder) (scope : MemScope) (rd ra rb : SReg) : AssignedOpcode.Statement (.atomAdd size ord scope rd ra rb) :=
  assigned_of_word _ rfl (by rw [moOf_encAtom]; decide)
theorem AssignedOpcode.atomAnd (size : Size) (ord : MemOrder) (scope : MemScope) (rd ra rb : SReg) : AssignedOpcode.Statement (.atomAnd size ord scope rd ra rb) :=
  assigned_of_word _ rfl (by rw [moOf_encAtom]; decide)
theorem AssignedOpcode.atomOr (size : Size) (ord : MemOrder) (scope : MemScope) (rd ra rb : SReg) : AssignedOpcode.Statement (.atomOr size ord scope rd ra rb) :=
  assigned_of_word _ rfl (by rw [moOf_encAtom]; decide)
theorem AssignedOpcode.atomXor (size : Size) (ord : MemOrder) (scope : MemScope) (rd ra rb : SReg) : AssignedOpcode.Statement (.atomXor size ord scope rd ra rb) :=
  assigned_of_word _ rfl (by rw [moOf_encAtom]; decide)
theorem AssignedOpcode.atomMax (size : Size) (ord : MemOrder) (scope : MemScope) (rd ra rb : SReg) : AssignedOpcode.Statement (.atomMax size ord scope rd ra rb) :=
  assigned_of_word _ rfl (by rw [moOf_encAtom]; decide)
theorem AssignedOpcode.atomMin (size : Size) (ord : MemOrder) (scope : MemScope) (rd ra rb : SReg) : AssignedOpcode.Statement (.atomMin size ord scope rd ra rb) :=
  assigned_of_word _ rfl (by rw [moOf_encAtom]; decide)
theorem AssignedOpcode.redAdd (arr : Bool) (ty : Ty) (ord : MemOrder) (scope : MemScope) (ra rb : SReg) : AssignedOpcode.Statement (.redAdd arr ty ord scope ra rb) :=
  assigned_of_word _ rfl (by rw [moOf_encRed]; decide)
theorem AssignedOpcode.redAnd (arr : Bool) (ty : Ty) (ord : MemOrder) (scope : MemScope) (ra rb : SReg) : AssignedOpcode.Statement (.redAnd arr ty ord scope ra rb) :=
  assigned_of_word _ rfl (by rw [moOf_encRed]; decide)
theorem AssignedOpcode.redOr (arr : Bool) (ty : Ty) (ord : MemOrder) (scope : MemScope) (ra rb : SReg) : AssignedOpcode.Statement (.redOr arr ty ord scope ra rb) :=
  assigned_of_word _ rfl (by rw [moOf_encRed]; decide)
theorem AssignedOpcode.redXor (arr : Bool) (ty : Ty) (ord : MemOrder) (scope : MemScope) (ra rb : SReg) : AssignedOpcode.Statement (.redXor arr ty ord scope ra rb) :=
  assigned_of_word _ rfl (by rw [moOf_encRed]; decide)
theorem AssignedOpcode.redMin (arr : Bool) (ty : Ty) (ord : MemOrder) (scope : MemScope) (ra rb : SReg) : AssignedOpcode.Statement (.redMin arr ty ord scope ra rb) :=
  assigned_of_word _ rfl (by rw [moOf_encRed]; decide)
theorem AssignedOpcode.redMax (arr : Bool) (ty : Ty) (ord : MemOrder) (scope : MemScope) (ra rb : SReg) : AssignedOpcode.Statement (.redMax arr ty ord scope ra rb) :=
  assigned_of_word _ rfl (by rw [moOf_encRed]; decide)
theorem AssignedOpcode.alrb (ord : MemOrder) (scope : MemScope) (ra : SReg) : AssignedOpcode.Statement (.alrb ord scope ra) :=
  assigned_of_word _ rfl (by rw [moOf_encS]; decide)
theorem AssignedOpcode.fence (ord : MemOrder) (scope : MemScope) : AssignedOpcode.Statement (.fence ord scope) :=
  assigned_of_word _ rfl (by rw [moOf_encS]; decide)
theorem AssignedOpcode.seal (rl ra : SReg) : AssignedOpcode.Statement (.seal rl ra) :=
  assigned_of_word _ rfl (by rw [moOf_encS]; decide)
theorem AssignedOpcode.unseal (rl ra : SReg) : AssignedOpcode.Statement (.unseal rl ra) :=
  assigned_of_word _ rfl (by rw [moOf_encS]; decide)
theorem AssignedOpcode.xinv (ro ra : SReg) : AssignedOpcode.Statement (.xinv ro ra) :=
  assigned_of_word _ rfl (by rw [moOf_encS]; decide)
theorem AssignedOpcode.xinva (ro : SReg) : AssignedOpcode.Statement (.xinva ro) :=
  assigned_of_word _ rfl (by rw [moOf_encS]; decide)
theorem AssignedOpcode.rinv (ra : SReg) : AssignedOpcode.Statement (.rinv ra) :=
  assigned_of_word _ rfl (by rw [moOf_encS]; decide)
theorem AssignedOpcode.cpref (ra : SReg) : AssignedOpcode.Statement (.cpref ra) :=
  assigned_of_word _ rfl (by rw [moOf_encS]; decide)
theorem AssignedOpcode.orph (abandon : Bool) (rd ra : SReg) : AssignedOpcode.Statement (.orph abandon rd ra) :=
  assigned_of_word _ rfl (by rw [moOf_encS]; decide)
theorem AssignedOpcode.vld (size : ESize) (fq : Fe) (adv : Bool) (pg : PReg) (vd : VReg) (ra : SReg) (rb : BitVec 5) : AssignedOpcode.Statement (.vld size fq adv pg vd ra rb) :=
  assigned_of_word _ rfl (by rw [moOf_encVmem]; decide)
theorem AssignedOpcode.vlds (size : ESize) (fq : Fe) (adv : Bool) (pg : PReg) (vd : VReg) (ra : SReg) (rb : BitVec 5) : AssignedOpcode.Statement (.vlds size fq adv pg vd ra rb) :=
  assigned_of_word _ rfl (by rw [moOf_encVmem]; decide)
theorem AssignedOpcode.vldx (size : ESize) (fq : Fe) (adv : Bool) (pg : PReg) (vd : VReg) (ra : SReg) (rb : BitVec 5) : AssignedOpcode.Statement (.vldx size fq adv pg vd ra rb) :=
  assigned_of_word _ rfl (by rw [moOf_encVmem]; decide)
theorem AssignedOpcode.vldr (size : ESize) (fq : Fe) (adv : Bool) (pg : PReg) (vd : VReg) (ra : SReg) (rb : BitVec 5) : AssignedOpcode.Statement (.vldr size fq adv pg vd ra rb) :=
  assigned_of_word _ rfl (by rw [moOf_encVmem]; decide)
theorem AssignedOpcode.vst (size : ESize) (fq : Fe) (adv : Bool) (pg : PReg) (vs : VReg) (ra : SReg) (rb : BitVec 5) : AssignedOpcode.Statement (.vst size fq adv pg vs ra rb) :=
  assigned_of_word _ rfl (by rw [moOf_encVmem]; decide)
theorem AssignedOpcode.vsts (size : ESize) (fq : Fe) (adv : Bool) (pg : PReg) (vs : VReg) (ra : SReg) (rb : BitVec 5) : AssignedOpcode.Statement (.vsts size fq adv pg vs ra rb) :=
  assigned_of_word _ rfl (by rw [moOf_encVmem]; decide)
theorem AssignedOpcode.vstx (size : ESize) (fq : Fe) (adv : Bool) (pg : PReg) (vs : VReg) (ra : SReg) (rb : BitVec 5) : AssignedOpcode.Statement (.vstx size fq adv pg vs ra rb) :=
  assigned_of_word _ rfl (by rw [moOf_encVmem]; decide)
theorem AssignedOpcode.vadd (ty : ITy) (pg : PReg) (vd va vb : VReg) : AssignedOpcode.Statement (.vadd ty pg vd va vb) :=
  assigned_of_word _ rfl (by rw [moOf_encVint]; decide)
theorem AssignedOpcode.vsub (ty : ITy) (pg : PReg) (vd va vb : VReg) : AssignedOpcode.Statement (.vsub ty pg vd va vb) :=
  assigned_of_word _ rfl (by rw [moOf_encVint]; decide)
theorem AssignedOpcode.vmul (ty : ITy) (pg : PReg) (vd va vb : VReg) : AssignedOpcode.Statement (.vmul ty pg vd va vb) :=
  assigned_of_word _ rfl (by rw [moOf_encVint]; decide)
theorem AssignedOpcode.vmulh (ty : ITy) (pg : PReg) (vd va vb : VReg) : AssignedOpcode.Statement (.vmulh ty pg vd va vb) :=
  assigned_of_word _ rfl (by rw [moOf_encVint]; decide)
theorem AssignedOpcode.vmin (ty : ITy) (pg : PReg) (vd va vb : VReg) : AssignedOpcode.Statement (.vmin ty pg vd va vb) :=
  assigned_of_word _ rfl (by rw [moOf_encVint]; decide)
theorem AssignedOpcode.vmax (ty : ITy) (pg : PReg) (vd va vb : VReg) : AssignedOpcode.Statement (.vmax ty pg vd va vb) :=
  assigned_of_word _ rfl (by rw [moOf_encVint]; decide)
theorem AssignedOpcode.vand (ty : ITy) (pg : PReg) (vd va vb : VReg) : AssignedOpcode.Statement (.vand ty pg vd va vb) :=
  assigned_of_word _ rfl (by rw [moOf_encVint]; decide)
theorem AssignedOpcode.vor (ty : ITy) (pg : PReg) (vd va vb : VReg) : AssignedOpcode.Statement (.vor ty pg vd va vb) :=
  assigned_of_word _ rfl (by rw [moOf_encVint]; decide)
theorem AssignedOpcode.vxor (ty : ITy) (pg : PReg) (vd va vb : VReg) : AssignedOpcode.Statement (.vxor ty pg vd va vb) :=
  assigned_of_word _ rfl (by rw [moOf_encVint]; decide)
theorem AssignedOpcode.vandn (ty : ITy) (pg : PReg) (vd va vb : VReg) : AssignedOpcode.Statement (.vandn ty pg vd va vb) :=
  assigned_of_word _ rfl (by rw [moOf_encVint]; decide)
theorem AssignedOpcode.vsll (ty : ITy) (pg : PReg) (vd va vb : VReg) : AssignedOpcode.Statement (.vsll ty pg vd va vb) :=
  assigned_of_word _ rfl (by rw [moOf_encVint]; decide)
theorem AssignedOpcode.vsrl (ty : ITy) (pg : PReg) (vd va vb : VReg) : AssignedOpcode.Statement (.vsrl ty pg vd va vb) :=
  assigned_of_word _ rfl (by rw [moOf_encVint]; decide)
theorem AssignedOpcode.vsra (ty : ITy) (pg : PReg) (vd va vb : VReg) : AssignedOpcode.Statement (.vsra ty pg vd va vb) :=
  assigned_of_word _ rfl (by rw [moOf_encVint]; decide)
theorem AssignedOpcode.vadds (ty : ITy) (pg : PReg) (vd va vb : VReg) : AssignedOpcode.Statement (.vadds ty pg vd va vb) :=
  assigned_of_word _ rfl (by rw [moOf_encVint]; decide)
theorem AssignedOpcode.vsubs (ty : ITy) (pg : PReg) (vd va vb : VReg) : AssignedOpcode.Statement (.vsubs ty pg vd va vb) :=
  assigned_of_word _ rfl (by rw [moOf_encVint]; decide)
theorem AssignedOpcode.vabsd (ty : ITy) (pg : PReg) (vd va vb : VReg) : AssignedOpcode.Statement (.vabsd ty pg vd va vb) :=
  assigned_of_word _ rfl (by rw [moOf_encVint]; decide)
theorem AssignedOpcode.vavg (ty : ITy) (pg : PReg) (vd va vb : VReg) : AssignedOpcode.Statement (.vavg ty pg vd va vb) :=
  assigned_of_word _ rfl (by rw [moOf_encVint]; decide)
theorem AssignedOpcode.vneg (ty : ITy) (pg : PReg) (vd va : VReg) : AssignedOpcode.Statement (.vneg ty pg vd va) :=
  assigned_of_word _ rfl (by rw [moOf_encVint]; decide)
theorem AssignedOpcode.vabs (ty : ITy) (pg : PReg) (vd va : VReg) : AssignedOpcode.Statement (.vabs ty pg vd va) :=
  assigned_of_word _ rfl (by rw [moOf_encVint]; decide)
theorem AssignedOpcode.vpopc (ty : ITy) (pg : PReg) (vd va : VReg) : AssignedOpcode.Statement (.vpopc ty pg vd va) :=
  assigned_of_word _ rfl (by rw [moOf_encVint]; decide)
theorem AssignedOpcode.vfadd (fmt : FFmt) (pg : PReg) (vd va vb : VReg) : AssignedOpcode.Statement (.vfadd fmt pg vd va vb) :=
  assigned_of_word _ rfl (by rw [moOf_encVfp]; decide)
theorem AssignedOpcode.vfsub (fmt : FFmt) (pg : PReg) (vd va vb : VReg) : AssignedOpcode.Statement (.vfsub fmt pg vd va vb) :=
  assigned_of_word _ rfl (by rw [moOf_encVfp]; decide)
theorem AssignedOpcode.vfmul (fmt : FFmt) (pg : PReg) (vd va vb : VReg) : AssignedOpcode.Statement (.vfmul fmt pg vd va vb) :=
  assigned_of_word _ rfl (by rw [moOf_encVfp]; decide)
theorem AssignedOpcode.vfdiv (fmt : FFmt) (pg : PReg) (vd va vb : VReg) : AssignedOpcode.Statement (.vfdiv fmt pg vd va vb) :=
  assigned_of_word _ rfl (by rw [moOf_encVfp]; decide)
theorem AssignedOpcode.vfsqrt (fmt : FFmt) (pg : PReg) (vd va : VReg) : AssignedOpcode.Statement (.vfsqrt fmt pg vd va) :=
  assigned_of_word _ rfl (by rw [moOf_encVfp]; decide)
theorem AssignedOpcode.vfmin (fmt : FFmt) (pg : PReg) (vd va vb : VReg) : AssignedOpcode.Statement (.vfmin fmt pg vd va vb) :=
  assigned_of_word _ rfl (by rw [moOf_encVfp]; decide)
theorem AssignedOpcode.vfmax (fmt : FFmt) (pg : PReg) (vd va vb : VReg) : AssignedOpcode.Statement (.vfmax fmt pg vd va vb) :=
  assigned_of_word _ rfl (by rw [moOf_encVfp]; decide)
theorem AssignedOpcode.vfcopysg (fmt : FFmt) (pg : PReg) (vd va vb : VReg) : AssignedOpcode.Statement (.vfcopysg fmt pg vd va vb) :=
  assigned_of_word _ rfl (by rw [moOf_encVfp]; decide)
theorem AssignedOpcode.vfneg (fmt : FFmt) (pg : PReg) (vd va : VReg) : AssignedOpcode.Statement (.vfneg fmt pg vd va) :=
  assigned_of_word _ rfl (by rw [moOf_encVfp]; decide)
theorem AssignedOpcode.vfabs (fmt : FFmt) (pg : PReg) (vd va : VReg) : AssignedOpcode.Statement (.vfabs fmt pg vd va) :=
  assigned_of_word _ rfl (by rw [moOf_encVfp]; decide)
theorem AssignedOpcode.vfkind (fmt : FFmt) (pg : PReg) (vd va : VReg) : AssignedOpcode.Statement (.vfkind fmt pg vd va) :=
  assigned_of_word _ rfl (by rw [moOf_encVfp]; decide)
theorem AssignedOpcode.vfma (fmt : FFmt) (pg : PReg) (vd va vb vc : VReg) : AssignedOpcode.Statement (.vfma fmt pg vd va vb vc) :=
  assigned_of_word _ rfl (by rw [moOf_encV4]; decide)
theorem AssignedOpcode.vfms (fmt : FFmt) (pg : PReg) (vd va vb vc : VReg) : AssignedOpcode.Statement (.vfms fmt pg vd va vb vc) :=
  assigned_of_word _ rfl (by rw [moOf_encV4]; decide)
theorem AssignedOpcode.vtrn (size : ESize) (vd : VReg) : AssignedOpcode.Statement (.vtrn size vd) :=
  assigned_of_word _ rfl (by rw [moOf_encVperm]; decide)
theorem AssignedOpcode.vperm (size : ESize) (pg : PReg) (vd va vb : VReg) : AssignedOpcode.Statement (.vperm size pg vd va vb) :=
  assigned_of_word _ rfl (by rw [moOf_encVperm]; decide)
theorem AssignedOpcode.vlift (size : ESize) (pg : PReg) (vd va : VReg) (rb : SReg) : AssignedOpcode.Statement (.vlift size pg vd va rb) :=
  assigned_of_word _ rfl (by rw [moOf_encVperm]; decide)
theorem AssignedOpcode.vdrop (size : ESize) (pg : PReg) (vd va : VReg) (rb : SReg) : AssignedOpcode.Statement (.vdrop size pg vd va rb) :=
  assigned_of_word _ rfl (by rw [moOf_encVperm]; decide)
theorem AssignedOpcode.vrev (size : ESize) (pg : PReg) (vd va : VReg) : AssignedOpcode.Statement (.vrev size pg vd va) :=
  assigned_of_word _ rfl (by rw [moOf_encVperm]; decide)
theorem AssignedOpcode.vsqz (size : ESize) (pg : PReg) (vd va : VReg) : AssignedOpcode.Statement (.vsqz size pg vd va) :=
  assigned_of_word _ rfl (by rw [moOf_encVperm]; decide)
theorem AssignedOpcode.vknitl (size : ESize) (pg : PReg) (vd va vb : VReg) : AssignedOpcode.Statement (.vknitl size pg vd va vb) :=
  assigned_of_word _ rfl (by rw [moOf_encVperm]; decide)
theorem AssignedOpcode.vknith (size : ESize) (pg : PReg) (vd va vb : VReg) : AssignedOpcode.Statement (.vknith size pg vd va vb) :=
  assigned_of_word _ rfl (by rw [moOf_encVperm]; decide)
theorem AssignedOpcode.vsiftev (size : ESize) (pg : PReg) (vd va vb : VReg) : AssignedOpcode.Statement (.vsiftev size pg vd va vb) :=
  assigned_of_word _ rfl (by rw [moOf_encVperm]; decide)
theorem AssignedOpcode.vsiftod (size : ESize) (pg : PReg) (vd va vb : VReg) : AssignedOpcode.Statement (.vsiftod size pg vd va vb) :=
  assigned_of_word _ rfl (by rw [moOf_encVperm]; decide)
theorem AssignedOpcode.vceq (ty : Ty) (pg pd : PReg) (va vb : VReg) : AssignedOpcode.Statement (.vceq ty pg pd va vb) :=
  assigned_of_word _ rfl (by rw [moOf_encVcmp]; decide)
theorem AssignedOpcode.vcne (ty : Ty) (pg pd : PReg) (va vb : VReg) : AssignedOpcode.Statement (.vcne ty pg pd va vb) :=
  assigned_of_word _ rfl (by rw [moOf_encVcmp]; decide)
theorem AssignedOpcode.vclt (ty : Ty) (pg pd : PReg) (va vb : VReg) : AssignedOpcode.Statement (.vclt ty pg pd va vb) :=
  assigned_of_word _ rfl (by rw [moOf_encVcmp]; decide)
theorem AssignedOpcode.vcle (ty : Ty) (pg pd : PReg) (va vb : VReg) : AssignedOpcode.Statement (.vcle ty pg pd va vb) :=
  assigned_of_word _ rfl (by rw [moOf_encVcmp]; decide)
theorem AssignedOpcode.vbound (ty : ITy) (pd : PReg) (ra rb : SReg) : AssignedOpcode.Statement (.vbound ty pd ra rb) :=
  assigned_of_word _ rfl (by rw [moOf_encVcmp]; decide)
theorem AssignedOpcode.pand (pd pa pb : PReg) : AssignedOpcode.Statement (.pand pd pa pb) :=
  assigned_of_word _ rfl (by rw [moOf_encPlogic]; decide)
theorem AssignedOpcode.por (pd pa pb : PReg) : AssignedOpcode.Statement (.por pd pa pb) :=
  assigned_of_word _ rfl (by rw [moOf_encPlogic]; decide)
theorem AssignedOpcode.pxor (pd pa pb : PReg) : AssignedOpcode.Statement (.pxor pd pa pb) :=
  assigned_of_word _ rfl (by rw [moOf_encPlogic]; decide)
theorem AssignedOpcode.pandn (pd pa pb : PReg) : AssignedOpcode.Statement (.pandn pd pa pb) :=
  assigned_of_word _ rfl (by rw [moOf_encPlogic]; decide)
theorem AssignedOpcode.pcnt (ty : Ty) (rd : SReg) (pa : PReg) : AssignedOpcode.Statement (.pcnt ty rd pa) :=
  assigned_of_word _ rfl (by rw [moOf_encPscan]; decide)
theorem AssignedOpcode.pfirst (ty : Ty) (rd : SReg) (pa : PReg) : AssignedOpcode.Statement (.pfirst ty rd pa) :=
  assigned_of_word _ rfl (by rw [moOf_encPscan]; decide)
theorem AssignedOpcode.vrsum (ty : Ty) (pg : PReg) (vd va vb : VReg) : AssignedOpcode.Statement (.vrsum ty pg vd va vb) :=
  assigned_of_word _ rfl (by rw [moOf_encVred]; decide)
theorem AssignedOpcode.vrsumArr (ty : Ty) (pg : PReg) (vd va vb : VReg) : AssignedOpcode.Statement (.vrsumArr ty pg vd va vb) :=
  assigned_of_word _ rfl (by rw [moOf_encVred]; decide)
theorem AssignedOpcode.vrmin (ty : Ty) (pg : PReg) (vd va vb : VReg) : AssignedOpcode.Statement (.vrmin ty pg vd va vb) :=
  assigned_of_word _ rfl (by rw [moOf_encVred]; decide)
theorem AssignedOpcode.vrmax (ty : Ty) (pg : PReg) (vd va vb : VReg) : AssignedOpcode.Statement (.vrmax ty pg vd va vb) :=
  assigned_of_word _ rfl (by rw [moOf_encVred]; decide)
theorem AssignedOpcode.vrand (ty : Ty) (pg : PReg) (vd va vb : VReg) : AssignedOpcode.Statement (.vrand ty pg vd va vb) :=
  assigned_of_word _ rfl (by rw [moOf_encVred]; decide)
theorem AssignedOpcode.vror (ty : Ty) (pg : PReg) (vd va vb : VReg) : AssignedOpcode.Statement (.vror ty pg vd va vb) :=
  assigned_of_word _ rfl (by rw [moOf_encVred]; decide)
theorem AssignedOpcode.vrxor (ty : Ty) (pg : PReg) (vd va vb : VReg) : AssignedOpcode.Statement (.vrxor ty pg vd va vb) :=
  assigned_of_word _ rfl (by rw [moOf_encVred]; decide)
theorem AssignedOpcode.vcvt (dst src : Ty) (rm : Rm) (part : BitVec 3) (pg : PReg) (vd va : VReg) : AssignedOpcode.Statement (.vcvt dst src rm part pg vd va) :=
  assigned_of_word _ rfl (by rw [moOf_encV]; decide)
theorem AssignedOpcode.frame (sv : BitVec 5) (n1 : BitVec 4) (k1 : BitVec 8) (sp : BitVec 2) : AssignedOpcode.Statement (.frame sv n1 k1 sp) :=
  assigned_of_word _ rfl (by rw [moOf_encS]; decide)
theorem AssignedOpcode.vmov (pg : PReg) (vd va : VReg) : AssignedOpcode.Statement (.vmov pg vd va) :=
  assigned_of_word _ rfl (by rw [moOf_encVmove]; decide)
theorem AssignedOpcode.vdup (size : ESize) (pg : PReg) (vd : VReg) (ra : SReg) : AssignedOpcode.Statement (.vdup size pg vd ra) :=
  assigned_of_word _ rfl (by rw [moOf_encVmove]; decide)
theorem AssignedOpcode.vins (size : ESize) (vd : VReg) (ra rb : SReg) : AssignedOpcode.Statement (.vins size vd ra rb) :=
  assigned_of_word _ rfl (by rw [moOf_encVmove]; decide)
theorem AssignedOpcode.vextr (size : ESize) (rd : SReg) (va : VReg) (rb : SReg) : AssignedOpcode.Statement (.vextr size rd va rb) :=
  assigned_of_word _ rfl (by rw [moOf_encVmove]; decide)
theorem AssignedOpcode.vidx (size : ESize) (pg : PReg) (vd : VReg) (ra rb : SReg) : AssignedOpcode.Statement (.vidx size pg vd ra rb) :=
  assigned_of_word _ rfl (by rw [moOf_encVmove]; decide)
theorem AssignedOpcode.vwidth (rd : SReg) : AssignedOpcode.Statement (.vwidth rd) :=
  assigned_of_word _ rfl (by rw [moOf_encVmove]; decide)
theorem AssignedOpcode.vdraw (vd : VReg) (ds : BitVec 4) (ra : SReg) : AssignedOpcode.Statement (.vdraw vd ds ra) :=
  assigned_of_word _ rfl (by rw [moOf_encDs]; decide)
theorem AssignedOpcode.vdrawb (vd : VReg) (ds : BitVec 4) (ra : SReg) : AssignedOpcode.Statement (.vdrawb vd ds ra) :=
  assigned_of_word _ rfl (by rw [moOf_encDs]; decide)
theorem AssignedOpcode.vdrawu (vd : VReg) (ds : BitVec 4) (ra : SReg) : AssignedOpcode.Statement (.vdrawu vd ds ra) :=
  assigned_of_word _ rfl (by rw [moOf_encDs]; decide)
theorem AssignedOpcode.vnoiseG (vd : VReg) (ds : BitVec 4) (ra : SReg) : AssignedOpcode.Statement (.vnoiseG vd ds ra) :=
  assigned_of_word _ rfl (by rw [moOf_encDs]; decide)
theorem AssignedOpcode.vsrcvtBf16F32 (vd : VReg) (ds : BitVec 4) (ra : SReg) : AssignedOpcode.Statement (.vsrcvtBf16F32 vd ds ra) :=
  assigned_of_word _ rfl (by rw [moOf_encDs]; decide)
theorem AssignedOpcode.vsrcvtF16F32 (vd : VReg) (ds : BitVec 4) (ra : SReg) : AssignedOpcode.Statement (.vsrcvtF16F32 vd ds ra) :=
  assigned_of_word _ rfl (by rw [moOf_encDs]; decide)
theorem AssignedOpcode.vsrcvtE4m3F32 (vd : VReg) (ds : BitVec 4) (ra : SReg) : AssignedOpcode.Statement (.vsrcvtE4m3F32 vd ds ra) :=
  assigned_of_word _ rfl (by rw [moOf_encDs]; decide)
theorem AssignedOpcode.vsrcvtE5m2F32 (vd : VReg) (ds : BitVec 4) (ra : SReg) : AssignedOpcode.Statement (.vsrcvtE5m2F32 vd ds ra) :=
  assigned_of_word _ rfl (by rw [moOf_encDs]; decide)
theorem AssignedOpcode.vsrcvtE2m1F32 (vd : VReg) (ds : BitVec 4) (ra : SReg) : AssignedOpcode.Statement (.vsrcvtE2m1F32 vd ds ra) :=
  assigned_of_word _ rfl (by rw [moOf_encDs]; decide)
theorem AssignedOpcode.vsrcvtE4m3F16 (vd : VReg) (ds : BitVec 4) (ra : SReg) : AssignedOpcode.Statement (.vsrcvtE4m3F16 vd ds ra) :=
  assigned_of_word _ rfl (by rw [moOf_encDs]; decide)
theorem AssignedOpcode.vsrcvtE5m2F16 (vd : VReg) (ds : BitVec 4) (ra : SReg) : AssignedOpcode.Statement (.vsrcvtE5m2F16 vd ds ra) :=
  assigned_of_word _ rfl (by rw [moOf_encDs]; decide)
theorem AssignedOpcode.vsrcvtE4m3Bf16 (vd : VReg) (ds : BitVec 4) (ra : SReg) : AssignedOpcode.Statement (.vsrcvtE4m3Bf16 vd ds ra) :=
  assigned_of_word _ rfl (by rw [moOf_encDs]; decide)
theorem AssignedOpcode.mma (acc : BitVec 2) (dA dB : BitVec 4) (sk so : SReg) (pm1 : BitVec 4) (rnd z : Bool) : AssignedOpcode.Statement (.mma acc dA dB sk so pm1 rnd z) :=
  assigned_of_word _ rfl (by unfold moOf; rw [extract_high _ _ (by decide), extract_high _ _ (by decide), extract_high _ _ (by decide), extract_high _ _ (by decide), extract_high _ _ (by decide), extract_high _ _ (by decide), extract_high _ _ (by decide), extract_high _ _ (by decide), extract_all]; decide)
theorem AssignedOpcode.mswap (acc : BitVec 2) : AssignedOpcode.Statement (.mswap acc) :=
  assigned_of_word _ rfl (by rw [moOf_encS]; decide)
theorem AssignedOpcode.mwait (acc : BitVec 2) : AssignedOpcode.Statement (.mwait acc) :=
  assigned_of_word _ rfl (by rw [moOf_encS]; decide)
theorem AssignedOpcode.mzero (acc : BitVec 2) : AssignedOpcode.Statement (.mzero acc) :=
  assigned_of_word _ rfl (by rw [moOf_encS]; decide)
theorem AssignedOpcode.mlda (acc : BitVec 2) (ra : SReg) : AssignedOpcode.Statement (.mlda acc ra) :=
  assigned_of_word _ rfl (by rw [moOf_encS]; decide)
theorem AssignedOpcode.msto (fe : Bool) (acc : BitVec 2) (ra : SReg) : AssignedOpcode.Statement (.msto fe acc ra) :=
  assigned_of_word _ rfl (by rw [moOf_encS]; decide)
theorem AssignedOpcode.mrow (vd : VReg) (acc : BitVec 2) (ra : SReg) : AssignedOpcode.Statement (.mrow vd acc ra) :=
  assigned_of_word _ rfl (by rw [moOf_encS]; decide)
theorem AssignedOpcode.pdesc (dn : BitVec 4) (ra : SReg) (off : BitVec 10) : AssignedOpcode.Statement (.pdesc dn ra off) :=
  assigned_of_word _ rfl (by rw [moOf_encS]; decide)
theorem AssignedOpcode.pdset (dn : BitVec 4) (ra : SReg) : AssignedOpcode.Statement (.pdset dn ra) :=
  assigned_of_word _ rfl (by rw [moOf_encS]; decide)
theorem AssignedOpcode.pdrd (rd : SReg) (dn : BitVec 4) : AssignedOpcode.Statement (.pdrd rd dn) :=
  assigned_of_word _ rfl (by rw [moOf_encS]; decide)
theorem AssignedOpcode.pscale (dn : BitVec 4) (ra rb : SReg) : AssignedOpcode.Statement (.pscale dn ra rb) :=
  assigned_of_word _ rfl (by rw [moOf_encS]; decide)
theorem AssignedOpcode.pgscale (dn : BitVec 4) (ra rb : SReg) : AssignedOpcode.Statement (.pgscale dn ra rb) :=
  assigned_of_word _ rfl (by rw [moOf_encS]; decide)
theorem AssignedOpcode.qpush (port : BitVec 2) (rd ra : SReg) : AssignedOpcode.Statement (.qpush port rd ra) :=
  assigned_of_word _ rfl (by rw [moOf_encS]; decide)
theorem AssignedOpcode.qpop (port : BitVec 2) (rd : SReg) : AssignedOpcode.Statement (.qpop port rd) :=
  assigned_of_word _ rfl (by rw [moOf_encS]; decide)
theorem AssignedOpcode.qtry (port : BitVec 2) (rd : SReg) : AssignedOpcode.Statement (.qtry port rd) :=
  assigned_of_word _ rfl (by rw [moOf_encS]; decide)
theorem AssignedOpcode.qstat (port : BitVec 2) (rd : SReg) : AssignedOpcode.Statement (.qstat port rd) :=
  assigned_of_word _ rfl (by rw [moOf_encS]; decide)
theorem AssignedOpcode.qabort (port : BitVec 2) : AssignedOpcode.Statement (.qabort port) :=
  assigned_of_word _ rfl (by rw [moOf_encS]; decide)
theorem AssignedOpcode.barv (rd : SReg) (b : BitVec 8) : AssignedOpcode.Statement (.barv rd b) :=
  assigned_of_word _ rfl (by rw [moOf_encS]; decide)
theorem AssignedOpcode.barw (rd ra : SReg) (b : BitVec 8) : AssignedOpcode.Statement (.barw rd ra b) :=
  assigned_of_word _ rfl (by rw [moOf_encS]; decide)
theorem AssignedOpcode.evsig (ra : SReg) (e : BitVec 8) : AssignedOpcode.Statement (.evsig ra e) :=
  assigned_of_word _ rfl (by rw [moOf_encS]; decide)
theorem AssignedOpcode.evwait (rd : SReg) (e : BitVec 8) : AssignedOpcode.Statement (.evwait rd e) :=
  assigned_of_word _ rfl (by rw [moOf_encS]; decide)
theorem AssignedOpcode.evtry (rd : SReg) (e : BitVec 8) : AssignedOpcode.Statement (.evtry rd e) :=
  assigned_of_word _ rfl (by rw [moOf_encS]; decide)
theorem AssignedOpcode.mlock (m : BitVec 6) : AssignedOpcode.Statement (.mlock m) :=
  assigned_of_word _ rfl (by rw [moOf_encS]; decide)
theorem AssignedOpcode.mtry (rd : SReg) (m : BitVec 6) : AssignedOpcode.Statement (.mtry rd m) :=
  assigned_of_word _ rfl (by rw [moOf_encS]; decide)
theorem AssignedOpcode.munlock (rd : SReg) (m : BitVec 6) : AssignedOpcode.Statement (.munlock rd m) :=
  assigned_of_word _ rfl (by rw [moOf_encS]; decide)
theorem AssignedOpcode.monitorAndWait (acq : Bool) (scope : MemScope) (rd ra rb : SReg) : AssignedOpcode.Statement (.monitorAndWait acq scope rd ra rb) :=
  assigned_of_word _ rfl (by rw [moOf_encS]; decide)
theorem AssignedOpcode.launch (rd ra : SReg) (q : BitVec 10) : AssignedOpcode.Statement (.launch rd ra q) :=
  assigned_of_word _ rfl (by rw [moOf_encS]; decide)
theorem AssignedOpcode.tspawn (ra : SReg) : AssignedOpcode.Statement (.tspawn ra) :=
  assigned_of_word _ rfl (by rw [moOf_encS]; decide)
theorem AssignedOpcode.tnext (rd : SReg) : AssignedOpcode.Statement (.tnext rd) :=
  assigned_of_word _ rfl (by rw [moOf_encS]; decide)
theorem AssignedOpcode.tend  : AssignedOpcode.Statement (.tend) :=
  assigned_of_word _ rfl (by rw [moOf_encS]; decide)
theorem AssignedOpcode.await (ra : SReg) : AssignedOpcode.Statement (.await ra) :=
  assigned_of_word _ rfl (by rw [moOf_encS]; decide)
theorem AssignedOpcode.tinfo (rd : SReg) (k : BitVec 3) : AssignedOpcode.Statement (.tinfo rd k) :=
  assigned_of_word _ rfl (by rw [moOf_encS]; decide)
theorem AssignedOpcode.tclose (rd ra : SReg) (q : BitVec 10) : AssignedOpcode.Statement (.tclose rd ra q) :=
  assigned_of_word _ rfl (by rw [moOf_encS]; decide)
theorem AssignedOpcode.tqstat (rd : SReg) (q : BitVec 10) : AssignedOpcode.Statement (.tqstat rd q) :=
  assigned_of_word _ rfl (by rw [moOf_encS]; decide)
theorem AssignedOpcode.fuse (rd : SReg) (n : BitVec 5) : AssignedOpcode.Statement (.fuse rd n) :=
  assigned_of_word _ rfl (by rw [moOf_encS]; decide)
theorem AssignedOpcode.split  : AssignedOpcode.Statement (.split) :=
  assigned_of_word _ rfl (by rw [moOf_encS]; decide)
theorem AssignedOpcode.gidx (rd : SReg) : AssignedOpcode.Statement (.gidx rd) :=
  assigned_of_word _ rfl (by rw [moOf_encS]; decide)
theorem AssignedOpcode.gsize (rd : SReg) : AssignedOpcode.Statement (.gsize rd) :=
  assigned_of_word _ rfl (by rw [moOf_encS]; decide)
theorem AssignedOpcode.gredAdd (rd ra : SReg) : AssignedOpcode.Statement (.gredAdd rd ra) :=
  assigned_of_word _ rfl (by rw [moOf_encS]; decide)
theorem AssignedOpcode.gredAnd (rd ra : SReg) : AssignedOpcode.Statement (.gredAnd rd ra) :=
  assigned_of_word _ rfl (by rw [moOf_encS]; decide)
theorem AssignedOpcode.gredOr (rd ra : SReg) : AssignedOpcode.Statement (.gredOr rd ra) :=
  assigned_of_word _ rfl (by rw [moOf_encS]; decide)
theorem AssignedOpcode.gredXor (rd ra : SReg) : AssignedOpcode.Statement (.gredXor rd ra) :=
  assigned_of_word _ rfl (by rw [moOf_encS]; decide)
theorem AssignedOpcode.gredMin (rd ra : SReg) : AssignedOpcode.Statement (.gredMin rd ra) :=
  assigned_of_word _ rfl (by rw [moOf_encS]; decide)
theorem AssignedOpcode.gredMax (rd ra : SReg) : AssignedOpcode.Statement (.gredMax rd ra) :=
  assigned_of_word _ rfl (by rw [moOf_encS]; decide)
theorem AssignedOpcode.gredMinn (rd ra : SReg) : AssignedOpcode.Statement (.gredMinn rd ra) :=
  assigned_of_word _ rfl (by rw [moOf_encS]; decide)
theorem AssignedOpcode.gredMaxn (rd ra : SReg) : AssignedOpcode.Statement (.gredMaxn rd ra) :=
  assigned_of_word _ rfl (by rw [moOf_encS]; decide)
theorem AssignedOpcode.draw (rd : SReg) (ds : BitVec 4) (ra : SReg) : AssignedOpcode.Statement (.draw rd ds ra) :=
  assigned_of_word _ rfl (by rw [moOf_encDs]; decide)
theorem AssignedOpcode.dkey (ds : BitVec 4) (t : BitVec 10) : AssignedOpcode.Statement (.dkey ds t) :=
  assigned_of_word _ rfl (by rw [moOf_encS]; decide)
theorem AssignedOpcode.dkset (ds : BitVec 4) (ra : SReg) : AssignedOpcode.Statement (.dkset ds ra) :=
  assigned_of_word _ rfl (by rw [moOf_encDs]; decide)
theorem AssignedOpcode.dkrd (rd : SReg) (ds : BitVec 4) : AssignedOpcode.Statement (.dkrd rd ds) :=
  assigned_of_word _ rfl (by rw [moOf_encDs]; decide)
theorem AssignedOpcode.reseed (rd : SReg) : AssignedOpcode.Statement (.reseed rd) :=
  assigned_of_word _ rfl (by rw [moOf_encS]; decide)
theorem AssignedOpcode.seedset (rd ra : SReg) : AssignedOpcode.Statement (.seedset rd ra) :=
  assigned_of_word _ rfl (by rw [moOf_encS]; decide)
theorem AssignedOpcode.seedrd (rd : SReg) : AssignedOpcode.Statement (.seedrd rd) :=
  assigned_of_word _ rfl (by rw [moOf_encS]; decide)
theorem AssignedOpcode.cplace (rd ra : SReg) : AssignedOpcode.Statement (.cplace rd ra) :=
  assigned_of_word _ rfl (by rw [moOf_encS]; decide)
theorem AssignedOpcode.exq (rd ra : SReg) (c : BitVec 3) : AssignedOpcode.Statement (.exq rd ra c) :=
  assigned_of_word _ rfl (by rw [moOf_encS]; decide)
theorem AssignedOpcode.exqm (rd : SReg) (c : BitVec 3) : AssignedOpcode.Statement (.exqm rd c) :=
  assigned_of_word _ rfl (by rw [moOf_encS]; decide)
theorem AssignedOpcode.propose (ord : MemOrder) (scope : MemScope) (rd ra rb : SReg) : AssignedOpcode.Statement (.propose ord scope rd ra rb) :=
  assigned_of_word _ rfl (by rw [moOf_encCell]; decide)
theorem AssignedOpcode.cread (wait : Bool) (ord : MemOrder) (scope : MemScope) (rd ra rb : SReg) : AssignedOpcode.Statement (.cread wait ord scope rd ra rb) :=
  assigned_of_word _ rfl (by rw [moOf_encCell]; decide)
theorem AssignedOpcode.recycleRetire (ord : MemOrder) (scope : MemScope) (rd ra rb : SReg) : AssignedOpcode.Statement (.recycleRetire ord scope rd ra rb) :=
  assigned_of_word _ rfl (by rw [moOf_encCell]; decide)
theorem AssignedOpcode.recycleOpen (ord : MemOrder) (scope : MemScope) (rd ra rb : SReg) : AssignedOpcode.Statement (.recycleOpen ord scope rd ra rb) :=
  assigned_of_word _ rfl (by rw [moOf_encCell]; decide)
theorem AssignedOpcode.cinit (ord : MemOrder) (scope : MemScope) (ra rb : SReg) : AssignedOpcode.Statement (.cinit ord scope ra rb) :=
  assigned_of_word _ rfl (by rw [moOf_encCell]; decide)
theorem AssignedOpcode.fpt (rd : SReg) : AssignedOpcode.Statement (.fpt rd) :=
  assigned_of_word _ rfl (by rw [moOf_encS]; decide)
theorem AssignedOpcode.fcut (rd ra : SReg) (q : BitVec 10) : AssignedOpcode.Statement (.fcut rd ra q) :=
  assigned_of_word _ rfl (by rw [moOf_encS]; decide)
theorem AssignedOpcode.fprog (rd : SReg) (q : BitVec 10) : AssignedOpcode.Statement (.fprog rd q) :=
  assigned_of_word _ rfl (by rw [moOf_encS]; decide)
theorem AssignedOpcode.ctrd (rd : SReg) (n : BitVec 10) : AssignedOpcode.Statement (.ctrd rd n) :=
  assigned_of_word _ rfl (by rw [moOf_encS]; decide)
theorem AssignedOpcode.ctsel (ra : SReg) (slot : BitVec 5) : AssignedOpcode.Statement (.ctsel ra slot) :=
  assigned_of_word _ rfl (by rw [moOf_encS]; decide)
theorem AssignedOpcode.tstamp (rd : SReg) : AssignedOpcode.Statement (.tstamp rd) :=
  assigned_of_word _ rfl (by rw [moOf_encS]; decide)
theorem AssignedOpcode.proof (rd ra : SReg) : AssignedOpcode.Statement (.proof rd ra) :=
  assigned_of_word _ rfl (by rw [moOf_encS]; decide)
theorem AssignedOpcode.asynchronousCause  : AssignedOpcode.Statement (.asynchronousCause) := assigned_of_none rfl
theorem AssignedOpcode.preemptRequest (core : Nat) (source : BitVec 8) : AssignedOpcode.Statement (.preemptRequest core source) := assigned_of_none rfl
theorem AssignedOpcode.uncorrRecord (core : Nat) (faddr : Word) (place : BitVec 3) : AssignedOpcode.Statement (.uncorrRecord core faddr place) := assigned_of_none rfl
theorem AssignedOpcode.frameReplay  : AssignedOpcode.Statement (.frameReplay) := assigned_of_none rfl
theorem AssignedOpcode.matrixQueueEntry (core : Nat) (mctl : Bool) (err : Option MatrixError) : AssignedOpcode.Statement (.matrixQueueEntry core mctl err) := assigned_of_none rfl
theorem AssignedOpcode.copy (core : Nat) (port : BitVec 2) (err : Option Nat) : AssignedOpcode.Statement (.copy core port err) := assigned_of_none rfl
theorem AssignedOpcode.mcast (core : Nat) (port : BitVec 2) (err : Option Nat) : AssignedOpcode.Statement (.mcast core port err) := assigned_of_none rfl
theorem AssignedOpcode.fill (core : Nat) (port : BitVec 2) : AssignedOpcode.Statement (.fill core port) := assigned_of_none rfl
theorem AssignedOpcode.barrierCfgWrite (b : BitVec 8) (value : Word) : AssignedOpcode.Statement (.barrierCfgWrite b value) := assigned_of_none rfl
theorem AssignedOpcode.barrierParentWrite (b : BitVec 8) (value : Word) : AssignedOpcode.Statement (.barrierParentWrite b value) := assigned_of_none rfl
theorem AssignedOpcode.eventWordWrite (e : BitVec 8) (value : Word) : AssignedOpcode.Statement (.eventWordWrite e value) := assigned_of_none rfl
theorem AssignedOpcode.eventUnitWrite (offset : BitVec 21) (size : Size) : AssignedOpcode.Statement (.eventUnitWrite offset size) := assigned_of_none rfl
theorem AssignedOpcode.eventSignal (m : SignalMsg) : AssignedOpcode.Statement (.eventSignal m) := assigned_of_none rfl
theorem AssignedOpcode.arrive (m : BarMsg) : AssignedOpcode.Statement (.arrive m) := assigned_of_none rfl
theorem AssignedOpcode.release (m : BarMsg) (timedOut : Bool) : AssignedOpcode.Statement (.release m timedOut) := assigned_of_none rfl
theorem AssignedOpcode.absent (m : BarMsg) : AssignedOpcode.Statement (.absent m) := assigned_of_none rfl
theorem AssignedOpcode.present (m : BarMsg) : AssignedOpcode.Statement (.present m) := assigned_of_none rfl
theorem AssignedOpcode.barrierTimeout (cluster : Nat) (b : BitVec 8) : AssignedOpcode.Statement (.barrierTimeout cluster b) := assigned_of_none rfl
theorem AssignedOpcode.launchStart (q : BitVec 10) (seq : Nat) : AssignedOpcode.Statement (.launchStart q seq) := assigned_of_none rfl
theorem AssignedOpcode.taskStart (core : Nat) : AssignedOpcode.Statement (.taskStart core) := assigned_of_none rfl
theorem AssignedOpcode.spawnPacket (id : Nat) : AssignedOpcode.Statement (.spawnPacket id) := assigned_of_none rfl
theorem AssignedOpcode.awaitResume (core : Nat) : AssignedOpcode.Statement (.awaitResume core) := assigned_of_none rfl
theorem AssignedOpcode.clusterReport (q : BitVec 10) (seq cluster : Nat) : AssignedOpcode.Statement (.clusterReport q seq cluster) := assigned_of_none rfl
theorem AssignedOpcode.dieReport (q : BitVec 10) (seq die : Nat) : AssignedOpcode.Statement (.dieReport q seq die) := assigned_of_none rfl
theorem AssignedOpcode.launchCompletion (q : BitVec 10) (seq : Nat) : AssignedOpcode.Statement (.launchCompletion q seq) := assigned_of_none rfl
theorem AssignedOpcode.arbitrationRound (cls inst : Nat) (accepts : Bool) : AssignedOpcode.Statement (.arbitrationRound cls inst accepts) := assigned_of_none rfl
theorem AssignedOpcode.sweepMove (owner stack : Nat) : AssignedOpcode.Statement (.sweepMove owner stack) := assigned_of_none rfl
theorem AssignedOpcode.windowClose (owner stack : Nat) : AssignedOpcode.Statement (.windowClose owner stack) := assigned_of_none rfl
theorem AssignedOpcode.unitRetirement (u : DevUnit) : AssignedOpcode.Statement (.unitRetirement u) := assigned_of_none rfl
theorem AssignedOpcode.unitReturn (u : DevUnit) : AssignedOpcode.Statement (.unitReturn u) := assigned_of_none rfl
theorem AssignedOpcode.weightChange (owner : Nat) (weights : List Nat) : AssignedOpcode.Statement (.weightChange owner weights) := assigned_of_none rfl
theorem AssignedOpcode.pointFire (q : BitVec 10) (seq x0 x1 x2 : Nat) : AssignedOpcode.Statement (.pointFire q seq x0 x1 x2) := assigned_of_none rfl
theorem AssignedOpcode.storeAtHome (id : Nat) : AssignedOpcode.Statement (.storeAtHome id) := assigned_of_none rfl
theorem AssignedOpcode.update (id cluster : Nat) : AssignedOpcode.Statement (.update id cluster) := assigned_of_none rfl
theorem AssignedOpcode.commit (id : Nat) : AssignedOpcode.Statement (.commit id) := assigned_of_none rfl
theorem AssignedOpcode.commitAtSharer (id cluster : Nat) : AssignedOpcode.Statement (.commitAtSharer id cluster) := assigned_of_none rfl
theorem AssignedOpcode.loadMiss (cluster pa : Nat) : AssignedOpcode.Statement (.loadMiss cluster pa) := assigned_of_none rfl
theorem AssignedOpcode.grainEviction (cluster pa : Nat) : AssignedOpcode.Statement (.grainEviction cluster pa) := assigned_of_none rfl
theorem AssignedOpcode.directoryEntryReuse (pa : Nat) : AssignedOpcode.Statement (.directoryEntryReuse pa) := assigned_of_none rfl
theorem AssignedOpcode.redAcceptance (cluster : Nat) (r : RedRequest) : AssignedOpcode.Statement (.redAcceptance cluster r) := assigned_of_none rfl
theorem AssignedOpcode.partialGiveUp (cluster pa : Nat) : AssignedOpcode.Statement (.partialGiveUp cluster pa) := assigned_of_none rfl
theorem AssignedOpcode.pageWalk (cluster : Nat) (va : Word) : AssignedOpcode.Statement (.pageWalk cluster va) := assigned_of_none rfl
theorem AssignedOpcode.remoteRefusal (r : Refused) : AssignedOpcode.Statement (.remoteRefusal r) := assigned_of_none rfl
theorem AssignedOpcode.scrub (cluster : Nat) : AssignedOpcode.Statement (.scrub cluster) := assigned_of_none rfl
theorem AssignedOpcode.scrubEnd (cluster : Nat) : AssignedOpcode.Statement (.scrubEnd cluster) := assigned_of_none rfl
theorem AssignedOpcode.synchronisedStop (owner tick : Nat) : AssignedOpcode.Statement (.synchronisedStop owner tick) := assigned_of_none rfl
theorem AssignedOpcode.coreHalt (core : Nat) : AssignedOpcode.Statement (.coreHalt core) := assigned_of_none rfl
theorem AssignedOpcode.routerHalt (site : StopSite) (router : Nat) : AssignedOpcode.Statement (.routerHalt site router) := assigned_of_none rfl
theorem AssignedOpcode.flushToken (site : StopSite) (at' : RouterInput) : AssignedOpcode.Statement (.flushToken site at') := assigned_of_none rfl
theorem AssignedOpcode.cutClose : AssignedOpcode.Statement .cutClose := assigned_of_none rfl
theorem AssignedOpcode.dieSaveComplete (site : StopSite) : AssignedOpcode.Statement (.dieSaveComplete site) := assigned_of_none rfl
theorem AssignedOpcode.saveDeadline (site : StopSite) : AssignedOpcode.Statement (.saveDeadline site) := assigned_of_none rfl
theorem AssignedOpcode.restore (owner : Nat) : AssignedOpcode.Statement (.restore owner) := assigned_of_none rfl
theorem AssignedOpcode.pcSample (core : Nat) : AssignedOpcode.Statement (.pcSample core) := assigned_of_none rfl
theorem AssignedOpcode.counterSlotRotation  : AssignedOpcode.Statement (.counterSlotRotation) := assigned_of_none rfl
theorem AssignedOpcode.proofTrigger  : AssignedOpcode.Statement (.proofTrigger) := assigned_of_none rfl
theorem AssignedOpcode.gcycleStep (extra : Bool) (toff : Nat) : AssignedOpcode.Statement (.gcycleStep extra toff) := assigned_of_none rfl
theorem AssignedOpcode.ptpMessage (port : Nat) : AssignedOpcode.Statement (.ptpMessage port) := assigned_of_none rfl
theorem AssignedOpcode.ptpLoss  : AssignedOpcode.Statement (.ptpLoss) := assigned_of_none rfl
theorem AssignedOpcode.create (h : ReqHeader) (body : CreateBody) : AssignedOpcode.Statement (.create h body) := assigned_of_none rfl
theorem AssignedOpcode.destroy (h : ReqHeader) : AssignedOpcode.Statement (.destroy h) := assigned_of_none rfl
theorem AssignedOpcode.map (h : ReqHeader) (body : MapBody) : AssignedOpcode.Statement (.map h body) := assigned_of_none rfl
theorem AssignedOpcode.unmap (h : ReqHeader) (body : UnmapBody) : AssignedOpcode.Statement (.unmap h body) := assigned_of_none rfl
theorem AssignedOpcode.load (h : ReqHeader) (body : LoadBody) : AssignedOpcode.Statement (.load h body) := assigned_of_none rfl
theorem AssignedOpcode.bind (h : ReqHeader) (body : BindBody) : AssignedOpcode.Statement (.bind h body) := assigned_of_none rfl
theorem AssignedOpcode.hostLaunch (h : ReqHeader) (body : LaunchBody) : AssignedOpcode.Statement (.hostLaunch h body) := assigned_of_none rfl
theorem AssignedOpcode.sched (h : ReqHeader) (body : SchedBody) : AssignedOpcode.Statement (.sched h body) := assigned_of_none rfl
theorem AssignedOpcode.coreRequest (h : ReqHeader) (body : CoreBody) : AssignedOpcode.Statement (.coreRequest h body) := assigned_of_none rfl
theorem AssignedOpcode.power (h : ReqHeader) (body : PowerBody) : AssignedOpcode.Statement (.power h body) := assigned_of_none rfl
theorem AssignedOpcode.attest (h : ReqHeader) (body : AttestBody) : AssignedOpcode.Statement (.attest h body) := assigned_of_none rfl
theorem AssignedOpcode.firmware (h : ReqHeader) (body : FirmwareBody) : AssignedOpcode.Statement (.firmware h body) := assigned_of_none rfl
theorem AssignedOpcode.ptpcfg (h : ReqHeader) (body : PtpcfgBody) : AssignedOpcode.Statement (.ptpcfg h body) := assigned_of_none rfl
theorem AssignedOpcode.otherRequestCode (h : ReqHeader) (code : BitVec 16) : AssignedOpcode.Statement (.otherRequestCode h code) := assigned_of_none rfl
theorem AssignedOpcode.packetDrop (port : Nat) : AssignedOpcode.Statement (.packetDrop port) := assigned_of_none rfl
theorem AssignedOpcode.unlistedEndpoint (endpoint : Nat) : AssignedOpcode.Statement (.unlistedEndpoint endpoint) := assigned_of_none rfl
theorem AssignedOpcode.powerOn  : AssignedOpcode.Statement (.powerOn) := assigned_of_none rfl
theorem AssignedOpcode.functionCheckEnd (f : DevUnit) (passed : Bool) : AssignedOpcode.Statement (.functionCheckEnd f passed) := assigned_of_none rfl
theorem AssignedOpcode.thermalThrottle  : AssignedOpcode.Statement (.thermalThrottle) := assigned_of_none rfl
theorem AssignedOpcode.thermalRecovery  : AssignedOpcode.Statement (.thermalRecovery) := assigned_of_none rfl
theorem AssignedOpcode.thermalShutdown  : AssignedOpcode.Statement (.thermalShutdown) := assigned_of_none rfl
theorem AssignedOpcode.deviceIdentifierAssignment (id : BitVec 12) : AssignedOpcode.Statement (.deviceIdentifierAssignment id) := assigned_of_none rfl

end Sys2Proof.Laws
end

