-- ==== Sys2Proof/Tests/Slice0.lean ====
section
/-! SUPPORT. The model's own tests. Words that the spec writes out, or that are assembled here field by field from its encoding tables,
decode to the instructions that they stand for; WellFormed refuses one term for each of its checks; one-step results come from the
spec's worked examples and effect tables; and each claim's hypotheses are met together by a concrete state. -/
namespace Sys2Proof.Tests
open Sys2Proof Sys2Proof.Machine
set_option Elab.async false

-- Small states.

/-- A running core 0 at supervisor level, changed by f. -/
def core (f : Core → Core := id) : State := { State.reset with d := { Dev.reset with core := f { Core.reset 0 with run := .running } } }
/-- The same at user level. -/
def user (f : Core → Core := id) : State := core fun c => f { c with status := { c.status with pl := .user } }
/-- A state with scalar registers set. -/
def withS (l : List (SReg × Word)) (s : State) : State := s.withDev (l.foldl (fun d p => d.wr p.1 p.2) s.d)
/-- A state with cluster 0 changed. -/
def withCluster (f : Cluster → Cluster) (s : State) : State := s.withDev (s.d.setCluster 0 (f s.d.clusters[(0 : Fin 32)]))
/-- A state with device memory changed. -/
def withMem (f : MemState → MemState) (s : State) : State := { s with d := { s.d with mem := f s.d.mem } }
/-- A state with the host port changed. -/
def withHost (f : HostPort → HostPort) (s : State) : State := { s with d := { s.d with host := f s.d.host } }

/-- A leaf of a 4 KiB page at physical address 0x40000: V, L, W, X and USR, with further bits (R150). -/
def leaf (bits : Word) : Word := 0x4001F ||| bits
/-- Owner 0 has the page at 0x10000 in its cluster's translation cache. -/
def page (bits : Word) (s : State) : State :=
  withCluster (fun c => { c with tlb := [{ owner := 0, gen := 0, va := 0x10000, size := 4096, leaf := leaf bits, level := 4 }] }) s
/-- The walk and the miss of a fetch at an address are done. -/
def warm (va : Word) (s : State) : State := s.withDev (s.d.warmed s.d.core.status.pl va)
/-- The grain of the page's first byte is held in core 0's caches. -/
def held (s : State) : State := s.withDev (s.d.fillGrain 0 (some 0) none 0x40000 (grainBytes (leaf 0)) true false)
-- Decoding: at least one word of every family, from the spec's listings or field by field.

-- ALU: MO 0x01, rd 4, ra 2, rb 3, fn11 0x018 (R105, R106).
theorem test_decode_alu : decode ((0x01#6 ++ 4#5 ++ 2#5 ++ 3#5 ++ 0x018#11 : Word32)) = .ok (.remn 4 2 3) := by rfl
-- CLZ with a nonzero rb field is reason 3 (R40, R105).
theorem test_decode_alu_mbz : decode ((0x01#6 ++ 4#5 ++ 2#5 ++ 3#5 ++ 0x019#11 : Word32)) = .error 3 := by rfl
-- F-I: ORI s2, s3, 0 (R108).
theorem test_decode_imm : decode 0x10430000 = .ok (.ori 2 3 0) := by rfl
-- Immediate shift: MO 0x06, sub 0x02, n 63 (R109).
theorem test_decode_shift : decode ((0x06#6 ++ 4#5 ++ 2#5 ++ 0x02#6 ++ 63#10 : Word32)) = .ok (.srai 4 2 63) := by rfl
theorem test_decode_movw : decode 0x24E8FFFF = .ok (.hws 7 0 0xFFFF) := by rfl
theorem test_decode_adpc : decode ((0x0A#6 ++ 2#5 ++ 1#5 ++ 0x042F#16 : Word32)) = .ok (.adpch 2 0x042F) := by rfl
theorem test_decode_bcmp : decode 0x2C600005 = .ok (.beq 3 0 5) := by rfl
-- LOOP: cond 0b010 is loopd (R114).
theorem test_decode_loop : decode ((0x0F#6 ++ 5#5 ++ 6#5 ++ 2#3 ++ 0x1FFC#13 : Word32)) = .ok (.loopd 5 6 0x1FFC) := by rfl
theorem test_decode_call : decode 0x34000002 = .ok (.call 2) := by rfl
theorem test_decode_jreg : decode 0x381F0000 = .ok (.jreg 0 31) := by rfl
-- FPU: op 0x04 in [10:6], rounding rtz in [5:3], format f16 in [2:0] (R118).
theorem test_decode_fpu : decode ((0x18#6 ++ 1#5 ++ 2#5 ++ 0#5 ++ 4#5 ++ 1#3 ++ 1#3 : Word32)) = .ok (.fsqrt .f16 .rtz 1 2) := by rfl
theorem test_decode_fmadd : decode 0x64852980 = .ok (.fmadd .f32 .rne 4 5 5 6) := by rfl
theorem test_decode_nop : decode 0xBC000000 = .ok .nop := by rfl
-- CRD of FFLAGS, register 0x010, is a row of its own (R88, R228).
theorem test_decode_crd : decode ((0x2F#6 ++ 3#5 ++ 0#5 ++ 4#6 ++ 0x010#10 : Word32)) = .ok (.crdFflags 3) := by rfl
theorem test_decode_st : decode 0x44E25FF8 = .ok (.st .w 7 2 0x1FF8) := by rfl
-- LD: size code 0b111 is .q, whose register must be even (R44, R40).
theorem test_decode_ld_odd : decode ((0x10#6 ++ 3#5 ++ 2#5 ++ 7#3 ++ 0#13 : Word32)) = .error 5 := by rfl
theorem test_decode_atom : decode 0x5082319B = .ok (.atomCas .q .ar .dev 4 2 6) := by rfl
theorem test_decode_red : decode 0x54022C4C = .ok (.redAdd false .f32 .rel .dev 2 5) := by rfl
theorem test_decode_vld : decode 0x68223908 = .ok (.vld .w .none false 1 1 2 7) := by rfl
-- VINT: op in [7:3], type n16 in [2:0] (R246).
theorem test_decode_vint : decode ((0x1C#6 ++ 1#5 ++ 2#5 ++ 3#5 ++ 4#3 ++ 0x00#5 ++ 5#3 : Word32)) = .ok (.vadd .n16 4 1 2 3) := by rfl
theorem test_decode_vfma : decode 0x78430888 = .ok (.vfma .f32 1 2 3 1 2) := by rfl
theorem test_decode_vbound : decode 0x80262042 = .ok (.vbound .i32 1 6 4) := by rfl
theorem test_decode_vmove : decode 0x91000028 = .ok (.vwidth 8) := by rfl
theorem test_decode_vdraw : decode 0xB0A98C02 = .ok (.vnoiseG 5 2 9) := by rfl
theorem test_decode_frame : decode 0x8C21000C = .ok (.frame 1 1 3 0) := by rfl
theorem test_decode_mma : decode 0x9523215D = .ok (.mma 1 2 3 4 5 7 false true) := by rfl
theorem test_decode_mctl : decode 0x98641400 = .ok (.mrow 3 0 4) := by rfl
theorem test_decode_plane : decode 0x9C430000 = .ok (.pdesc 2 3 0) := by rfl
theorem test_decode_eng : decode 0xA0001003 = .ok (.qabort 3) := by rfl
theorem test_decode_evt : decode 0xA4A220E7 = .ok (.monitorAndWait true .dev 5 2 7) := by rfl
theorem test_decode_task : decode 0xA8641811 = .ok (.tclose 3 4 17) := by rfl
theorem test_decode_gang : decode 0xAC200004 = .ok (.fuse 1 4) := by rfl
theorem test_decode_draw : decode 0xB0850003 = .ok (.draw 4 3 5) := by rfl
theorem test_decode_cell : decode 0xB482301B = .ok (.propose .ar .dev 4 2 6) := by rfl
theorem test_decode_recycle : decode 0xB4622A9B = .ok (.recycleOpen .ar .dev 3 2 5) := by rfl
theorem test_decode_front : decode 0xB8A00811 = .ok (.fprog 5 17) := by rfl
theorem test_decode_perf : decode 0xC0670C00 = .ok (.proof 3 7) := by rfl
-- The reserved major opcode of R40's example.
theorem test_decode_reserved : decode 0xC4000000 = .error 1 := by rfl
-- The table's numbering: bit 0 is the least significant bit of the word.
theorem test_decode_table_word : decodeTableWord 32 0xBC000401 = some (.trap 1) := by rfl
-- Inside a region: ALRE, MO 0x16 with sub 1 (R178).
theorem test_decode_alre : decodeBody ((0x16#6 ++ 0#10 ++ 1#6 ++ 0#10 : Word32)) = .ok .alre := by rfl

-- WellFormed: one ill-formed term for each check.

theorem test_ill_formed_reason : (Instr.illop 0 6).wf = false := by rfl
theorem test_ill_formed_pair : (Instr.qpop 0 3).wf = false := by rfl
theorem test_ill_formed_pair_q : (Instr.ld .q 3 2 0).wf = false := by rfl
theorem test_ill_formed_scope : (Instr.fence .none .dev).wf = false := by rfl
theorem test_ill_formed_store_fe : (Instr.stx .d .fc .none .core 1 2 3).wf = false := by rfl
theorem test_ill_formed_ext : (Instr.ldx .d true .none .none .core 1 2 3).wf = false := by rfl
theorem test_ill_formed_red : (Instr.redAnd false .f32 .none .core 1 2).wf = false := by rfl
theorem test_ill_formed_cvt : (Instr.vcvt .e2m1 .i64 .rne 0 0 1 2).wf = false := by rfl
theorem test_ill_formed_part : (Instr.vcvt .i8 .i32 .rne 4 0 1 2).wf = false := by rfl
theorem test_ill_formed_core : (Instr.coreHalt 96).wf = false := by rfl
theorem test_ill_formed_counter : (Instr.ctrd 1 0x0A).wf = false := by rfl
theorem test_ill_formed_instance : (Instr.arbitrationRound 1 12 true).wf = false := by rfl
theorem test_ill_formed_weights : (Instr.weightChange 1 [9, 1, 1, 1, 1, 1, 1, 1]).wf = false := by rfl
theorem test_ill_formed_unit : (Instr.unitRetirement (.port 12)).wf = false := by rfl
theorem test_ill_formed_trn_size : (Instr.vtrn .d 8).wf = false := by rfl
theorem test_ill_formed_trn_group : (Instr.vtrn .w 4).wf = false := by rfl
theorem test_ill_formed_compare : (Instr.vceq .e2m1 0 1 2 3).wf = false := by rfl
theorem test_ill_formed_reduce : (Instr.vrand .f32 0 1 2 3).wf = false := by rfl
theorem test_ill_formed_arr : (Instr.vrsumArr .i32 0 1 2 3).wf = false := by rfl
theorem test_ill_formed_field : (Instr.tinfo 1 7).wf = false := by rfl
theorem test_ill_formed_monitor : (Instr.monitorAndWait false .dev 1 2 3).wf = false := by rfl
theorem test_ill_formed_load_order : (Instr.cread true .rel .dev 2 4 6).wf = false := by rfl
theorem test_ill_formed_minima : (Instr.create { session := 0, seq := 0, part := 1 }
    { clusters := [0], weights := List.replicate 8 1, minima := List.replicate 8 1025, seedVisible := false }).wf = false := by rfl
theorem test_ill_formed_stack : (Instr.sweepMove 0 8).wf = false := by rfl
theorem test_ill_formed_router : (Instr.routerHalt ⟨0, 0⟩ 48).wf = false := by rfl
theorem test_ill_formed_address : (Instr.loadMiss 0 0x6000000000).wf = false := by rfl

-- One step, against the spec's own numbers.

/-- exec completes in a state with a property. -/
def after (i : Instr) (s : State) (p : State → Bool) : Bool :=
  match exec i s with
  | .next t => p t
  | _ => false
/-- A scalar register of the state after an instruction. -/
def gives (i : Instr) (l : List (SReg × Word)) (r : SReg) (x : Word) : Bool :=
  after i (withS l (core)) fun t => decide (t.d.rd r = x) && decide (t.d.core.pc = 4)

-- R107's example: -7 by 2.
theorem test_div : gives (.div 4 2 3) [(2, -7), (3, 2)] 4 (-3) = true := by decide +kernel
theorem test_rem : gives (.rem 4 2 3) [(2, -7), (3, 2)] 4 (-1) = true := by decide +kernel
theorem test_div_overflow : gives (.div 4 2 3) [(2, 0x8000000000000000), (3, -1)] 4 0x8000000000000000 = true := by decide +kernel
theorem test_remn_zero : gives (.remn 4 2 3) [(2, 9)] 4 9 = true := by decide +kernel
-- R106: SRA of a negative value, ROR across the ends, the saturating sum, MULH of the most negative value.
theorem test_sra : gives (.sra 4 2 3) [(2, 0x8000000000000000), (3, 63)] 4 (-1) = true := by decide +kernel
theorem test_ror : gives (.ror 4 2 3) [(2, 1), (3, 1)] 4 0x8000000000000000 = true := by decide +kernel
theorem test_adds : gives (.adds 4 2 3) [(2, 0x7FFFFFFFFFFFFFFF), (3, 1)] 4 0x7FFFFFFFFFFFFFFF = true := by decide +kernel
theorem test_mulh : gives (.mulh 4 2 3) [(2, 0x8000000000000000), (3, 0x8000000000000000)] 4 0x4000000000000000 = true := by decide +kernel
theorem test_addw : gives (.addw 4 2 3) [(2, 0x7FFFFFFF), (3, 1)] 4 0xFFFFFFFF80000000 = true := by decide +kernel
theorem test_clz_zero : gives (.clz 4 2) [] 4 64 = true := by decide +kernel
-- A source that is also the destination, and s0 (R29, R51).
theorem test_add_same : gives (.add 2 2 2) [(2, 5)] 2 10 = true := by decide +kernel
theorem test_write_s0 : gives (.addi 0 0 7) [] 0 0 = true := by decide +kernel
-- R110: hwz s16, 0xFF80, 1 in chapter 16; hwi keeps the other half-words.
theorem test_hwz : gives (.hwz 16 1 0xFF80) [(16, -1)] 16 0xFF800000 = true := by decide +kernel
theorem test_hwi : gives (.hwi 7 1 0x89AB) [(7, -1)] 7 0xFFFFFFFF89ABFFFF = true := by decide +kernel
-- R114: a LOOP entered with 0 wraps and is taken; loopd of one register with itself writes 0 and is not taken.
theorem test_loop_wraps : after (.loop 2 0x1FFF) (core) (fun t => decide (t.d.rd 2 = -1 ∧ t.d.core.pc = -4)) = true := by decide +kernel
theorem test_loopd_same : after (.loopd 2 2 5) (withS [(2, 9)] core) (fun t => decide (t.d.rd 2 = 0 ∧ t.d.core.pc = 4)) = true := by
  decide +kernel
-- R116: jreg s31, s31 swaps the return address and the target.
theorem test_jreg_swap : after (.jreg 31 31) (withS [(31, 0x100)] core) (fun t => decide (t.d.rd 31 = 4 ∧ t.d.core.pc = 0x100)) = true := by
  decide +kernel
-- R120, R224 by hand: 1.0 + 2^-24 ties to even with NX; 1 / 0 is infinity with DZ; 0.5 x 2 + 1 is exact.
theorem test_fadd_tie : after (.fadd .f32 .rne 4 2 3) (withS [(2, 0x3F800000), (3, 0x33800000)] core)
    (fun t => decide (t.d.rd 4 = 0x3F800000) && t.d.core.fflags.nx) = true := by decide +kernel
theorem test_fdiv_zero : after (.fdiv .f32 .rne 4 2 3) (withS [(2, 0x3F800000)] core)
    (fun t => decide (t.d.rd 4 = 0x7F800000) && t.d.core.fflags.dz) = true := by decide +kernel
theorem test_fmadd : gives (.fmadd .f32 .rne 4 2 3 5) [(2, 0x3F000000), (3, 0x40000000), (5, 0x3F800000)] 4 0x40000000 = true := by
  decide +kernel
-- R121: -1.5 to an integer, RNE ties to even.
theorem test_fcvti : gives (.fcvti .f32 false .rne 4 2) [(2, 0xBFC00000)] 4 (-2) = true := by decide +kernel
-- R125: trap 1, and brk, whose EPC is the instruction's own address.
theorem test_trap : after (.trap 1) (user fun c => { c with tvec := 0x80000 }) (fun t =>
    decide (t.d.core.pc = 0x80000 ∧ t.d.core.epc = 4 ∧ t.d.core.finfo = 1 ∧ t.d.core.cause.code = 0x11)) = true := by decide +kernel
theorem test_brk : after (.brk 3) (user) (fun t => decide (t.d.core.epc = 0 ∧ t.d.core.cause.code = 0x12)) = true := by decide +kernel
-- The example of chapter 5: an unmapped load traps with level 2 and exchanges s30 with TSTACK, and a second one escalates.
theorem test_trap_stack : after (.trap 0) (withS [(30, 0x7F000)] (user fun c => { c with tstack := 0x90000 })) (fun t =>
    decide (t.d.rd 30 = 0x90000 ∧ t.d.core.tstack = 0x7F000 ∧ t.d.core.status.ppl = .user)) = true := by decide +kernel
theorem test_double : after (.trap 0) (core fun c => { c with status := { c.status with cons := false }, epc := 0x12340 }) (fun t =>
    t.d.core.isEscalated && decide (t.d.core.epc = 0x12340)) = true := by decide +kernel
-- R166: a load sign-extends; a misaligned one raises MISALIGN with the size (R163).
theorem test_ld_bs : after (.ld .bs 4 2 0) (withS [(2, 0x10000)] (held (page 0 (withMem (fun m => { m with hbm := [(0x40000, 0x80)] }) core))))
    (fun t => decide (t.d.rd 4 = 0xFFFFFFFFFFFFFF80)) = true := by decide +kernel
-- R340: load data that a slice's miss has to fetch is waited for first.
theorem test_ld_waits : after (.ld .bs 4 2 0) (withS [(2, 0x10000)] (page 0 core))
    (fun t => decide (t.d.rd 4 = 0 ∧ t.d.core.pc = 0 ∧ t.d.core.stall = 3)) = true := by decide +kernel
theorem test_ld_misaligned : after (.ld .d 4 2 1) (withS [(2, 0x10000)] (page 0 core))
    (fun t => decide (t.d.core.cause.code = 3 ∧ t.d.core.faddr = 0x10001 ∧ t.d.core.finfo = 3)) = true := by decide +kernel
-- R58: a store is seen by its own cluster before it is committed.
theorem test_st_seen : after (.st .b 3 2 0) (withS [(2, 0x10000), (3, 0x55)] (page 0 core))
    (fun t => decide (t.d.seen 0 none 0x40000 = 0x55 ∧ t.d.mem.hbm = [])) = true := by decide +kernel
-- R171: a failed CAS writes nothing and delivers the old value.
theorem test_cas_fails : after (.atomCas .d .none .core 4 2 3) (withS [(2, 0x10000), (3, 7), (4, 5)] (page 0
    (withMem (fun m => { m with hbm := [(0x40000, 6)] }) core))) (fun t => decide (t.d.rd 4 = 6 ∧ t.d.mem.hbm = [(0x40000, 6)])) = true := by
  decide +kernel
-- R189: the worked draws of chapter 11 under seed 3.
theorem test_draw : after (.draw 4 0 2) (withS [(2, 2)] (core.withDev (core.d.wrDs 0 3))) (fun t => decide (t.d.rd 4 = 0x5227CC08)) = true := by
  decide +kernel
theorem test_draw_5 : after (.draw 4 0 2) (withS [(2, 5)] (core.withDev (core.d.wrDs 0 3))) (fun t => decide (t.d.rd 4 = 0xA315832C)) = true := by
  decide +kernel
-- R207: k = 0 yields the largest fraction.
theorem test_exq_zero : gives (.exq 4 0 0) [] 4 0xFFFFFFFF = true := by decide +kernel
-- R251: vbound.i32 p1, s0, s10 with limit 4 in chapter 16 sets bits 0 to 15.
theorem test_vbound : after (.vbound .i32 1 0 10) (withS [(10, 4)] core) (fun t => decide (t.d.rdP 1 = 0xFFFF)) = true := by decide +kernel
theorem test_vwidth : gives (.vwidth 8) [] 8 256 = true := by decide +kernel
-- R240 to R246 by hand: an add under a predicate leaves inactive elements.
theorem test_vadd : after (.vadd .i32 1 3 1 2) (core.withDev (((core.d.wrV 1 0x0000000200000001).wrV 2 0x0000000500000003).wrP 1 0xF))
    (fun t => decide (t.d.rdV 3 = 4)) = true := by decide +kernel
-- R253 by hand: the sum of four elements, with vb's element 0.
theorem test_vrsum : after (.vrsum .n8 0 3 1 2) (core.withDev ((core.d.wrV 1 0x04030201).wrV 2 0x10)) (fun t => decide (t.d.rdV 3 = 0x1A)) = true := by
  decide +kernel
-- R290: MZERO enters the matrix queue.
theorem test_mzero : after (.mzero 2) (core) (fun t => decide (t.d.core.matrix = [{ set := 2, op := .zero }])) = true := by decide +kernel
-- R320: a barrier that is not in use answers all ones.
theorem test_barv : gives (.barv 4 5) [] 4 (-1) = true := by decide +kernel
-- R321: EVTRY takes one and delivers the count as it was.
theorem test_evtry : after (.evtry 4 9) (withCluster (fun c => { c with unit := { c.unit with events := [(9, { EventWord.reset with count := 3 })] } }) core)
    (fun t => decide (t.d.rd 4 = 3 ∧ ((t.d.clusters[(0 : Fin 32)]).unit.event 9).count = 2)) = true := by decide +kernel
-- R322: MTRY of a mutex that another core holds answers 1.
theorem test_mtry : after (.mtry 4 9) (withCluster (fun c => { c with unit := { c.unit with mutexes := [(9, { Mutex.reset with holder := Option.some 3 })] } }) core)
    (fun t => decide (t.d.rd 4 = 1)) = true := by decide +kernel
-- R367: TINFO's KID; R349: TQSTAT of an unbound queue.
theorem test_tqstat : gives (.tqstat 3 17) [] 3 3 = true := by decide +kernel
-- R371: a core alone is a gang of one.
theorem test_gsize : gives (.gsize 3) [] 3 1 = true := by decide +kernel
theorem test_split_alone : after .split (core) (fun t => decide (t.d.core.cause.code = 0x10 ∧ t.d.core.finfo = 2)) = true := by decide +kernel
-- R390: FPT without a point.
theorem test_fpt : after (.fpt 4) (core) (fun t => decide (t.d.core.cause.code = 0x0E ∧ t.d.core.finfo = 1)) = true := by decide +kernel
-- R343: CTSEL writes its position of the event list.
theorem test_ctsel : after (.ctsel 6 2) (withS [(6, 0x0A)] core) (fun t => decide (((t.d.ownerAt 0).events[(2 : Fin 32)]) = 0x0A)) = true := by
  decide +kernel
-- R405: CINIT of a cell, then a PROPOSE decides it (R403).
theorem test_propose : after (.propose .none .core 4 2 6) (withS [(2, 0x10000), (6, 0x77), (7, 5)] (page 0x80 core))
    (fun t => decide (t.d.rd 4 = 0x77 ∧ t.d.rd 5 = 0x4000000005)) = true := by decide +kernel
theorem test_cell_not_dec : after (.cinit .none .core 2 5) (withS [(2, 0x10000)] (page 0 core))
    (fun t => decide (t.d.core.cause.code = 0x0D ∧ t.d.core.finfo = 1)) = true := by decide +kernel
-- A step fetches the word at the pc, runs it and moves GCYCLE on (R50, R344).
theorem test_step_word : (match step (State.reset.withFetchWord 32 0xBC000000) with
    | .next t => decide (t.d.core.pc = 4) && decide (t.gcycle = 1)
    | _ => false) = true := by decide +kernel
-- An input that names an instruction of the program is no step of another agent.
theorem test_spurious_input : (match step { State.reset with inputs := [.event .nop] } with
    | .fault .spuriousInput => true
    | _ => false) = true := by decide +kernel

-- The hypotheses of every claim are met together by a concrete state, clause by clause.

/-- A state with both operands of an instruction. -/
def ops (a b : Word) : State := withS [(2, a), (3, b)] core

theorem witness_DivisionResults : (ops 9 0).d.rd 3 = 0 ∧ (((ops 0x8000000000000000 (-1)).d.rd 2).toInt = -2 ^ 63 ∧
    ((ops 0x8000000000000000 (-1)).d.rd 3).toInt = -1) ∧ ((ops 7 2).d.rd 3 ≠ 0 ∧ ((ops 7 2).d.rd 3).toInt ≠ -1) := by decide +kernel

theorem witness_FpArithmetic : let s := withS [(2, 0x3F800000), (3, 0x40000000), (5, 0)] core
    fpFinite .f32 (s.d.rdF .f32 2) ∧ fpFinite .f32 (s.d.rdF .f32 3) ∧ fpFinite .f32 (s.d.rdF .f32 5) ∧ fpValue .f32 (s.d.rdF .f32 3) ≠ 0 ∧
    0 < fpValue .f32 (s.d.rdF .f32 2) := by decide +kernel

theorem witness_FpSpecialOperands : fpIsNaN .f16 0x7E00 ∧ fpIsSignalling .f16 0x7C01 ∧ fpIsInfinity .f16 0x7C00 ∧ fpIsZero .f16 0x8000 ∧
    fpFinite .f16 0x7BFF ∧ (¬ fpIsNaN .f16 0xBC00 ∧ ¬ fpIsZero .f16 0xBC00 ∧ fpNeg .f16 0xBC00) ∧
    (fpIsInfinity .f16 0xFC00 ∧ fpNeg .f16 0xFC00) := by decide +kernel

theorem witness_FpConversions : ¬ fpIsSignalling .f32 0x7FC00000 ∧ fpIsNaN .f32 0x7FC00000 ∧ fpIsInfinity .f32 0xFF800000 ∧
    fpFinite .f32 0x7F7FFFFF := by decide +kernel

-- Round has finite results in every mode, and values that the codes span: 1/3 in E2M1.
theorem witness_RoundIsNearest : ∀ m ∈ [Mode.rne, .rtz, .rdn, .rup],
    (match Fmt.e2m1.decode (Fmt.e2m1.round m { neg := false, num := 1, den := 3 }).1 with | .fin _ => true | _ => false) = true := by
  decide +kernel

theorem witness_CanTrap : CanTrap user := by unfold CanTrap; decide +kernel
/-- A FRAME at pc 0 with replays outstanding. -/
def active : FrameExec := { addr := 0, count := 2, sv := 1, sp := 0, body := [], rep := 1, pos := 0, saved := none }
/-- A VADD.I32 at 0x40 handed on, not yet performed. -/
def handed : Handed := { addr := 0x40, body := { instr := .vadd .i32 0 1 2 3, ra := 0, rb := 0 }, saved := (Core.reset 0).s }
theorem witness_DoubleTrapEscalates :
    (core fun c => { c with status := { c.status with cons := false } }).d.core.status.cons = false ∧ core.Quiet ∧
    (let s := core fun c => { c with status := { c.status with cons := false }, sequencer := [handed] }
     s.d.core.status.cons = false ∧ s.d.core.frame = none ∧ s.d.core.sequencer = [handed]) ∧
    (core fun c => { c with status := { c.status with cons := false }, frame := some active }).d.core.frame = some active := by decide +kernel
theorem witness_TrapsLeaveFrames : let s := user fun c => { c with frame := some active }
    s.d.core.status.cons = true ∧ s.d.core.frame = some active ∧ s.d.core.status.pl = .user ∧
    (let u := user fun c => { c with sequencer := [handed] }
     u.d.core.status.cons = true ∧ u.d.core.frame = none ∧ u.d.core.sequencer = [handed]) := by decide +kernel
theorem witness_TrapReturns : core.d.core.status.pl = .supervisor ∧ core.d.core.frst.act = false ∧ core.d.core.ctxbuf = 0 := by decide +kernel
/-- A FRAME of one VADD.I32 and two replays at 0x10000, in the instruction cache, to which a trap handler returns. -/
def resuming : State :=
  let code := Memory.write (Memory.write [] 0x40000 (wordBytes ((encode (.frame 1 0 1 0)).getD 0))) 0x40004 (wordBytes ((encode (.vadd .i32 0 1 2 3)).getD 0))
  warm 0x10040 <| warm 0x10020 <| warm 0x10000 <| withMem (fun m => { m with hbm := code })
    (page 0 (core fun c => { c with epc := 0x10000, frst := { act := true, rep := 1, pos := 0 } }))
theorem witness_ReturnsResumeFrames : let c := resuming.d.core
    let at' (i : Nat) : Except Stop Word32 := resuming.d.fetchAt c.status.ppl (c.epc + 4 * u64 i) (c.epc + 4 * u64 i)
    c.status.pl = .supervisor ∧ c.frst.act = true ∧ c.ctxbuf = 0 ∧
    (∀ i, i < 17 → (match at' i with | .ok _ => true | .error _ => false) = true) ∧ at' 0 = .ok ((encode (.frame 1 0 1 0)).getD 0) ∧
    decodeWord ((encode (.frame 1 0 1 0)).getD 0) = .ok (.inl (.frame 1 0 1 0)) ∧
    (match ({ resuming.d with core := { c.eret resuming.d.gen with frst := Frst.reset } }).capture 1 (c.epc + 4) with
      | .ok body => !body.isEmpty
      | .error _ => false) = true := by decide +kernel
/-- A message buffer with one message at 0x10000. -/
def buffered : State := withMem (fun m => { m with hbm := Memory.write [] 0x40000 [1] }) (page 0 (core fun c => { c with ctxbuf := 0x10000 }))
theorem witness_ReturnsDeliverMessages : let c := buffered.d.core
    c.status.pl = .supervisor ∧ c.frst.act = false ∧ c.spilled = [] ∧ c.ctxbuf ≠ 0 ∧ pteRmt (leaf 0) = false ∧ pteDec (leaf 0) = false ∧
    pteSl (leaf 0) = false ∧ c.ctxbuf.toNat / 4096 * 4096 = 0x10000 ∧ c.ctxbuf.toNat / 256 % 16 = 0 ∧
    (∀ i, i < 8 + 64 * 1 → let a : Word := 0x10000 + u64 i
      inLocalRange a = false ∧ (buffered.d.tlbLookup 0 0 a).isSome = true ∧
      buffered.d.translate 0 0 .supervisor .load a = .ok (leaf 0) (0x40000 + i) ∧
      buffered.d.translate 0 0 .supervisor .store a = .ok (leaf 0) (0x40000 + i)) ∧
    (∀ i, i < 8 + 64 * 1 → buffered.d.SettledAt (leaf 0) (0x40000 + i)) ∧ buffered.d.mem.stores = [] ∧ buffered.d.holdsAny 0 = false ∧
    buffered.d.valueAt none 0x40000 8 = 1 := by unfold Dev.SettledAt Dev.Settled; decide +kernel
theorem witness_ControlRegisterWrites : let x := ((withS [(2, 0x55)] core).d.rd 2).toNat
    x % 4 ≤ 1 ∧ x / 16 % 4 ≤ 1 := by decide +kernel
theorem witness_StatusWritesAreChecked : (encode (.cwrStatus 2)).isSome = true ∧ CanTrap user ∧ user.d.core.status.pl = .user ∧
    CanTrap (ops 2 0) ∧ (ops 2 0).d.core.status.pl = .supervisor ∧ 2 ≤ ((ops 2 0).d.rd 2).toNat % 4 ∧
    2 ≤ ((ops 0x30 0).d.rd 2).toNat / 16 % 4 := by unfold CanTrap; decide +kernel
theorem witness_PrivilegedInstructionsTrap : CanTrap user ∧ user.d.core.status.pl = .user ∧
    [Instr.eret, .cwrStatus 2, .monitorAndWait true .dev 5 2 7, .reseed 3, .seedset 3 2, .qabort 1, .tclose 3 4 17, .cinit .rel .dev 2 5,
      .fcut 3 6 17, .ctsel 6 2, .proof 3 7, .orph true 1 2, .xinv 0 2, .xinva 0, .crd 1 .tvec, .cwr .kscr 1].all
      (fun i => supervisorOnly i && (encode i).isSome) = true := by unfold CanTrap; decide +kernel

/-- A core with an asynchronous cause pending and IE set. -/
def pending (i : Ipend) (u : List Uncorr) : State :=
  user fun c => { c with status := { c.status with ie := true }, ipend := i, uncorr := u }
theorem witness_NopAndHalt : core.d.core.gang = none ∧ (pending { Ipend.reset with stop := true } []).d.core.ipend.stop = true := by decide +kernel
theorem witness_AsynchronousCauses :
    (let s := pending Ipend.reset [{ faddr := 8, place := 5, lost := true }]
     s.d.memoriesOk = true ∧ s.d.causeDue = true ∧ s.d.core.frame = none) ∧
    (let s := pending { Ipend.reset with stop := true, minima := true } []
     s.d.memoriesOk = true ∧ s.d.causeDue = true ∧ s.d.core.uncorr = []) ∧
    (let s := pending { Ipend.reset with preempt := true } []
     s.d.causeDue = true ∧ s.d.core.ipend.stop = false ∧ s.d.core.ctxbuf = 0) ∧
    ((pending { Ipend.reset with preempt := true } []).d.causeDue = true ∧ (user fun c => { c with ctxbuf := 0x10000 }).d.core.ctxbuf ≠ 0) ∧
    (pending { Ipend.reset with minima := true } []).d.causeDue = true := by decide +kernel
/-- A refused write that a cluster holds. -/
def refused (reported : Bool) : Orphan :=
  { owner := 0, core := 0, level := .user, va := 0x10008, kid := { kid := 7, launch := none }, red := none, bytes := [1], reported := reported }
theorem witness_AsynchronousCauses_orphan :
    let s := withCluster (fun c => { c with orphans := [refused true, refused false, refused false] }) (pending { Ipend.reset with orphan := true } [])
    s.d.memoriesOk = true ∧ s.d.causeDue = true ∧ s.d.core.frame = none ∧ s.d.core.uncorr = [] ∧
    s.d.clusters[(0 : Fin 32)].orphans = [refused true] ++ refused false :: [refused false] ∧ (refused false).owner = s.d.owner := by
  decide +kernel
/-- Core 0 waits at pc 0x10000 in the word that is there. -/
def waitsIn (w : Word32) (c : Core → Core := id) : State :=
  warm 0x10000 (withMem (fun m => { m with hbm := Memory.write [] 0x40000 (wordBytes w) })
    (page 0 (core fun x => c { x with pc := 0x10000, stall := 4 })))
theorem witness_AsynchronousCauses_waits : ∀ i ∈ [(Sum.inl (.seal 3 2) : Instr ⊕ Late), .inl (.unseal 3 2)], ∃ w,
    encode (match i with | .inl i => i | .inr _ => .nop) = some w ∧ (waitsIn w).d.core.gang = none ∧ (waitsIn w).d.core.stall ≠ 0 ∧
    (waitsIn w).d.waitingInstr = some i := by
  intro i h
  rcases List.mem_cons.mp h with rfl | h
  · exact ⟨_, rfl, by decide +kernel⟩
  · rcases List.mem_cons.mp h with rfl | h
    · exact ⟨_, rfl, by decide +kernel⟩
    · cases h
theorem witness_CausesArePosted : core.d.memoriesOk = true ∧ ((core.d.coreAt 4063).uncorr.length < 16 ∧ 4063 % 128 < 96) ∧
    (let s := core fun c => { c with uncorr := List.replicate 15 { faddr := 0, place := 0, lost := false } ++ [{ faddr := 1, place := 5, lost := false }] }
     16 ≤ (s.d.coreAt 0).uncorr.length) := by decide +kernel

-- Memory.

/-- Owner o has a page table whose first entries of each level, from 0x100000 on, lead to the leaf of the page at 0. -/
def tabled (o : Nat) (bits : Word) (s : State) : State :=
  withMem (fun m => { m with hbm := Memory.write (Memory.write (Memory.write (Memory.write [] 0x100000 (leBytes 8 0x110001))
    0x110000 (leBytes 8 0x120001)) 0x120000 (leBytes 8 0x130001)) 0x130000 (leBytes 8 (leaf bits).toNat) })
    (s.withDev (s.d.setOwner o { Owner.system with root := some 0x100000 }))

/-- A core whose s2 is in the mapped page. -/
def atPage (bits : Word) (off : Word := 0) : State := withS [(2, 0x10000 + off)] (page bits core)

theorem witness_LoadsFromMemory :
    (atPage 0 0xFF0).d.Reaches .load ((atPage 0 0xFF0).d.rd 2 + BitVec.ofInt 64 (0 : Int)) 16 (leaf 0) 0x40FF0 ∧
    (atPage 0 0xFF0).d.SettledAt (leaf 0) 0x40FF0 ∧ (4 : SReg).toNat % 2 = 0 ∧ (atPage 0 0xFF0).d.badAt none 0x40FF0 16 = none ∧
    pteDec (leaf 0) = false := by
  unfold Dev.Reaches Dev.SettledAt Dev.Settled; decide +kernel
theorem witness_LoadsFromMemory_held : let s := held (atPage 0)
    s.d.Reaches .load (s.d.rd 2 + BitVec.ofInt 64 (0 : Int)) 16 (leaf 0) 0x40000 ∧ (s.d.l1For 0 (some 0) none 0x40000 16).isSome = true ∧
    s.d.badAt none 0x40000 16 = none := by unfold Dev.Reaches; decide +kernel
theorem witness_StoresToMemory : (atPage 0 0xFFF).d.Reaches .store 0x10FFF 1 (leaf 0) 0x40FFF ∧ pteDec (leaf 0) = false ∧
    (atPage 0).d.holdsAny 0 = false ∧ (atPage 0).d.memoriesOk = true := by unfold Dev.Reaches; decide +kernel
/-- A copy of the mapped page's first 32 bytes in the L1 of core 0, or in its slice. -/
def copy (l1 : Option Nat) : SliceCopy :=
  { cluster := 0, core := l1, code := false, owner := 0, dev := none, base := 0x40000, size := 32, gen := 0, tracked := true, cell := false
    bytes := List.replicate 32 0x11 }
theorem witness_CachesSupply :
    (let s := withMem (fun m => { m with copies := [copy (some 0)] }) (atPage 0 8)
     (∀ r ∈ s.d.mem.stores, r.dev = none → overlap 0x40008 8 r.pa r.bytes.length = false) ∧ pteDec (leaf 0) = false ∧
     s.d.Reaches .load (s.d.rd 2 + BitVec.ofInt 64 0) 8 (leaf 0) 0x40008 ∧ s.d.l1For 0 (some 0) none 0x40008 8 = some (copy (some 0)) ∧
     s.d.badAt none 0x40008 8 = none) ∧
    (let s := withMem (fun m => { m with copies := [copy none] }) (atPage 0 8)
     s.d.l1For 0 (some 0) none 0x40008 8 = none ∧ s.d.copyFor 0 none 0x40008 8 = some (copy none)) := by unfold Dev.Reaches; decide +kernel
theorem witness_ScratchpadIsAccessed : let s := withS [(2, 0x00FFFF000FE00000 + 262128)] core
    s.d.memoriesOk = true ∧ s.d.rd 2 = u64 (0x00FFFF000FE00000 + 262128) ∧ 262128 + 16 ≤ 262144 ∧ 262128 % 16 = 0 ∧ s.d.core.pad.bad = [] ∧
    s.d.core.status.pl = .supervisor := by decide +kernel
/-- Granule 1 of the own scratchpad is full, granule 2 is empty. -/
def halfFull (o : Nat) : State := withS [(2, u64 (0x00FFFF000FE00000 + o))] (core fun c => { c with pad := { c.pad with gens := [(0, 0)], full := [1] } })
theorem witness_FullEmptyAccesses : (∀ o ∈ [16, 32], let s := halfFull o
    s.d.memoriesOk = true ∧ s.d.rd 2 + s.d.rd 0 = u64 (0x00FFFF000FE00000 + o) ∧ o + 16 ≤ 262144 ∧ o % 16 = 0 ∧ s.d.core.pad.bad = [] ∧
    s.d.core.status.pl = .supervisor) ∧ (halfFull 16).d.core.pad.isFull (halfFull 16).d.gen 1 = true ∧
    (halfFull 32).d.core.pad.isFull (halfFull 32).d.gen 2 = false := by decide +kernel
theorem witness_SaveAreaIsGuarded : let s (o : Nat) := withS [(2, u64 (0x00FFFF0000000000 + 127 * 2 ^ 21 + o))] (user fun c => { c with savearea := 0x100000 })
    (∀ o ∈ [1016, 1024], (s o).d.memoriesOk = true ∧ (s o).d.rd 2 + BitVec.ofInt 64 0 = u64 (0x00FFFF0000000000 + 127 * 2 ^ 21 + o) ∧
      o + 8 ≤ 262144 ∧ o % 8 = 0 ∧ (s o).d.core.status.pl = .user ∧ (s o).d.core.savearea.toNat / 2 ^ 10 % 2 ^ 8 * 1024 = 0 ∧
      (s o).d.core.savearea.toNat / 2 ^ 20 % 2 ^ 8 * 1024 = 1024 ∧ CanTrap (s o) ∧ (s o).d.core.pad.bad = []) ∧ 1016 < 0 + 1024 ∧
    ¬ 1024 < 0 + 1024 := by unfold CanTrap; decide +kernel
theorem witness_MisalignedAccessesTrap : CanTrap (atPage 0 1) ∧ ((atPage 0 1).d.rd 2).toNat % 2 ≠ 0 := by unfold CanTrap; decide +kernel
theorem witness_PageChecks :
    (let s := withS [(2, 0x0100000000000000)] core
     inLocalRange (s.d.rd 2) = false ∧ canonical (s.d.rd 2) = false ∧ (s.d.rd 2).toNat % 8 = 0) ∧
    (∃ n, core.d.leafFor 0 0 0 = .fails n ∧ n < 8) ∧ canonical 0 = true ∧
    (atPage 0).d.leafFor 0 0 0x10000 = .leaf (leaf 0) 4 ∧ pteMig (leaf 0) = false ∧ ((atPage 0).d.tlbLookup 0 0 0x10000).isSome = true ∧
    (let s := withCluster (fun c => { c with tlb := [{ owner := 0, gen := 0, va := 0x10000, size := 4096, leaf := 0x4000B, level := 4 }] }) user
     s.d.leafFor 0 0 0x10000 = .leaf 0x4000B 4 ∧ pteUsr 0x4000B = false ∧ pteW 0x4000B = false) ∧
    pteW (leaf 0x400) = true ∧ pteSl (leaf 0x400) = true := by
  refine ⟨by decide +kernel, ⟨1, by decide +kernel⟩, by decide +kernel⟩
theorem witness_PageChecks_walk : let s := tabled 0 0 core
    s.d.leafFor 0 0 0 = .leaf (leaf 0) 4 ∧ s.d.tlbLookup 0 0 0 = none ∧ canonical 0 = true ∧ inLocalRange 0 = false := by decide +kernel
theorem witness_MigratingPagesHold :
    (let s := atPage 0x40
     (s.d.rd 2).toNat % 8 = 0 ∧ canonical (s.d.rd 2) = true ∧ (s.d.tlbLookup 0 0 (s.d.rd 2)).isSome = true ∧
     s.d.leafFor 0 0 (s.d.rd 2) = .leaf (leaf 0x40) 4 ∧ pteMig (leaf 0x40) = true ∧
     (∀ h ∈ s.d.clusters[(0 : Fin 32)].hold, h.isWaitOf 0 = false) ∧ s.d.clusters[(0 : Fin 32)].hold.length < 64) ∧
    64 ≤ (withCluster (fun c => { c with hold := List.replicate 64 (.wait 5 0) }) (atPage 0)).d.clusters[(0 : Fin 32)].hold.length := by
  decide +kernel
theorem witness_AtomicResults : (atPage 0 0xFF0).d.Reaches .store ((atPage 0 0xFF0).d.rd 2) 16 (leaf 0) 0x40FF0 ∧
    (atPage 0 0xFF0).d.SettledAt (leaf 0) 0x40FF0 ∧ pteDec (leaf 0) = false ∧ (atPage 0 0xFF0).d.memoriesOk = true := by
  unfold Dev.Reaches Dev.SettledAt Dev.Settled; decide +kernel
theorem witness_ReductionsAreAccepted : (atPage 0).d.Reaches .store ((atPage 0).d.rd 2) (Ty.i64.bits / 8) (leaf 0) 0x40000 ∧
    (atPage 0).d.mem.stores = [] := by unfold Dev.Reaches; decide +kernel
theorem witness_AtomicsInTheScratchpad : let s := withS [(2, 0x00FFFF000FE00000 + 262136)] core
    s.d.memoriesOk = true ∧ s.d.rd 2 = u64 (0x00FFFF000FE00000 + 262136) ∧ 262136 + 8 ≤ 262144 ∧ 262136 % 8 = 0 ∧ Ty.i64.bits / 8 = 8 ∧
    s.d.core.pad.bad = [] ∧ s.d.core.status.pl = .supervisor ∧ s.d.holdsAny 0 = false ∧ s.d.Clear := by unfold Dev.Clear; decide +kernel
/-- A region of one store, ALRS.D s3, at pc 0x10000. -/
def region : State := warm 0x10004 <| withMem (fun m => { m with hbm := Memory.write (Memory.write (Memory.write [] 0x40004
    (wordBytes (0x11#6 ++ 3#5 ++ 2#5 ++ 3#3 ++ 0#13))) 0x40008 (wordBytes (0x16#6 ++ 0#10 ++ 1#6 ++ 0#10))) 0x4000C (wordBytes 0xBC000000) })
    (withS [(2, 0x10080)] (page 0 (core fun c => { c with pc := 0x10000 })))
theorem witness_RegionsAreAtomic : region.d.memoriesOk = true ∧ (match region.d.regionBody 16 (region.d.core.pc + 4) [] with
    | .ok (body, true) => decide (body ≠ []) && decide (region.d.regionReason 2 body = none)
    | _ => false) = true ∧ region.d.heldOver 0 0x10080 128 = false ∧
    region.d.translate 0 0 .supervisor .store 0x10080 = .ok (leaf 0) 0x40080 ∧ 0x40080 % 128 = 0 ∧ region.d.Settled none 0x40080 128 := by
  unfold Dev.Settled; decide +kernel
/-- An empty region at pc 0x10000. -/
def emptyRegion : State := warm 0x10004 <| withMem (fun m => { m with hbm := Memory.write [] 0x40004 (wordBytes (0x16#6 ++ 0#10 ++ 1#6 ++ 0#10)) })
  (page 0 (core fun c => { c with pc := 0x10000 }))
theorem witness_RegionsAreAtomic_empty : emptyRegion.d.regionBody 16 (emptyRegion.d.core.pc + 4) [] = .ok ([], true) ∧
    emptyRegion.d.holdsAny 0 = false ∧ region.d.badAt none 0x40080 128 = none := by decide +kernel
theorem witness_BodiesRunInOrder : (List.replicate 128 (0 : Byte)).length = 128 ∧
    ((0x10078 : Word) + BitVec.ofInt 64 0 - 0x10000).toNat + 8 ≤ 128 ∧ (ops 9 0).d.rd 3 = 0 ∧ (ops 9 0).d.rd 2 ≠ 0 ∧
    (regionAlu core.d (.add 4 2 3)).isSome = true := by decide +kernel
theorem witness_FencesOrder : core.d.core.matrix = [] ∧ core.d.holdsAny 0 = false := by decide +kernel

theorem witness_SealsPages : let s := tabled 0 0 (withS [(3, 4096)] core)
    let w := Dev.sealWalks 4096 1 0 s.d
    s.d.memoriesOk = true ∧ (s.d.rd 2).toNat % 4096 = 0 ∧ s.d.rd 3 = 4096 ∧ canonical 0 = true ∧ w.walk 0 0 = .leaf (leaf 0) 4 ∧
    pteMig (leaf 0) = false ∧ pteW (leaf 0) = true ∧ pteRmt (leaf 0) = false ∧ pteDec (leaf 0) = false ∧ s.d.mem.stores = [] ∧
    s.d.mem.partials = [] ∧ (∀ k : Fin 32, s.d.clusters[k].hold = []) ∧ w.replicas 0 0 = [0x130000] := by decide +kernel
theorem witness_TranslationsAreInvalidated : (page 0 core).d.core.status.pl = .supervisor ∧
    (∀ k : Fin 32, (page 0 core).d.clusters[k].hold = []) ∧ (encode (.xinv 1 2)).isSome = true ∧ CanTrap core := by
  unfold CanTrap; decide +kernel
theorem witness_CopiesAreManaged : inLocalRange 0x10000 = false ∧
    ((page 0x0001000000000800 core).d.pageWalk 0 0x10000).leafFor 0 0 0x10000 = .leaf (leaf 0x0001000000000800) 4 ∧ pteRmt (leaf 0x0001000000000800) = true ∧
    ((page 0 core).d.pageWalk 0 0x10000).translateNow 0 0 .supervisor .load 0x10000 = .ok (leaf 0) 0x40000 ∧
    ((page 0 core).d.pageWalk 0 0x10000).Settled none 0x40000 32 ∧ canonical 0x10000 = true ∧ core.d.mem.copies = [] ∧
    (core.d.pageWalk 0 0x10000).translateNow 0 0 .supervisor .load 0x10000 = .fault 0x04 1 := by unfold Dev.Settled; decide +kernel
theorem witness_OrphanedWrites : core.d.core.status.pl = .supervisor := by rfl


-- The format windows: the region 0x0418_0070_0100_1000 of the spec, one line of 32-element blocks with eight planes.
def region8 : Region := { base := 0x1000, stride := 64, w := 8, sbase := 0x1800, kind := 1, rnd := 0 }
/-- Descriptor 2 holds it, and s2 has an address in a window of the own scratchpad. -/
def viewing (win o : Nat) : State :=
  let s := withS [(2, u64 (0x00FFFF000FE00000 + 2 ^ 18 * win + o)), (3, 0x40400000)] core
  s.withDev (s.d.wrD 2 0x0418007001001000)
theorem forall_bv4 {p : BitVec 4 → Prop} (h : ∀ n : Fin 16, p (BitVec.ofFin n)) : ∀ m, p m := fun m => h m.toFin
theorem viewing_rdD (win o : Nat) (m : BitVec 4) : (viewing win o).d.rdD m = (core.d.wrD 2 0x0418007001001000).rdD m := rfl
theorem viewing_inView (win o : Nat) (h : 1 ≤ win ∧ win ≤ 7 ∧ win ≠ 6) :
    (viewing win o).d.InView (u64 (0x00FFFF000FE00000 + 2 ^ 18 * win + o)) win o 2 region8 :=
  ⟨h.1, h.2.1, fun e => absurd e h.2.2, rfl, rfl, .inl rfl, by unfold Region.Valid; decide +kernel,
    by rw [viewing_rdD]; decide +kernel,
    forall_bv4 fun n h => .inl (by rw [viewing_rdD]; revert n; decide +kernel)⟩
theorem witness_WindowsShowElements : 0x11A0 = region8.base + 104 * region8.halves 1 / 2 ∧ 104 < 32 * region8.blocks * region8.size ∧
    0x1034 = region8.base + 104 * region8.halves 5 / 2 ∧ region8.halves 5 = 1 ∧ 104 % 2 = 0 := by decide +kernel
theorem witness_WindowsShowElements_view : (viewing 1 0x11A0).d.InView (u64 (0x00FFFF000FE00000 + 2 ^ 18 * 1 + 0x11A0)) 1 0x11A0 2 region8 ∧
    (viewing 5 0x1034).d.InView (u64 (0x00FFFF000FE00000 + 2 ^ 18 * 5 + 0x1034)) 5 0x1034 2 region8 ∧
    (∀ k : BitVec 4, (core.d.rdD k).toNat / 2 ^ 58 % 16 = 0) :=
  ⟨viewing_inView 1 _ (by decide), viewing_inView 5 _ (by decide), forall_bv4 (by decide +kernel)⟩
theorem witness_WindowsEncodeBlocks : (viewing 1 0x11A0).d.rd 2 + BitVec.ofInt 64 0 = u64 (0x00FFFF000FE00000 + 2 ^ 18 * 1 + 0x11A0) ∧
    (viewing 1 0x11A0).d.memoriesOk = true ∧
    96 % region8.size = 0 ∧ 96 < 32 * region8.blocks * region8.size ∧ region8.base + 96 * region8.halves 1 / 2 ≤ 0x11A0 ∧
    0x11A0 + 4 ≤ min 262144 (region8.base + (96 + region8.size) * region8.halves 1 / 2) ∧
    ¬ (region8.origin 96 ≤ region8.sbase + 96 / region8.size ∧ region8.sbase + 96 / region8.size < region8.origin 96 + region8.bb) := by
  decide +kernel
-- The spec's example: st.w of 3.0 to element 104 gives scale 0x80 and planes 1 and 2, and reads as 0x44 in W3 and 0x60 in W7.
theorem test_window_store : after (.st .w 3 2 0) (viewing 1 0x11A0) (fun t =>
    let byte (i : Nat) : Byte := t.d.core.pad.get t.d.gen i
    decide (byte 0x1803 = 0x80 ∧ byte 0x1065 = 1 ∧ byte 0x1069 = 1 ∧ byte 0x1064 = 0 ∧ byte 0x106D = 0)) = true := by decide +kernel
theorem test_window_loads : after (.st .w 3 2 0) (viewing 1 0x11A0) (fun t =>
    after (.ld .bz 4 2 0) (withS [(2, u64 (0x00FFFF000FE00000 + 2 ^ 18 * 3 + 0x1068))] t) (fun u => decide (u.d.rd 4 = 0x44)) &&
    after (.ld .bz 4 2 0) (withS [(2, u64 (0x00FFFF000FE00000 + 2 ^ 18 * 7 + 0x1068))] t) (fun u => decide (u.d.rd 4 = 0x60))) = true := by
  decide +kernel
-- Vectors, frames and matrices.

theorem witness_PermutesMoveElements : (8 : VReg).toNat % 8 = 0 := by decide
theorem witness_PredicateResults : Ty.isInt .i32 = true ∧ Ty.isInt .f16 = false ∧ Ty.f16 ≠ .e2m1 := by decide
theorem witness_ReductionsOfVectors : 2 ^ 6 = lanes (Ty.bits .i32) ∧ 2 ^ 6 = lanes (fpWidth .f32) ∧ Ty.isInt .i32 = true := by decide +kernel
theorem witness_VectorConversions : (Instr.vcvt .i8 .i32 .rne 3 0 1 2).wf = true ∧ (Instr.vcvt .f32 .i16 .rup 1 0 1 2).wf = true ∧
    (Instr.vcvt .f16 .f16 .rtz 0 0 1 2).wf = true := by decide
/-- Elements of a vector load, 4 bytes each, at the end of the own scratchpad, all of them full. -/
def atPad : State := withS [(2, 0x00FFFF000FE00000 + 261888)] (core fun c => { c with pad := { c.pad with gens := [(0, 0)], full := List.range' 16368 16 } })
theorem witness_VectorScratchpad : atPad.d.memoriesOk = true ∧ atPad.d.core.pad.bad = [] ∧ atPad.d.core.status.pl = .supervisor ∧
    ∀ i, i < lanes 32 → atPad.d.rd 2 + atPad.d.rd 0 + u64 (i * 4) = u64 (0x00FFFF000FE00000 + (261888 + 4 * i)) ∧
      261888 + 4 * i + 4 ≤ 262144 ∧ (261888 + 4 * i) % 4 = 0 ∧ atPad.d.core.pad.isFull atPad.d.gen ((261888 + 4 * i) / 16) = true := by
  decide +kernel
theorem witness_VectorDeviceMemory : ∀ i, i < lanes 32 → ∀ kind ∈ [AccessKind.load, .store],
    (atPage 0).d.Reaches kind ((atPage 0).d.rd 2 + (atPage 0).d.rd 0 + u64 (i * 4)) 4 (leaf 0) (0x40000 + 4 * i) := by
  unfold Dev.Reaches; decide +kernel
theorem witness_VectorDeviceMemory_settled : ∀ i, i < lanes 32 → (atPage 0).d.on 0 32 i = true ∧ pteDec (leaf 0) = false ∧
    (atPage 0).d.badAt none (0x40000 + 4 * i) 4 = none ∧ (atPage 0).d.SettledAt (leaf 0) (0x40000 + 4 * i) := by
  unfold Dev.SettledAt Dev.Settled; decide +kernel
/-- A FRAME at pc 0x10000 over one VADD.I32. -/
def framed : State := warm 0x10004 <| withMem (fun m => { m with hbm := Memory.write [] 0x40004 (wordBytes (0x1C#6 ++ 1#5 ++ 2#5 ++ 3#5 ++ 0#3 ++ 0x00#5 ++ 2#3)) })
  (page 0 (core fun c => { c with pc := 0x10000 }))
theorem witness_FrameCapturesItsBody : framed.d.core.frame = none ∧
    framed.d.fetchAt .supervisor 0x10004 0x10004 = .ok (0x1C#6 ++ 1#5 ++ 2#5 ++ 3#5 ++ 0#3 ++ 0x00#5 ++ 2#3) ∧
    decodeWord (0x1C#6 ++ 1#5 ++ 2#5 ++ 3#5 ++ 0#3 ++ 0x00#5 ++ 2#3) = .ok (.inl (.vadd .i32 0 1 2 3)) ∧
    isVector framed.d (.vadd .i32 0 1 2 3) = true := by decide +kernel
/-- A FRAME with two replays of one instruction outstanding, captured with a first scalar source. -/
def replaying (i : Instr) (ra : Word := 0) : State := core fun c => { c with
  frame := some { addr := 0, count := 2, sv := 1, sp := 0, body := [{ instr := i, ra := ra, rb := 0 }], rep := 0, pos := 0, saved := none } }
/-- The first replay of an instruction, and the state with its scalar sources in s1 and s2. -/
def replayOk (i : Instr) (ra : Word) : Bool :=
  let u := withS [(1, ra)] (replaying i ra)
  decide (u.d.rd 1 = ra + movedBase 0 0 i ∧ u.d.rd 2 = 0) && (match moved (fun n => n + 0) (fun n => if n = 0 then 0 else n + 0) i with
    | some j => after j u fun w => decide (w.d.core.traps = u.d.core.traps ∧ w.d.core.pc = u.d.core.pc + 4)
    | none => false)
theorem witness_FrameReplays : ∀ i ∈ [Instr.vfadd .f32 0 1 2 3, .vfma .f32 0 1 2 3 4, .vadd .i32 0 1 2 3, .vlift .w 0 1 2 3,
    .vceq .i32 0 1 2 3, .pcnt .i32 4 1, .vdraw 1 2 3], replayOk i 0 = true := by decide +kernel
-- A load with ADV and a store of a FRAME in the own scratchpad.
theorem witness_FrameReplays_memory : ∀ i ∈ [Instr.vld .w .none true 0 1 2 0, .vst .w .none false 0 1 2 0],
    replayOk i 0x00FFFF000FE00000 = true := by decide +kernel
/-- The sequencer holds one instruction that a core handed on, which names s1 and s2 as its scalar sources. -/
def handedOn (i : Instr) : State := core fun c => { c with
  sequencer := [{ addr := 0x10000, body := { instr := i, ra := 1, rb := 2 }, saved := c.s }] }
/-- The state with the scalar sources of the instruction in s1 and s2. -/
def handedSources (i : Instr) : State := withS [(1, 1), (2, 2)] (handedOn i)
theorem witness_VectorsAreHandedOn : (let i := Instr.vadd .i32 0 1 2 3
    let s := handedOn i
    let u := handedSources i
    s.d.core.frame = none ∧ s.d.core.sequencer.length = 1 ∧ moved id id i = some i ∧ scalarWritten i = none ∧ u.d.rd 1 = 1 ∧ u.d.rd 2 = 2 ∧
    s.d.core.status.cons = true ∧
    after i u (fun w => decide (w.d.core.traps = s.d.core.traps ∧ w.d.core.pc = u.d.core.pc + 4)) = true) ∧
    -- a load whose address does not translate traps
    after (.vld .w .none false 0 1 2 0) (handedSources (.vld .w .none false 0 1 2 0)) (fun w => decide (w.d.core.traps ≠ core.d.core.traps ∧ w.d.core.epc = 0x10000)) = true := by
  decide +kernel
/-- Core 0 runs at a word, behind one instruction that the sequencer holds. -/
def behind (w : Word32) : State := waitsIn w fun c => { c with
  stall := 0, sequencer := [{ addr := 0x10000, body := { instr := .vadd .i32 0 1 2 3, ra := 0, rb := 0 }, saved := c.s }] }
-- ADD, VADD.I32, TRAP, and a word that is no instruction.
theorem witness_CoresRunAhead : let s := behind 0xBC000401
    s.inputs = [] ∧ s.d.coreOn = true ∧ s.d.dueMember = none ∧ s.d.core.run = .running ∧ s.d.core.gang = none ∧ s.d.core.leaving = false ∧
    ¬ s.Quiet ∧ s.d.core.frame = none ∧ s.d.fetch = .ok 0xBC000401 := by decide +kernel
theorem witness_CoresRunAhead_fetch : (behind 0x04000000).d.fetch = .ok 0x04000000 ∧ (behind 0).d.fetch = .ok 0 ∧
    (behind (0x1C#6 ++ 1#5 ++ 2#5 ++ 3#5 ++ 0#3 ++ 0x00#5 ++ 2#3)).d.fetch = .ok (0x1C#6 ++ 1#5 ++ 2#5 ++ 3#5 ++ 0#3 ++ 0x00#5 ++ 2#3) := by
  decide +kernel
theorem witness_CoresRunAhead_words :
    (1 ≤ (0x04000000 : Word32).toNat / 2 ^ 26 ∧ decode 0x04000000 = .ok (.add 0 0 0)) ∧
    (decode (0x1C#6 ++ 1#5 ++ 2#5 ++ 3#5 ++ 0#3 ++ 0x00#5 ++ 2#3) = .ok (.vadd .i32 0 1 2 3) ∧
      isVector (behind 0).d (.vadd .i32 0 1 2 3) = true ∧ scalarWritten (.vadd .i32 0 1 2 3) = none ∧ (behind 0).d.core.sequencer.length = 1) ∧
    (decode 0xBC000401 = .ok (.trap 1) ∧ 15 < (0xBC000401 : Word32).toNat / 2 ^ 26 ∧ isVector (behind 0).d (.trap 1) = false) ∧
    decode 0 = .error 1 ∧ ((replaying .nop).d.core.frame.map (·.saved)) = some none := by decide +kernel
theorem witness_FrameReplays_end : (1 : Nat) ≤ 1 ∧ ((replaying .nop).d.core.frame.map fun f => decide (f.body.length ≤ f.pos + 1)) = some true := by
  decide +kernel

theorem witness_MatrixEntriesAreQueued : core.d.core.matrix.length < Config.matrixDepth ∧ core.d.core.status.pl = .supervisor ∧
    (core.d.rd 2).toNat % 2 ^ 18 % 64 = 0 := by decide +kernel
theorem witness_BanksSwap : core.d.core.matrix = [] ∧ (core.d.accAt 0).poison = none ∧
    (let s := core fun c => { c with matrix := [{ set := 1, op := .zero }] }
     ∃ e ∈ s.d.core.matrix, e.isMctl = true) := by
  exact ⟨by decide +kernel, by decide +kernel, _, .head _, by decide +kernel⟩
theorem witness_MatrixEntriesAreQueued_full :
    Config.matrixDepth ≤ (core fun c => { c with matrix := List.replicate 16 { set := 1, op := .zero } }).d.core.matrix.length := by decide +kernel
/-- Set 1 is poisoned. -/
def poisoned : State := core fun c => { c with acc := c.acc.set 1 { AccSet.reset with poison := some { desc := 3, block := 7, faddr := 9 } } }
theorem witness_PoisonedSetsReport : CanTrap poisoned ∧ poisoned.d.core.matrix = [] ∧
    (poisoned.d.accAt 1).poison = some { desc := 3, block := 7, faddr := 9 } := by unfold CanTrap; decide +kernel
/-- A valid descriptor of one 32-element block with eight planes a line, and one of a QN4 region. -/
def plane8 : Word := 0x0500007000800000
def qn4 : Word := 0x9900006000800000
/-- An MMA of one block at the head of the queue. -/
def mmaQueued : State := core fun c => { c with
  matrix := [{ set := 1, op := .mma 2 3 1 0 15 false true plane8 plane8 }, { set := 0, op := .zero }] }
theorem witness_MatrixProducts : descOk plane8 = true ∧ (PlaneDesc.ofWord plane8).depth ≤ (15 : BitVec 4).toNat + 1 ∧
    mmaQueued.d.core.matrix.length = 2 ∧ (1 : Word).toNat % 2 ^ 12 = 1 ∧ mmaQueued.d.core.pad.bad = [] ∧ (mmaQueued.d.accAt 1).poison = none := by
  decide +kernel
theorem witness_RowsAreRead : let s := core fun c => { c with matrix := [{ set := 1, op := .row 5 30 }] }
    s.d.core.halt = none ∧ s.d.core.matrix.length = 1 := by decide +kernel
theorem witness_BanksMove : core.d.memoriesOk = true ∧ (262080 : Word).toNat % 64 = 0 ∧ (262080 : Word).toNat < 262144 := by decide +kernel
/-- A valid descriptor value at the end of the own scratchpad, its address in s2. -/
def padded : State := withS [(2, 0x00FFFF000FE00000 + 262136)]
  (core fun c => { c with pad := { c.pad with bytes := Memory.write [] 262136 (leBytes 8 plane8.toNat), gens := [(16383, 0)] } })
theorem witness_DescriptorsAreSet_pad : let s := padded
    s.d.rd 2 + s64 (8 * (0 : BitVec 10).toInt) = u64 (0x00FFFF000FE00000 + 262136) ∧ 262136 + 8 ≤ 262144 ∧ 262136 % 8 = 0 ∧
    s.d.core.pad.bad = [] ∧ s.d.core.status.pl = .supervisor ∧ CanTrap s ∧
    descOk (u64 ((List.range 8).map fun i => (s.d.core.pad.get s.d.gen (262136 + i)).toNat * 256 ^ i).sum) = true ∧
    descOk (u64 ((List.range 8).map fun i => (s.d.core.pad.get s.d.gen (262128 + i)).toNat * 256 ^ i).sum) = true := by unfold CanTrap; decide +kernel
theorem witness_DescriptorsAreSet : descOk plane8 = true ∧ descOk (plane8 ||| 0xF) = false ∧
    (let s := withMem (fun m => { m with hbm := Memory.write [] 0x40FF8 (leBytes 8 (plane8 : Word).toNat) }) (atPage 0 0xFF8)
     s.d.Reaches .load 0x10FF8 8 (leaf 0) 0x40FF8 ∧ s.d.SettledAt (leaf 0) 0x40FF8 ∧ descOk (u64 (s.d.valueAt none 0x40FF8 8)) = true) := by
  unfold Dev.Reaches Dev.SettledAt Dev.Settled; decide +kernel
theorem witness_ScalesAreWritten :
    (let s := core.withDev (core.d.wrD 2 plane8)
     s.d.memoriesOk = true ∧ (PlaneDesc.ofWord (s.d.rdD 2)).kind ≠ 0 ∧ 0 < 32 * (PlaneDesc.ofWord (s.d.rdD 2)).nblk) ∧
    (PlaneDesc.ofWord (core.d.rdD 2)).kind = 0 ∧ (PlaneDesc.ofWord qn4).kind = 6 ∧ 0 < (32 * (PlaneDesc.ofWord qn4).nblk + 255) / 256 := by
  decide +kernel

-- Ports, units and tasks.

/-- A command: kind, scope, length and tag in word 0, then the other words. -/
def command (kind len : Nat) (a b strides : Word) : Command :=
  { words := #v[BitVec.ofNat 64 (kind + 2 ^ 12 * len), a, b, strides], level := .supervisor, task := none, kid := { kid := 0, launch := none }
    started := false, rowsDone := 0, low := [], result := none }
/-- Port 0 holds a command, and an element. -/
def ported (l : List Command) (e : List Element) : State := core fun c => { c with port := c.port.set 0 { commands := l, done := e } }
theorem witness_PortInstructions : (4 : SReg).toNat % 2 = 0 ∧ (ported [] []).d.holdsAny 0 = false ∧ (ported [] []).d.mem.stores = [] ∧
    ((0 : Word).toNat % 256 = 0 ∧ (0xB : Word).toNat % 256 ≠ 0) ∧
    (ported [] [{ lo := 0, hi := 0xB }]).d.core.port[(0 : Fin 4)].done = [{ lo := 0, hi := 0xB }] ∧ CanTrap (ported [] []) ∧
    (ported [command 2 16 0 0 0] []).d.core.yielded = [] ∧
    ∀ n : Fin 4, (ported [command 2 16 0 0 0] []).d.core.port[n].done.length + 1 ≤ 16 := by unfold CanTrap; decide +kernel
/-- A row of 16 bytes from the start of the own scratchpad to its last 16 bytes. -/
def moves (kind : Nat) : State := ported [command kind 16 0x00FFFF000FE00000 (if kind = 1 then 262128 else 0x00FFFF000FE00000 + 262128) 0] []
theorem witness_CommandsMoveBytes : ∀ kind, kind < 3 →
    let c := command kind 16 0x00FFFF000FE00000 (if kind = 1 then 262128 else 0x00FFFF000FE00000 + 262128) 0
    (moves kind).d.memoriesOk = true ∧ c.malformed = false ∧ c.misaligned = false ∧ 0 < c.len ∧ 262128 + (c.rows - 1) * c.dstr + c.len ≤ 262144 ∧
    c.rows = 1 ∧ c.level = .supervisor ∧ (moves kind).d.core.pad.bad = [] ∧ (moves kind).d.holdsAny 0 = false ∧ (moves kind).d.mem.stores = [] ∧
    c.nc = false ∧ c.kind = kind ∧ 0 + (c.rows - 1) * c.sstr + c.len ≤ 262128 ∧ (kind = 1 → (c.dw 2).toNat % 2 ^ 21 = 262128) := by
  decide +kernel
theorem witness_CommandsMoveBytes_ports : ∀ kind, kind < 3 → (moves kind).d.core.halt = none ∧ (moves kind).d.core.yielded = [] ∧
    (∀ p : Fin 4, p ≠ 0 → (moves kind).d.core.port[p].commands = []) ∧ (moves kind).d.core.port[(0 : Fin 4)].done.length < 16 := by decide +kernel
theorem witness_CommandsReachMemory :
    (let c := command 0 16 0x10000 0x00FFFF000FE00010 0
     c.malformed = false ∧ c.misaligned = false ∧ c.len = 16 ∧ c.rows = 1 ∧ c.nc = false ∧ c.kind = 0 ∧
     c.dw 2 = u64 (0x00FFFF000FE00000 + 16) ∧ (c.dw 1).toNat < 2 ^ 60 ∧ inLocalRange (c.dw 1) = false) ∧
    (page 0 (ported [command 0 16 0x10000 0x00FFFF000FE00010 0] [])).d.translate 0 0 .supervisor .load 0x10000 = .ok (leaf 0) 0x40000 ∧
    (page 0 (ported [command 0 16 0x10000 0x00FFFF000FE00010 0] [])).d.SettledAt (leaf 0) 0x40000 ∧
    (let c := command 0 16 0x00FFFF000FE00010 0x10000 0
     c.malformed = false ∧ c.misaligned = false ∧ wideScope c.scope = false ∧ c.dw 1 = u64 (0x00FFFF000FE00000 + 16) ∧
     (page 0 (ported [c] [])).d.translate 0 0 .supervisor .store 0x10000 = .ok (leaf 0) 0x40000 ∧ (page 0 (ported [c] [])).d.mem.stores = []) := by
  unfold Dev.SettledAt Dev.Settled; decide +kernel
theorem witness_CommandsMoveBytes_targets : ∀ n, n < 96 → ((moves 1).d.coreAt n).savearea = 0 := by decide +kernel
theorem witness_BadCommandsEnd : (command 3 16 0 0 0).malformed = true ∧ 2 < (command 3 16 0 0 0).kind ∧ (command 0 8 0 0 0).misaligned = true ∧
    (command 1 16 0 0x800000000 0).malformed = true ∧ (command 2 16 0 8 0).misaligned = true := by decide +kernel

/-- Cluster 0's unit with barrier 5. -/
def barrier (x : Barrier) (s : State := core) : State := withCluster (fun c => { c with unit := { c.unit with barriers := [(5, x)] } }) s
/-- A barrier in use that expects n. -/
def inUse (n : Nat) : Barrier := { Barrier.reset with cfg := BitVec.ofNat 64 (2 ^ 63 + 3 * 2 ^ 56 + 2 ^ 40 + n) }
theorem witness_BarrierArrivals : (inUse 2).en = true ∧ (inUse 2).expect = 2 ∧
    ((core.d.clusters[(0 : Fin 32)]).unit.barrier 5).en = false ∧ (barrier (inUse 2)).d.holdsAny 0 = false ∧
    (1 ≤ ((1 : BitVec 32).toNat + 2 ^ 32 - 0) % 2 ^ 32 ∧ ((1 : BitVec 32).toNat + 2 ^ 32 - 0) % 2 ^ 32 < 2 ^ 31) := by decide +kernel
def barMsg : BarMsg := { owner := 0, src := { unit := { dev := 0, cluster := 1 }, bar := 1 }, dst := { unit := { dev := 0, cluster := 0 }, bar := 5 } }
/-- A unit message in flight to barrier 5. -/
def flying (u : UnitMsg) (x : Barrier) : State :=
  let s := barrier x
  { s with gcycle := 5000, d := { s.d with messages := [{ colour := false, owner := 0, msg := u }] } }
theorem witness_BarrierMessages : barMsg.dst.unit.dev = core.d.deviceId ∧ (flying (.arrive barMsg) (inUse 1)).d.stops = [] ∧
    ((flying (.arrive barMsg) (inUse 1)).d.clusters[(0 : Fin 32)]).owner = barMsg.owner ∧
    (∀ u ∈ [UnitMsg.arrive barMsg, .release barMsg true, .absent barMsg, .present barMsg],
      (flying u (inUse 1)).d.messages = [{ colour := false, owner := 0, msg := u }]) ∧
    (let x := { inUse 2 with relw := true, arrived := 1, absent := 1 }
     x.relw = true ∧ x.arrived < x.expect ∧ 0 < x.absent) ∧
    (let x := { inUse 2 with arrived := 1, timer := some 0 }
     x.timer = some 0 ∧ x.pv = false ∧ x.timeout ≠ 0 ∧ x.absent = 0 ∧ 0 + 1024 * x.timeout ≤ 5000) := by decide +kernel
theorem witness_RefusedMessagesReturn : let m : BarMsg := { barMsg with owner := 1 }
    m.dst.unit.dev = core.d.deviceId ∧ m.src.unit.dev = core.d.deviceId ∧ core.d.contexts.find 1 = none ∧ core.d.stops = [] ∧
    (let s := core.withDev (core.d.setCluster 1 { core.d.clusters[(1 : Fin 32)] with owner := 1 })
     s.d.clusters[(0 : Fin 32)].owner ≠ m.owner ∧ s.d.clusters[(1 : Fin 32)].owner = m.owner) := by decide +kernel
theorem witness_RefusedMessagesReturn_phases : (∀ n ∈ [1, 2], let y := { inUse 2 with relw := true, arrived := n }
    (decide (y.relw = true ∧ y.arrived < y.expect) = decide (n = 1))) ∧ (inUse 2).relw = false := by decide +kernel
/-- Cluster 0's unit with event 9. -/
def event (x : EventWord) : State := withCluster (fun c => { c with unit := { c.unit with events := [(9, x)] } }) core
theorem witness_EventCounts :
    (let x := ((event { EventWord.reset with waiting := [3] }).d.clusters[(0 : Fin 32)]).unit.event 9
     x.waiting ≠ [] ∧ x.count = 0) ∧ core.d.holdsAny 0 = false ∧ core.d.rd 2 = 0 ∧
    0 < (((event { EventWord.reset with count := 1 }).d.clusters[(0 : Fin 32)]).unit.event 9).count ∧
    (let x := ((event { EventWord.reset with granted := [(0, 4)] }).d.clusters[(0 : Fin 32)]).unit.event 9
     x.granted.find? (fun g => decide (g.1 = 0)) = some (0, 4)) ∧ core.d.stops = [] ∧ core.d.contexts.find 0 = none := by decide +kernel
/-- Cluster 0's unit with mutex 9. -/
def mutex (x : Mutex) : State := withCluster (fun c => { c with unit := { c.unit with mutexes := [(9, x)] } }) core
theorem witness_MutexesAreHeld : ((core.d.clusters[(0 : Fin 32)]).unit.mutex 9).holder = none ∧
    (let x := ((mutex { holder := some 0, granted := true, waiting := [4] }).d.clusters[(0 : Fin 32)]).unit.mutex 9
     x.holder = some 0 ∧ x.granted = true ∧ x.holder ≠ none) ∧
    ((mutex { holder := some 3, granted := false, waiting := [] }).d.clusters[(0 : Fin 32)]).unit.mutex 9 ≠ Mutex.reset := by decide +kernel
theorem witness_MonitorDelivers : let s := withS [(3, 1)] (atPage 0)
    s.d.core.status.pl = .supervisor ∧ s.d.core.gang = none ∧ s.d.Reaches .load (s.d.rd 2) 8 (leaf 0) 0x40000 ∧ pteRmt (leaf 0) = false ∧
    s.d.SettledAt (leaf 0) 0x40000 ∧ u64 (s.d.valueAt none 0x40000 8) ≠ s.d.rd 3 := by
  unfold Dev.Reaches Dev.SettledAt Dev.Settled; decide +kernel
theorem witness_MonitorDelivers_pad : let s := withS [(2, 0x00FFFF000FE00000 + 262136), (3, 1)] core
    s.d.rd 2 = u64 (0x00FFFF000FE00000 + 262136) ∧ 262136 + 8 ≤ 262144 ∧ 262136 % 8 = 0 ∧ s.d.core.pad.bad = [] ∧ s.d.rd 3 ≠ s.d.rd 0 ∧
    (withS [(2, 0x10000)] (page 0 core)).d.rd 3 = u64 ((page 0 core).d.valueAt none 0x40000 8) := by decide +kernel
theorem witness_UnitRegistersAreWritten : let self : UnitRef := { dev := 0, cluster := 0 }
    configOk self 5 Barrier.reset true (inUse 2).cfg 0 = true ∧ configOk self 5 Barrier.reset false (inUse 2).cfg 0x8000000000000106 = true ∧
    configOk self 5 Barrier.reset true 0x1000 0 = false ∧ configOk self 5 Barrier.reset false (inUse 2).cfg 0x2000 = false ∧ CanTrap core ∧ (0xFFFFFFFF : Word).toNat < 2 ^ 32 ∧
    ((0x1FF0 : BitVec 21).toNat < 0x2000 ∧ (0x1FF0 : BitVec 21).toNat % 32 = 16) ∧
    ((0x1FE8 : BitVec 21).toNat < 0x2000 ∧ (0x1FE8 : BitVec 21).toNat % 32 = 8) ∧
    (0x2000 ≤ (0x27F8 : BitVec 21).toNat ∧ (0x27F8 : BitVec 21).toNat < 0x2800 ∧ (0x27F8 : BitVec 21).toNat % 8 = 0) ∧ 0x2800 ≤ (0x2800 : BitVec 21).toNat ∧
    2 ^ 32 ≤ (0x100000000 : Word).toNat := by unfold CanTrap; decide +kernel

/-- A launch record at 0x10000 in the mapped page, RANGE over 0 to 10 with GRAIN 1, and its kernel descriptor at 0x10040. -/
def recordAt (s : State) : State := withMem (fun m => { m with hbm := Memory.write (Memory.write (Memory.write (Memory.write []
    0x40008 (leBytes 8 0x10040)) 0x40028 (leBytes 8 10)) 0x40030 (leBytes 8 1)) 0x40040 (leBytes 8 0x10000) }) (page 0 s)
/-- Queue 17, open and bound to owner 0. -/
def queue (x : Queue) (s : State) : State := { s with d := { s.d with queues := [(17, x)] } }
def opened : Queue := { Queue.reset with state := .opened }
theorem witness_LaunchesAreAppended : let s := queue opened (recordAt core)
    (s.d.queueAt 17).boundTo 0 = true ∧ (s.d.queueAt 18).boundTo 0 = false ∧ CanTrap s ∧
    (match s.d.readWhole 0x10000 64 with
      | .ok b => recordOk none (wordsOf 8 b.1) && (match b.2.readKernel 0x10000 (wordsOf 8 b.1)[1] with
        | .ok k => (match k.2.checkAnchor (wordsOf 8 b.1)[3] with | .ok _ => true | _ => false) &&
          match k.2.startFrontier (wordsOf 8 b.1) with | .ok _ => true | _ => false
        | _ => false)
      | _ => false) = true ∧ s.d.holdsAny 0 = false ∧ opened.pending.length < Config.launchDepth ∧ opened.last = none ∧ (0x10001 : Word).toNat % 64 ≠ 0 := by
  unfold CanTrap; decide +kernel
-- The record before lies in a page that can be stored to, or that migrates while the hold queue is full.
theorem witness_LaunchesAreAppended_next :
    (let s := queue { opened with last := some (0x10080, Vector.replicate 8 0) } (recordAt core)
     match s.d.release .dev with
      | .ok e => (match e.storeNext 17 0x10000 with | .ok _ => true | .error _ => false)
      | .error _ => false) = true ∧
    (let s := withCluster (fun c => { c with
        hold := List.replicate 64 (.wait 5 0)
        tlb := { owner := 0, gen := 0, va := 0x20000, size := 4096, leaf := leaf 0x40, level := 4 } :: c.tlb })
      (queue { opened with last := some (0x20000, Vector.replicate 8 0) } (recordAt core))
     match s.d.release .dev with
      | .ok e => (match e.storeNext 17 0x10000 with | .ok _ => false | .error _ => true)
      | .error _ => false) = true := by decide +kernel

/-- Work of launch 1 of queue 17. -/
def work (kind : TaskKind) : Work :=
  { queue := 17, seq := 1, kind := kind, kid := 7, entry := 0x10000, uses := 0, args := 1, anchor := 0, lo := 0, hi := 10, grain := 4 }
/-- Core 0 runs a task of piece 0. -/
def tasked (kind : TaskKind) (f : Core → Core := id) : State := core fun c => f { c with task := some { piece := 0, work := work kind } }
/-- A spawn packet at 0x10000: CORE with the kernel at 0x10040, or MEMRED with ADD of .n32 to 0x10100. -/
def packetAt (memred : Bool) (s : State) : State :=
  let spawn : Memory := Memory.write (Memory.write [] 0x40008 (leBytes 8 0x10040)) 0x40040 (leBytes 8 0x10000)
  let reduce : Memory := Memory.write (Memory.write [] 0x40000 (leBytes 8 (1 + 6 * 2 ^ 11))) 0x40018 (leBytes 8 0x10100)
  withMem (fun m => { m with hbm := if memred then reduce else spawn }) (page 0 s)
theorem witness_SpawnsAreSent :
    (let s := packetAt false (tasked .core)
     s.d.core.task.isSome = true ∧ s.d.holdsAny 0 = false ∧ (s.d.queueAt 17).abort = false ∧ (match s.d.readWhole 0x10000 32 with
      | .ok b => packetOk (wordsOf 4 b.1) && !packetIsRed (wordsOf 4 b.1) && !refusedAnchor (wordsOf 4 b.1)[3]
          && (match b.2.readKernel 0x10000 (wordsOf 4 b.1)[1] with | .ok _ => true | _ => false)
      | _ => false) = true) ∧
    (match (packetAt true (tasked .core)).d.readWhole 0x10000 32 with
      | .ok b => packetOk (wordsOf 4 b.1) && packetIsRed (wordsOf 4 b.1) && decide (packetRed (wordsOf 4 b.1) = some (.add, .n32))
          && (match b.2.place .supervisor .store (wordsOf 4 b.1)[3] 4 true with | .ok (.home e _) => !pteDec e | _ => false)
      | _ => false) = true ∧ inWindow 0x00FFFF0000200000 = true ∧ refusedAnchor 0x00FFFF0000200000 = false := by decide +kernel
/-- The piece that the task holds. -/
def holding (cur : Nat) (kind : TaskKind) : State := { tasked kind with d := { (tasked kind).d with pieces := [(0, { work := work kind, cur := cur, hi := 10 })] } }
theorem witness_TasksRun : (holding 9 .range).d.core.task.isSome = true ∧ (holding 9 .range).d.core.gang = none ∧
    (holding 9 .range).d.pieces.find 0 = some { work := work .range, cur := 9, hi := 10 } ∧
    ((holding 9 .range).d.queueAt 17).abort = false ∧ (holding 10 .range).d.holders 0 = 1 ∧
    (∀ n : Fin 4, (holding 10 .range).d.core.port[n].commands = []) ∧ (holding 10 .range).d.holdsAny 0 = false ∧
    (∀ k : Fin 32, (holding 10 .range).d.clusters[k].pending = []) ∧ ((holding 10 .range).d.queueAt 17).cut = none ∧
    (holding 10 .range).d.holdsAny 0 = false ∧ (holding 10 .range).d.Clear ∧
    (tasked .core fun c => { c with pad := { c.pad with gens := [(0, 0)], full := [0] } }).d.core.pad.isFull 0 0 = true := by
  unfold Dev.Clear; decide +kernel
/-- A task that has yielded, waiting for granule 3. -/
def yielded (c : Core) : Yielded := { task := { piece := 0, work := work .core }, granule := 3, pc := 8, status := c.status, s := c.s, v := c.v, p := c.p
                                      desc := c.desc, stream := c.stream, fflags := c.fflags, frst := c.frst, kept := Vector.replicate 4 [] }
theorem witness_TasksYieldAndResume :
    (let s := tasked .range fun c => { c with inbox := [.task (work .core)] }
     s.d.core.task.isSome = true ∧ s.d.core.gang = none ∧ s.d.core.pad.isFull 0 0 = false ∧ s.d.core.yielded = [] ∧
     usesDisjoint (work .range).uses (work .core).uses = true ∧ s.d.core.parked = false ∧ s.d.core.named = [work .core]) ∧
    (tasked .range fun c => { c with parked := true, yielded := [yielded c, yielded c, yielded c] }).d.core.yielded.length = 3 ∧
    (let s := core fun c => { c with run := .idle, yielded := [yielded c], pad := { c.pad with gens := [(0, 0)], full := [3] } }
     coreExists s.d.core.id = true ∧ s.d.core.run = .idle ∧ s.d.core.yielded.length = 1 ∧ s.d.core.pad.isFull 0 3 = true ∧
     (s.d.clusters[(0 : Fin 32)]).retired = false) := by decide +kernel
theorem witness_QueueAndTaskFields : (tasked .range).d.core.task.isSome = true ∧ (work .range).kind = .range ∧ opened.state ≠ .unbound ∧
    (core.d.queueAt 17).state = .unbound ∧ (queue opened core).d.core.status.pl = .supervisor ∧
    ((queue opened core).d.queueAt 17).boundTo 0 = true ∧ core.d.host.unmaps = [] := by decide +kernel
/-- A started launch of queue 17 with work at cluster 0. -/
def started (reported dies : List Nat) : Launch :=
  { seq := 1, addr := 0, record := #v[0, 0, 0, 0, 0, 10, 1, 0], kernel := Vector.replicate 4 0, place := .die 0, started := true, clusters := [0]
    reported := reported, dies := dies, frontier := { row0 := 0, rows := [], inFlight := [] } }
def launched (l : Launch) (s : State := core) : State := queue { opened with pending := [l], nextSeq := 2 } s
/-- The other cores of cluster 0 run. -/
def busyCores (s : State) : State :=
  { s with d := { s.d with others := (List.range' 1 95).map fun n => (n, { Core.reset n with run := .running }) } }
theorem witness_DispatcherSteps :
    (let s := withCluster (fun c => { c with pending := [{ work := work .range, cur := 0, hi := 10 }] }) (core fun c => { c with run := .idle })
     coreExists s.d.core.id = true ∧ s.d.core.run = .idle ∧ s.d.core.task = none ∧ s.d.core.gang = none ∧ s.d.core.halt = none ∧
     s.d.core.yielded = [] ∧ s.d.core.named = [] ∧ (s.d.clusters[(0 : Fin 32)]).retired = false ∧ s.d.FreeHere) ∧
    (∀ x ∈ (launched (started [] [])).d.queues, ∀ l ∈ x.2.pending, recFrontier l.record = false) ∧
    (let s := core fun c => { c with run := .idle, inbox := [.task (work .core)] }
     ({ s.d with core := { s.d.core with inbox := [] } } : Dev).FreeHere ∧ s.d.core.named = [work .core]) ∧
    (core fun c => { c with run := .idle }).d.idleCore 0 = some 0 ∧ (busyCores core).d.idleCore 0 = none ∧
    (let p : Packet := { colour := false, owner := 0, cluster := 0, queue := 17, seq := 1, body := .piece { work := work .range, cur := 0, hi := 10 } 0 }
     ({ core.d with packets := [(4, p)] } : Dev).packets.find 4 = some p) ∧
    ((launched (started [] [])).d.queueAt 17).findLaunch 1 = some (started [] []) ∧ (launched (started [] [])).d.frozen 0 = false ∧
    (launched (started [] [])).d.workCount 17 1 0 = 0 ∧ ((launched (started [0] [])).d.queueAt 17).findLaunch 1 = some (started [0] []) ∧
    (let s := tabled 0 0 (launched (started [0] [0]))
     s.d.memoriesOk = true ∧ s.d.canComplete 17 (s.d.queueAt 17) (started [0] [0]) = true ∧ s.d.mem.stores = [] ∧
     (((s.d.clustersOf 0).foldl (fun d k => d.awaitAcks k .dev) s.d).tablesRead 0 0).walk 0 0 = .leaf (leaf 0) 4) := by unfold Dev.FreeHere; decide +kernel
theorem witness_RangesArePartitioned : (0 < 4 ∧ 0 < 8 ∧ 0 < 10) ∧ (rangePieces 0 10 4 8).length = 3 := by decide +kernel
/-- A launch of queue 17 that has not started, on die 0 for owner 1, which has cluster 0 with no idle core. -/
def waiting (hi : Word) : Launch := { started [] [] with started := false, clusters := [], record := #v[0, 0, 0, 0, 0, hi, 1, 0] }
def busyCluster (hi : Word) : State :=
  let s := withCluster (fun c => { c with owner := 1 }) core
  queue { opened with owner := 1, pending := [waiting hi], nextSeq := 2 } (busyCores s)
theorem witness_LaunchesStart : let s := busyCluster 10
    (s.d.queueAt 17).pending = [waiting 10] ∧ s.d.frozen 1 = false ∧ recFrontier (waiting 10).record = false ∧ s.d.dieClusters 1 0 = [0] ∧
    0 < recGrain (waiting 10).record ∧ s.d.idleCore 0 = none ∧ (waiting 0).record[4] = (waiting 0).record[5] ∧
    (busyCluster 0).d.orphanOf 17 1 = false ∧ (busyCluster 0).d.mem.partials = [] ∧ s.d.walk 1 0 = .fails 1 := by decide +kernel

-- Gangs and frontiers.

theorem witness_GangsForm : core.d.memoriesOk = true ∧ core.d.core.gang = none ∧ (2 ≤ (16 : BitVec 5).toNat ∧ (16 : BitVec 5).toNat ≤ 16) ∧
    (∀ j, 1 ≤ j → j < 16 → (core.d.coreAt (0 + (12 * (j / 12) + if j / 12 % 2 = 0 then j % 12 else 11 - j % 12))).isIdle = true) ∧
    ¬ (95 + 2 ≤ 96) ∧ core.d.core.id % 128 < 96 := by decide +kernel
/-- Core 0 leads a gang of two. -/
def ganged : State :=
  let s := core fun c => { c with gang := some { leader := 0, index := 0, size := 2 }, task := some { piece := 0, work := work .range } }
  { s with d := { s.d with others := [(1, { Core.reset 1 with run := .running, gang := some { leader := 0, index := 1, size := 2 } })] } }
theorem witness_GangsCombine : ganged.d.memoriesOk = true ∧ ganged.d.core.gang = some { leader := 0, index := 0, size := 2 } ∧ gangCores 0 2 = [0, 1] ∧
    (∀ m ∈ gangCores 0 2, clusterIx m = ganged.d.cluster) ∧ (gangCores 0 2).Nodup := by decide +kernel
theorem witness_GangTraps : CanTrap ganged ∧ ganged.d.core.gang.isSome = true ∧ ganged.d.core.task.isSome = true ∧
    ganged.d.core.status.pl = .supervisor ∧ ((1 : BitVec 5).toNat < 2 ∧ 16 < (17 : BitVec 5).toNat) := by unfold CanTrap; decide +kernel
/-- A gang of two at pc 0x10000, which has the word. -/
def gangAt (w : Word32) : State :=
  let page := waitsIn w
  let f (c : Core) (n : Nat) : Core := { c with pc := 0x10000, stall := 0, gang := some { leader := 0, index := n, size := 2 } }
  { page with d := { page.d with core := f page.d.core 0, others := [(1, f { Core.reset 1 with run := .running } 1)] } }
/-- What the members' performing one after another leaves. -/
def performed (i : Instr) : List Nat → State → Option State
  | [], s => some s
  | m :: ms, s =>
    let d := s.d.switchTo m
    match exec i ((s.withDev { d with core := { d.core with stall := 0 } }).settled (.inl i)) with
    | .next v => performed i ms v
    | _ => none
theorem performed_performs (i : Instr) : ∀ (ms : List Nat) (s u : State), performed i ms s = some u → Performs i ms s u
  | [], s, u, h => by cases h; rfl
  | m :: ms, s, u, h => by
    simp only [performed] at h
    split at h
    · exact ⟨_, ‹_›, performed_performs i ms _ u h⟩
    · cases h
theorem witness_GangsStep : let s := gangAt 0xBC000401
    s.d.memoriesOk = true ∧ s.inputs = [] ∧ s.d.coreOn = true ∧ s.d.dueMember = none ∧ s.d.core.run = .running ∧ s.d.stops = [] ∧
    (gangCores 0 2 = [0, 1] ∧ (gangCores 0 2).Nodup) ∧
    (∀ m ∈ gangCores 0 2, clusterIx m = s.d.cluster ∧ (s.d.coreAt m).stall = 0 ∧ (s.d.coreAt m).frame = none ∧ (s.d.coreAt m).sequencer = [] ∧
      (s.d.coreAt m).pc = 0x10000 ∧
      (s.d.coreAt m).leaving = false ∧ (s.d.coreAt m).status.cons = true) ∧
    (s.d.switchTo 0).fetch = .ok 0xBC000401 ∧ decode 0xBC000401 = .ok (.trap 1) ∧
    ((gangAt 0).d.switchTo 0).fetch = .ok 0 ∧ decode 0 = .error 1 ∧
    (isGredOrSplit (.trap 1) = false ∧ isCapture (.trap 1) = false ∧ isGredOrSplit (.gredAdd 2 3) = true) := by decide +kernel
theorem witness_GangsStep_performs : ∃ u, Performs (.trap 1) [0, 1] (gangAt 0xBC000401) u ∧ u.d.memoriesOk = true ∧ u.d.stops = [] ∧ u.d.mem.stores = [] :=
  ⟨_, performed_performs _ _ _ _ rfl, by decide +kernel⟩
-- A core that leaves its gang performs a NOP there.
theorem witness_GangsStep_leaving : let s := (fun s : State => s.withDev { s.d with core := { s.d.core with stall := 0 } }) (waitsIn 0xBC000000 fun c => { c with leaving := true })
    s.d.core.gang = none ∧ s.Quiet ∧ s.d.core.leaving = true ∧ s.d.core.stall = 0 ∧ s.d.core.matrix = [] ∧
    s.d.fetch = .ok 0xBC000000 ∧ decode 0xBC000000 = .ok .nop ∧ after .nop s (fun v => decide (v.d.core.stall = 0 ∧ v.d.core.leaving = true ∧
      v.d.core.traps = s.d.core.traps ∧ v.d.core.gang = none ∧ v.d.stops = [] ∧ v.d.core.status.cons = true ∧ v.Quiet)) = true := by
  decide +kernel
/-- A frontier launch over 2 x 3 x 4 points with one predecessor, (0, 0, 1), in flight at none. -/
def frontier : Launch := { started [] [] with
  record := #v[1, 0, 0, 0, BitVec.ofNat 64 (2 * 2 ^ 42 + 3 * 2 ^ 21 + 4), BitVec.ofNat 64 (2 ^ 60 + 1), 0, 0] }
theorem witness_FrontierReads : (tasked (.point 1 2 3)).d.core.task.isSome = true ∧ core.d.core.task = none ∧
    (queue opened core).d.queueAt 17 = opened ∧ opened.liveFrontiers = [] ∧ ((launched frontier).d.queueAt 17).liveFrontiers = [frontier] ∧
    frontier.frontier.row0 < 2 ^ 42 ∧ (core.d.queueAt 17).boundTo 0 = false := by decide +kernel
theorem witness_CutsClose : ({ opened with cut := some 0, cutDone := true } : Queue).cut.isSome = true ∧ core.d.core.gang = none ∧ core.d.core.status.pl = .supervisor ∧ opened.boundTo 0 = true ∧ opened.cut = none ∧ (core.d.rd 2).toNat % 64 = 0 ∧
    core.d.host.unmaps = [] := by decide +kernel
theorem witness_PointsFire : let s := launched frontier (core fun c => { c with run := .idle })
    (s.d.queueAt 17).findLaunch 1 = some frontier ∧ recFrontier frontier.record = true ∧ s.d.firesNone 0 = false ∧ frontier.started = true ∧
    (s.d.queueAt 17).abort = false ∧ frontier.fireable none 0 0 0 = true ∧ s.d.clusters[(0 : Fin 32)].pending = [] ∧ coreExists 0 = true ∧
    s.d.clusters[(0 : Fin 32)].owner = 0 ∧ 0 / 1024 = frontier.place.dieOf ∧ (s.d.coreAt 0).isIdle = true ∧
    ∀ y ∈ s.d.queues, y.1 = 17 := by decide +kernel
-- Its second point waits for the first, and fires once the first is complete.
theorem witness_FireableMeans : recChained frontier.record = false ∧ frontier.fireable none 0 0 1 = false ∧
    ({ frontier with frontier := { row0 := 0, rows := [(0, (1, 0))], inFlight := [] } } : Launch).fireable none 0 0 1 = true := by decide +kernel
theorem witness_ColumnsComplete : 67 ≤ 3 + 64 ∧ completeColumn (3, 0) 67 = (3, 0x8000000000000000) := by decide +kernel


-- The draw unit and the cells.

/-- A state with owner o changed. -/
def withOwner (o : Nat) (f : Owner → Owner) (s : State) : State := s.withDev (s.d.setOwner o (f (s.d.ownerAt o)))
theorem witness_DrawUnitInstructions : core.d.core.status.pl = .supervisor ∧ core.d.core.gang = none ∧ core.d.owner = 0 ∧
    (core.d.ownerAt 0).window = [] ∧ ((withOwner 0 (fun x => { x with window := [(3, 0)] }) core).d.ownerAt 0).window ≠ [] ∧
    (let s := withCluster (fun c => { c with owner := 1 }) (withOwner 1 (fun x => { x with minimaNow := Vector.replicate 8 1024 }) core)
     s.d.owner = 1 ∧ (s.d.ownerAt 1).minimaNow[(7 : Fin 8)] ≤ 1024) := by decide +kernel
theorem witness_ExqIsAnUpperBound : 0 < 64 ∧ 64 ≤ 64 ∧ 2 ^ 64 - 1 < 2 ^ 64 ∧ exqBound 64 64 0 = 2 ^ 32 - 1 := by decide +kernel
/-- A block of the mapped page's first line in its home slice. -/
def placed : State := atPage 0 |> withMem fun m =>
  { m with msc := [(homeStack 0x40000, [{ line := lineOf 0x40000, owner := 0, parity := false, set := 4095, way := 15, valid := 1, dirty := 1 }])] }
theorem witness_PlacementIsReported : placed.d.Reaches .load (placed.d.rd 2) 1 (leaf 0) 0x40000 ∧ pteRmt (leaf 0) = false ∧
    placed.d.mem.frames.get 0 (0x40000 / 4096) = placed.d.owner ∧
    placed.d.findBlock (homeStack 0x40000) 0 (lineOf 0x40000)
      = some { line := lineOf 0x40000, owner := 0, parity := false, set := 4095, way := 15, valid := 1, dirty := 1 } ∧
    (atPage 0).d.mem.msc.get [] (homeStack 0x40000) = [] ∧ 0x40000 < 2 ^ 41 ∧ inWindow 0x00FFFF0000200000 = true := by
  unfold Dev.Reaches; decide +kernel
/-- A window of owner 1 is open in stack 2 and its sweep stands at a set. -/
def swept (set : Nat) : State := withOwner 1 (fun x => { x with window := [(2, set)], parity := true }) core |> withMem fun m =>
  { m with msc := [(2, [{ line := 9, owner := 1, parity := false, set := 4095, way := 15, valid := 1, dirty := 1 }])] }
theorem witness_SweepsMoveBlocks : 1 < 64 ∧ ((swept 4095).d.ownerAt 1).window.find 2 = some 4095 ∧
    (∀ b ∈ (swept 4095).d.mem.msc.get [] 2, b.owner = 1 ∧ b.set = 4095 ∧ b.parity ≠ ((swept 4095).d.ownerAt 1).parity ∧ b.way < 16) ∧
    ((swept 4095).d.mem.msc.get [] 2).length = 1 ∧
    (∀ b ∈ (swept 5).d.mem.msc.get [] 2, b.set ≠ 5) ∧ ((swept 5).d.ownerAt 1).window.find 2 = some 5 ∧
    ((swept 4096).d.ownerAt 1).window.find 2 = some 4096 ∧ (((swept 4096).d.ownerAt 1).window.map (·.1)).Nodup := by decide +kernel
theorem witness_LookupsPlaceBlocks :
    (∀ j, j < 16 → (0xC000 : BitVec 16).getLsbD j = decide ((0x40000 + 448) % 512 / 32 ≤ j ∧ 32 * j < (0x40000 + 448) % 512 + 64)) ∧
    (∀ j, j < 16 → (0x8000 : BitVec 16).getLsbD j = decide ((0x40000 + 480) % 512 / 32 ≤ j ∧ 32 * j < (0x40000 + 480) % 512 + 8)) ∧
    (let d := placed.d
     ((d.mem.msc.get [] (homeStack 0x40000)).find? fun b => decide (b.line = lineOf 0x40000) && decide (b.owner = d.frameOwner 0x40000)) =
       some { line := lineOf 0x40000, owner := 0, parity := false, set := 4095, way := 15, valid := 1, dirty := 1 } ∧ (d.ownerAt 0).parity = false ∧
     ((withOwner 0 (fun x => { x with parity := true }) placed).d.ownerAt 0).parity ≠ false) ∧
    (core.d.mem.msc.get [] (homeStack 0x40000)).find? (fun b => decide (b.line = lineOf 0x40000)) = none := by decide +kernel
/-- Owners 0 and 3 wait at an instance in some round. -/
def contended (round : Nat) : State :=
  core.withDev { core.d with arbiters := [(1024 * 7, { round := round, waiting := [{ owner := 3, first := none }, { owner := 0, first := none }] })] }
theorem witness_ArbitrationRounds : 0 < classInstances 7 ∧ ((contended 15).d.arbiters.get ArbInstance.reset (1024 * 7)).waiting ≠ [] ∧
    (∀ r ∈ ((contended 15).d.arbiters.get ArbInstance.reset (1024 * 7)).waiting, r.owner < 64) ∧
    (∀ o ∈ [0, 3], ((((contended 15).d.ownerAt o).arbCounters.get 0 (1024 * 7) : Word32)).toNat + 8 < 2 ^ 32) ∧
    15 % 16 ≠ 0 ∧ ((contended 16).d.arbiters.get ArbInstance.reset (1024 * 7)).round % 16 = 0 := by decide +kernel
theorem witness_UnitsLeaveAndReturn : core.d.memoriesOk = true ∧ unitExists (.channel 7 15) = true ∧ core.d.isOut (.channel 7 15) = false ∧
    (withMem (fun m => { m with retired := [(7, 15)] }) core).d.isOut (.channel 7 15) = true ∧ unitExists (.link 5) = true ∧
    core.d.isOut (.link 5) = false ∧ (withHost (fun h => { h with outOfService := [.link 5] }) core).d.isOut (.link 5) = true ∧
    (∀ w ∈ List.replicate 8 8, 1 ≤ w ∧ w ≤ 8) ∧
    (let s := withOwner 1 (fun x => { x with live := true }) core
     (s.d.ownerAt 1).live = true ∧ s.d.memoriesOk = true) ∧ (List.replicate 8 8).length = 8 := by decide +kernel

/-- A cell at the start of the mapped page with epoch, state and reserved bits in word 1. -/
def cell (word1 : Nat) (f : Core → Core := id) : State :=
  withS [(2, 0x10000), (6, 0x77)] (page 0x80 (withMem (fun m => { m with hbm := Memory.write [] 0x40008 (leBytes 8 word1) }) (core f)))
theorem witness_CellOperations : let s := cell (2 ^ 38)
    s.d.memoriesOk = true ∧ s.d.Reaches .store (s.d.rd 2) 16 (leaf 0x80) 0x40000 ∧ s.d.Reaches .load (s.d.rd 2) 16 (leaf 0x80) 0x40000 ∧
    s.d.SettledAt (leaf 0x80) 0x40000 ∧ pteDec (leaf 0x80) = true ∧ s.d.Clear ∧
    s.d.valueAt none 0x40008 8 = 2 ^ 38 ∧ (cell 0).d.valueAt none 0x40008 8 / 2 ^ 38 % 4 = 0 ∧
    (cell (2 ^ 39)).d.valueAt none 0x40008 8 / 2 ^ 38 % 4 = 2 ∧ (s.d.rd (6 + 1)).toNat / 2 ^ 32 % 256 = 0 ∧ 2 ^ 38 / 2 ^ 40 ≠ 2 ^ 24 - 1 := by
  unfold Dev.Reaches Dev.SettledAt Dev.Settled Dev.Clear; decide +kernel
/-- The cell's grain as the slice of cluster 0 holds it, decided in epoch 0 with the value 5. -/
def cellGrain : SliceCopy :=
  { cluster := 0, core := none, code := false, owner := 0, dev := none, base := 0x40000, size := 32, gen := 0, tracked := false, cell := true
    bytes := bytesOf 8 5 ++ bytesOf 8 (2 ^ 38) ++ List.replicate 16 0 }
def copiedCell (bits : Word := 0x80) : State := page bits (withMem (fun m => { m with copies := [cellGrain] }) (cell (2 ^ 38)))
theorem witness_CellOperations_ready : (cell (2 ^ 38)).d.badAt none 0x40000 16 = none ∧ (cell (2 ^ 38)).d.holdsAny 0 = false ∧
    ((cell 0).d.atCells none 0x40000).readCell (leaf 0x80) 0x40000 = { value := 0, word1 := 0 } ∧
    (cell 0).d.cellHit ((cell 0).d.rd 2) 0 = none ∧
    (∃ c ∈ copiedCell.d.mem.copies, c.cell = true ∧ c.gen = copiedCell.d.gen ∧ (c.bytes.drop (0x40000 - c.base)).take 16 = bytesOf 8 5 ++ bytesOf 8 (2 ^ 38)) ∧
    2 ^ 38 / 2 ^ 38 % 4 = 1 ∧ 2 ^ 38 / 2 ^ 32 % 64 = 0 := by decide +kernel
theorem witness_CellOperations_hit : let s := copiedCell 0x80
    (s.d.rd 2).toNat % 16 = 0 ∧ canonical (s.d.rd 2) = true ∧ inLocalRange (s.d.rd 2) = false ∧ (s.d.tlbLookup 0 0 (s.d.rd 2)).isSome = true ∧
    s.d.leafFor 0 0 (s.d.rd 2) = .leaf (leaf 0x80) 4 ∧ pteDec (leaf 0x80) = true ∧
    leafCheck (leaf 0x80 &&& ~~~ 0x40) .supervisor .load (s.d.rd 2) = .ok (leaf 0x80 &&& ~~~ 0x40) 0x40000 := by decide +kernel
-- The page may migrate.
theorem witness_CellOperations_migrating : let s := copiedCell 0xC0
    (s.d.tlbLookup 0 0 (s.d.rd 2)).isSome = true ∧ s.d.leafFor 0 0 (s.d.rd 2) = .leaf (leaf 0xC0) 4 ∧ pteMig (leaf 0xC0) = true ∧
    leafCheck (leaf 0xC0 &&& ~~~ 0x40) .supervisor .load (s.d.rd 2) = .ok (leaf 0xC0 &&& ~~~ 0x40) 0x40000 := by decide +kernel
theorem witness_CellTraps : CanTrap (cell 0) ∧ (0x10008 : Word).toNat % 16 ≠ 0 ∧ (atPage 0).d.Reaches .store 0x10000 16 (leaf 0) 0x40000 ∧
    pteDec (leaf 0) = false ∧ (cell (3 * 2 ^ 38)).d.valueAt none 0x40008 8 / 2 ^ 38 % 4 = 3 ∧
    (cell (2 ^ 32)).d.valueAt none 0x40008 8 / 2 ^ 32 % 64 ≠ 0 ∧
    (cell ((2 ^ 24 - 1) * 2 ^ 40)).d.valueAt none 0x40008 8 / 2 ^ 40 = 2 ^ 24 - 1 ∧
    (0x100000000 : Word).toNat / 2 ^ 32 % 256 ≠ 0 := by unfold CanTrap Dev.Reaches; decide +kernel

-- Homes and slices.

/-- A store of one byte on its way. -/
def sent (dev : Option (BitVec 12)) (p : StorePhase) : StoreRec :=
  { id := 4, cluster := 0, core := 0, owner := 0, kid := { kid := 7, launch := none }, level := .user, va := 0x10000, dev := dev, pa := 0x40000
    grain := 32, bytes := [0x55], phase := p, age := 0, order := 2 }
def storing (p : StorePhase) (dev : Option (BitVec 12) := none) : State :=
  withMem (fun m => { m with stores := [sent dev p], nextStore := 5 }) core
theorem witness_StoresBecomeCommitted :
    (∀ p ∈ [StorePhase.sent, .placed [3] [], .placed [] [], .committed [3]], (storing p).d.memoriesOk = true ∧
      (storing p).d.mem.stores.find? (fun x => decide (x.id = (sent none p).id)) = some (sent none p)) ∧
    (storing .sent).d.homeFree (sent none .sent) = true ∧ (sent none .sent).bytes = bytesOf 1 0x55 ∧
    (withMem (fun m => { m with stores := [{ sent none (.placed [] []) with id := 3 }, sent none .sent] }) core).d.homeFree (sent none .sent)
      = false ∧
    (∀ x ∈ (storing (.placed [3] [])).d.mem.stores, x.messageTo 3 = true → homeStack x.pa = homeStack 0x40000 → 2 ≤ x.order) ∧
    ¬ (∀ x ∈ [{ sent none (.placed [3] []) with id := 3, order := 1 }, sent none (.placed [3] [])], x.messageTo 3 = true → 2 ≤ x.order) ∧
    (storing .sent).d.mem.partials = [] ∧ (storing .sent).d.mem.bad = [] ∧ 0x40000 + 1 ≤ 2 ^ 48 := by decide +kernel
theorem witness_SlicesFillAndEvict : (page 0 core).d.memoriesOk = true ∧ inHbm 0x40000 1 = true ∧ (page 0 core).d.copyFor 0 none 0x40000 1 = none ∧
    core.d.leafOfPa 0 0x40000 = none ∧ (page 0 core).d.leafOfPa 0 0x40000 = some (leaf 0) ∧ pteDec (leaf 0) = false ∧
    (page 0 core).d.Settled none (grainBase 0x40000 (grainBytes (leaf 0))) (grainBytes (leaf 0)) ∧
    (page 0x80 core).d.leafOfPa 0 0x40000 = some (leaf 0x80) ∧ pteDec (leaf 0x80) = true ∧
    (withMem (fun m => { m with copies := [copy none] }) core).d.mem.copies.find? (fun c => c.core.isNone && decide (c.cluster = 0)
      && decide (c.dev = (copyHome 0x40000).1) && overlap c.base c.size (copyHome 0x40000).2 1) = some (copy none) := by
  unfold Dev.Settled; decide +kernel
/-- A reduction on its way to a slice. -/
def adding : RedRequest :=
  { pa := 0x40008, va := 0x10008, op := .add, ty := .i64, arr := false, value := 1, owner := 0, kid := { kid := 7, launch := none } }
theorem witness_PartialsAreKept : redAllowed adding.op adding.ty adding.arr = true ∧ inHbm adding.pa 8 = true ∧ adding.pa % 8 = 0 ∧
    redIsArrival adding = false := by decide +kernel
theorem witness_WalksFillTheTranslationCache : let s := tabled 0 0 core
    canonical 0 = true ∧ inLocalRange 0 = false ∧ s.d.tlbLookup 0 0 0 = none ∧ (s.d.ownerAt 0).root ≠ none ∧ s.d.walk 0 0 = .leaf (leaf 0) 4 ∧
    s.d.walk 0 0x1000 = .fails 4 ∧ s.d.mem.partials = [] ∧ (page 0 core).d.tlbLookup 0 0 0x10000 ≠ none := by decide +kernel
/-- A command that reads a row of a remote page. -/
def remoteRow : Command := command 0 16 0x10000 0x00FFFF000FE00010 0
def remotePage : Word := 0x0001000000000800
def reading : State := page remotePage (ported [remoteRow] [])
theorem witness_RemoteHomesRefuse_row : reading.d.core.port[(0 : Fin 4)].commands = [remoteRow] ∧ remoteRow.result = none ∧
    reading.d.commandCode remoteRow = 0 ∧ remoteRow.low = [] ∧ remoteRow.rowsDone < remoteRow.rows ∧
    reading.d.checkRow remoteRow 0 .none = .ok ∧ reading.d.rowSource remoteRow 0 = [(.mem 0x10000, 0x10000)] ∧
    reading.d.translateNow 0 0 remoteRow.level .load 0x10008 = .ok (leaf remotePage) 0x40008 ∧ pteRmt (leaf remotePage) = true ∧
    ((0x10008 : Word) - 0x10000).toNat < remoteRow.len ∧ reading.d.mem.stores = [] ∧ reading.d.core.yielded = [] ∧
    remoteRow.task = reading.d.core.task.map (·.piece) ∧ (∀ p : Fin 4, p ≠ 0 → reading.d.core.port[p].commands = []) ∧
    reading.d.core.port[remoteRow.cq].done.length < 16 := by decide +kernel
theorem pageWalk_cached (d : Dev) (va : Word) (h : (d.tlbLookup d.cluster d.owner va).isSome = true) : d.walked va = d := by
  have e : Fin.ofNat 32 d.cluster.val = d.cluster := Fin.ext (Nat.mod_eq_of_lt d.cluster.isLt)
  simp only [Dev.walked, Dev.pageWalk, e]
  exact if_pos ((Bool.or_eq_true _ _).mpr (.inr h))
theorem witness_RemoteHomesRefuse_row_walked : reading.d.rowWalked remoteRow remoteRow.rowsDone = reading.d := by
  have a : reading.d.rowSource remoteRow 0 ++ reading.d.rowTargets remoteRow 0 = [(.mem 0x10000, 0x10000), (.pad 0 0 16, 0x00FFFF000FE00010)] := by
    decide +kernel
  have b : pageStarts 0x10000 remoteRow.len = [0x10000] := by decide +kernel
  show reading.d.rowWalked remoteRow 0 = _
  simp only [Dev.rowWalked, a, List.foldl_cons, List.foldl_nil, b]
  exact pageWalk_cached _ _ (by decide +kernel)
theorem witness_RemoteHomesRefuse : CanTrap core ∧ core.d.core.run = .running ∧ (core.d.clusters[(0 : Fin 32)]).orphans.length < Config.orphanDepth ∧
    sent (some 9) .sent ∈ (storing .sent (some 9)).d.mem.stores ∧ (sent (some 9) .sent).dev ≠ none ∧
    (let q : PartialRec := { core := 0, cluster := some 0, dev := some 9, base := 0x40000, request := adding }
     q ∈ (withMem (fun m => { m with partials := [q] }) core).d.mem.partials) := by unfold CanTrap; decide +kernel
theorem witness_ScrubsChangeNoValue : core.d.memoriesOk = true ∧
    ((withCluster (fun c => { c with scrubbing := true }) core).d.clusters[(0 : Fin 32)]).scrubbing = true ∧
    (core.d.clusters[(0 : Fin 32)]).scrubbing = false ∧ (core.d.clusters[(0 : Fin 32)]).next = none ∧
    ((withCluster (fun c => { c with scrubbing := true, next := some 3 }) core).d.clusters[(0 : Fin 32)]).next = some 3 := by decide +kernel

-- Time, counters, samples and proofs.

theorem witness_PerfInstructions : core.d.core.status.pl = .supervisor ∧ core.d.core.gang = none ∧ core.d.owner < 64 ∧ core.d.trigger = none ∧
    ((core.d.ownerAt 0).counting.map (·.1)).Nodup ∧ (30 : SReg).toNat % 2 = 0 ∧
    (let x := (withOwner 0 (fun x => { x with counting := [(31, 0x0A)] }) core).d.ownerAt 0
     (x.counting.map (·.1)).Nodup ∧ (0x13F : BitVec 10).toNat ∈ x.counting.map fun c => 0x120 + c.1) ∧
    (core.withDev { core.d with trigger := some { owner := 0, tick := 9, whole := false, latched := none } }).d.trigger ≠ none := by decide +kernel
theorem witness_SlotsRotate : core.d.rotated < 65536 / 65536 ∧ 65535 / 65536 ≤ core.d.rotated ∧ core.d.stops = [] ∧
    (let x := (withOwner 5 (fun x => { x with counting := [(31, 0x0A)], counters := [(0x11F, 2 ^ 48 - 1)] }) core).d.ownerAt 5
     (x.counting.map (·.1)).Nodup ∧ ∀ e ∈ x.counters, e.2 < 2 ^ 48) := by decide +kernel
theorem witness_TimeIsKept : core.d.host.ptpLocked = true ∧ core.d.servo = none ∧ (∀ x, some 0 = some x → x + 4096 ≤ 4096) ∧
    (withHost (fun h => { h with ptpLocked := false }) core).d.host.ptpLocked = false ∧ 11 < 12 ∧
    DevUnit.port 11 ∉ core.d.host.outOfService ∧ DevUnit.port 11 ∉ core.d.host.unreported ∧ core.d.host.power ≠ .sleep ∧
    core.d.host.powered = true := by
  refine ⟨by decide +kernel, by decide +kernel, fun x h => ?_, by decide +kernel⟩
  cases h; decide
/-- Core 0 at its tick of the first period. -/
def sampled (ring : Option (Nat × Nat)) (m : Memory := []) : State :=
  { withOwner 0 (fun x => { x with ring := ring }) (withMem (fun h => { h with hbm := m }) core) with
    gcycle := drawOf (keyOf 0 0x04FF) 0 / 65536 }
theorem witness_SamplesAreWritten : (sampled (some (0x40000, 6))).d.memoriesOk = true ∧ coreExists 0 = true ∧
    (sampled none).gcycle = 65536 * ((sampled none).gcycle / 65536) +
      drawOf (keyOf ((sampled none).d.ownerAt 0).oseed.toNat 0x04FF) ((96 * ((sampled none).gcycle / 65536) + 0 % 128) % 2 ^ 32) / 65536 ∧
    ((sampled none).d.coreAt 0).halt = none ∧ ((sampled none).d.ownerAt 0).ring = none ∧
    ((sampled none).d.clusters[(0 : Fin 32)]).next = none ∧ ((sampled none).d.clusters[(0 : Fin 32)]).retired = false ∧
    (sampled none).d.clocked = true ∧ 0 ∉ ((sampled none).d.clusters[(0 : Fin 32)]).sampled.2 ∧
    ((withCluster (fun c => { c with next := some 3 }) (sampled none)).d.clusters[(0 : Fin 32)]).next ≠ none ∧
    ({ sampled none with inputs := [.event (.pcSample 0)] } : State).inputs = .event (.pcSample 0) :: [] ∧
    ((sampled (some (0x40000, 6))).d.ownerAt 0).ring = some (0x40000, 6) ∧ (sampled (some (0x40000, 6))).d.mem.stores = [] ∧
    (sampled (some (0x40000, 6))).d.mem.partials = [] ∧ (sampled (some (0x40000, 6))).d.mem.bad = [] ∧ (sampled none).gcycle < 2 ^ 64 ∧
    ((sampled (some (0x40000, 6))).d.valueAt none 0x40000 8 + 2 ^ 64 - (sampled (some (0x40000, 6))).d.valueAt none 0x40008 8) % 2 ^ 64 ≠ 2 ^ 6 ∧
    (let s := sampled (some (0x40000, 6)) [(0x40000, 64)]
     (s.d.valueAt none 0x40000 8 + 2 ^ 64 - s.d.valueAt none 0x40008 8) % 2 ^ 64 = 2 ^ 6) := by decide +kernel
/-- Owner 0's trigger is due at tick 5000. -/
def triggered (now : Nat) (buffer : Option Nat) : State :=
  let s := withOwner 0 (fun x => { x with proofBuffer := buffer }) core
  { s with gcycle := now, d := { s.d with trigger := some { owner := 0, tick := 5000, whole := false, latched := none } } }
theorem witness_ProofsAreWritten : (triggered 4999 none).d.memoriesOk = true ∧ (triggered 4999 none).d.trigger = some { owner := 0, tick := 5000, whole := false, latched := none } ∧
    (triggered 4999 none).gcycle < 5000 ∧ 5000 ≤ (triggered 5000 none).gcycle ∧ ((triggered 5000 none).d.ownerAt 0).proofBuffer = none ∧
    ((triggered 5000 (some 0x40000)).d.ownerAt 0).proofBuffer = some 0x40000 ∧ (triggered 5000 (some 0x40000)).d.mem.stores = [] ∧
    (triggered 5000 (some 0x40000)).d.mem.partials = [] ∧ (triggered 4000 none).d.stops = [] ∧
    ({ core with inputs := [.armProof 3 7] } : State).inputs = [.armProof 3 7] ∧ core.d.trigger = none := by decide +kernel

-- The stop tree.

/-- Owner 1 is live and has cluster 0. -/
def tenant (f : Cluster → Cluster := id) : State :=
  withCluster (fun c => f { c with owner := 1 }) (withOwner 1 (fun x => { x with live := true }) core)
theorem witness_StopsBegin : (tenant.d.ownerAt 1).live = true ∧ tenant.d.clustersOf 1 ≠ [] ∧ tenant.d.stops.find 1 = none ∧ core.d.clustersOf 1 = [] ∧
    (let p : SwitchPlan := { tick := 5, outgoing := 1, incoming := 2 }
     let s := withHost (fun h => { h with deferred := [p] }) tenant
     (s.d.host.switches ++ s.d.host.deferred).find? (fun x => decide (x.outgoing = 1) && decide (x.tick = 5)) = some p ∧ p.incoming < 64 ∧ p.incoming ≠ 1 ∧
     p ∉ tenant.d.host.deferred) ∧
    (∀ k ∈ tenant.d.clustersOf 1, (tenant.d.clusters[k]).scrubbing = false) ∧
    (let s := tenant fun c => { c with scrubbing := true }
     0 ∈ s.d.clustersOf 1 ∧ (s.d.clusters[(0 : Fin 32)]).scrubbing = true) ∧
    ({ tenant with inputs := [.stopAt 1 5000] } : State).inputs = .stopAt 1 5000 :: [] := by decide +kernel
/-- A stop of owner 1 at tick 0. -/
def stopping (halted flushed saved : List Nat) (cut : Bool) (due : Bool := true) : StopTree :=
  { owner := 1, incoming := none, tick := 0, due := due, colour := false, halted := halted, tokens := halted.flatMap routerOutputs, flushed := flushed
    messages := [], packets := [], captured := 0, cut := cut, saved := saved }
/-- The tenant stops, and every core of its cluster has halted. -/
def stopped (x : StopTree) (now : Nat := 100) (f : Core → Core := id) : State :=
  let c (n : Nat) : Core := { Core.reset n with halt := some 1 }
  { tenant with gcycle := now, d := { tenant.d with stops := [(1, x)], core := f { c 0 with run := .running }, others := (List.range' 1 95).map fun n => (n, c n) } }
/-- The tenant stops, and no core has halted. -/
def halting (x : StopTree) (f : Core → Core := id) : State :=
  { tenant with d := { tenant.d with stops := [(1, x)], core := f tenant.d.core } }
theorem witness_StopsComplete : let s := halting (stopping [] [] [] false)
    s.d.memoriesOk = true ∧ s.d.stops.find 1 = some (stopping [] [] [] false) ∧ coreExists 95 = true ∧ (s.d.clusters[clusterIx 95]).owner = 1 ∧
    (s.d.coreAt 95).halt = none ∧ (s.d.coreAt 95).matrix = [] ∧ (∀ p : Fin 4, (s.d.coreAt 95).port[p].commands = []) ∧
    (stopping [] [] [] false).due = true ∧ (stopping [] [] [] false false).due = false ∧ (s.d.diesOf 1).contains 0 = true ∧
    47 ∉ (stopping [] [] [] false).halted ∧ ((stopping [0] [] [] false).tokens.head?.map fun i => decide (i < 240)) = some true ∧
    7 ∉ (stopping [] [] [] false).tokens ∧ s.d.nextCut = none := by decide +kernel
theorem witness_StopsComplete_cut : let s := stopped (stopping (List.range 48) ((List.range 48).flatMap routerInputs) [] false)
    s.d.memoriesOk = true ∧ (∀ j ∈ s.d.clustersOf 1, s.d.allHalted j = true) ∧
    (∀ x ∈ s.d.diesOf 1, ∀ m, m < 48 → ∀ j ∈ routerInputs (48 * x + m), j ∈ (List.range 48).flatMap routerInputs) ∧
    ((s.d.endpoints 1).map fun e => e.sent false).sum = ((s.d.endpoints 1).map fun e => e.recv false).sum + 0 ∧ s.d.nextCut = some 1 := by decide +kernel
theorem witness_StopsComplete_mma : let s := halting (stopping [] [] [] false) fun c => { c with
      matrix := [{ set := 1, op := .mma 2 3 1 0 15 false true plane8 plane8 }] }
    (takeEntry false (s.d.coreAt 0).matrix).isSome = true ∧ (s.d.coreAt 0).pad.bad = [] := by decide +kernel
theorem witness_SwitchesCommit : (stopped (stopping [] [] [0, 1, 2] true)).d.memoriesOk = true ∧
    (stopped (stopping [] [] [0, 1, 2] true)).gcycle ≤ 0 + 1000 * (stopped (stopping [] [] [0, 1, 2] true)).d.host.deadlineUs ∧
    3 ∉ (stopping [] [] [0, 1, 2] true).saved ∧ (stopping [] [] [] true).saved.length ≠ 3 ∧
    (∀ k ∈ (stopped (stopping [] [] [0, 1, 2] true)).d.clustersOf 1, (stopped (stopping [] [] [0, 1, 2] true)).d.clusters[k].scrubbing = false) ∧
    (stopped (stopping [] [] [0, 1, 2] true)).d.stops.find 1 = some (stopping [] [] [0, 1, 2] true) := by decide +kernel
theorem witness_SwitchesAbort : let s := stopped (stopping [] [] [] false) 200001
    s.d.memoriesOk = true ∧ 0 + 1000 * s.d.host.deadlineUs < s.gcycle ∧ (∀ k ∈ s.d.clustersOf 1, s.d.allHalted k = true) ∧
    (s.d.clusters[clusterIx 95]).owner = 1 ∧ (s.d.coreAt 0).run = .running ∧ (s.d.coreAt 95).run = .idle ∧
    s.d.stops.find 1 = some (stopping [] [] [] false) := by decide +kernel
/-- A saved context of owner 1: core 95 of cluster 0. -/
def saved : Context :=
  { tick := 5, cores := [{ Core.reset 95 with run := .running, pc := 8 }]
    clusters := [{ number := 0, unit := { barriers := [], events := [], mutexes := [] }, hold := [], orphans := [], pending := [] }]
    messages := [], packets := [], frontiers := [((17, 1), { row0 := 0, rows := [], inFlight := [] })], queues := [(17, { opened with owner := 1 })]
    pieces := [(0, { work := work .range, cur := 3, hi := 10 })], nextPiece := 1, wayCounters := [(2, 7)], arbCounters := [] }
theorem witness_ContextsAreRestored : let s : State := { tenant with d := { tenant.d with contexts := [(1, saved)] } }
    s.d.contexts.find 1 = some saved ∧ s.d.memoriesOk = true ∧
    (∀ m ∈ saved.clusters, m.number < 32 ∧ s.d.clusters[Fin.ofNat 32 m.number].owner = 1) ∧ (saved.clusters.map (·.number)).Nodup ∧
    (saved.cores.map (·.id)).Nodup ∧ (∀ c ∈ saved.cores, c.spilled = []) ∧ (saved.frontiers.map (·.1)).Nodup ∧
    (∃ m ∈ saved.clusters, core.d.clusters[Fin.ofNat 32 m.number].owner ≠ 1) := ⟨by rfl, by decide +kernel⟩

/-- Owner 1 is live and has no cluster, and its context comes from another device. -/
def transferred : State := { withOwner 1 (fun x => { x with live := true }) core with inputs := [.context 1 saved] }
theorem witness_ContextsAreTransferred : let s := transferred
    s.inputs = .context 1 saved :: [] ∧ saved.whole = true ∧ (s.d.ownerAt 1).live = true ∧ s.d.clustersOf 1 = [] ∧ s.d.stops.find 1 = none ∧
    s.d.queuesFree 1 saved = true ∧ (saved.queues.map (·.1)).Nodup ∧ (saved.pieces.map (·.1)).Nodup ∧
    (queue { opened with owner := 2 } s).d.queuesFree 1 saved = false := ⟨rfl, by decide +kernel⟩

-- The host port.

/-- A first request of session 2 for partition 1, in its turn: no session is known yet. -/
def header : ReqHeader := { session := 2, seq := 9, part := 1 }
def knows (x : Session) : State := withHost (fun h => { h with sessions := [(2, x)] }) core
/-- Endpoint 0 is in the host table. -/
def listed (s : State) : State := withHost (fun h => { h with hostTable := [0] }) s
theorem witness_InTurn : (listed core).d.InTurn header ∧ (listed tenant).d.InTurn header ∧ HeaderFits header false ∧
    HeaderFits { header with length := 0 } true ∧ ¬ HeaderFits { header with length := 4 } false ∧ ¬ HeaderFits header true := by
  unfold Dev.InTurn Dev.Hears HeaderFits; decide +kernel
theorem witness_RequestsTakeTurns_port : header.endpoint ∉ core.d.host.hostTable ∧ (listed core).d.portUp 0 = true ∧ core.d.portUp 12 = false ∧
    (listed core).d.Hears header ∧ ((listed core).d.ownerAt 1).live = false := by unfold Dev.Hears; decide +kernel
theorem witness_RequestsTakeTurns :
    (let x : Session := { next := 10, replies := [{ code := 1, header := header, status := .ok, body := .empty }], held := [], later := none }
     ((knows x).d.sessionOf header).replies.find? (fun z => decide (z.header.seq = header.seq))
       = some { code := 1, header := header, status := .ok, body := .empty }) ∧
    (let x : Session := { next := 8, replies := [], held := [], later := none }
     ((knows x).d.sessionOf header) = x ∧ header.seq ≠ x.next ∧ x.held.length < 64 ∧ (knows x).d.host.unmaps = [] ∧ x.later = none ∧
     ∀ z ∈ (knows x).d.host.sessions, z.2.later = none) ∧
    (let x : Session := { next := 8, replies := [], held := (List.range 64).map fun n => ({ header with seq := BitVec.ofNat 32 (100 + n) }, .destroy), later := none }
     (∀ z ∈ ((knows x).d.sessionOf header).held, z.1.seq ≠ header.seq) ∧ 64 ≤ ((knows x).d.sessionOf header).held.length) := by decide +kernel
/-- CREATE of cluster 31 with minima alike in every class. -/
def creates (minimum : Nat) : CreateBody :=
  { clusters := [31], weights := List.replicate 8 1, minima := List.replicate 8 minimum, seedVisible := true }
theorem witness_PartitionsComeAndGo_channels : ∀ x c, core.d.notReady (.channel x c) = false := fun _ _ => rfl
theorem witness_PartitionsComeAndGo : (core.d.ownerAt 1).live = false ∧ createOk (creates 0) = true ∧
    (∀ k : Fin 32, k.val ∈ (creates 0).clusters → core.d.notReady (.cluster k.val) = false ∧ (core.d.clusters[k]).owner = 0 ∧
      (core.d.clusters[k]).retired = false ∧ (core.d.clusters[k]).scrubbing = false) ∧
    (∀ k : Fin 32, (core.d.clusters[k]).scrubbing = false) ∧ core.d.clocked = true ∧ core.d.arbiters = [] ∧
    (withHost (fun h => { h with power := .standby }) core).d.clocked = false ∧
    (∀ c, c < 8 → 64 + core.d.minimaSum c + (creates 0).minima.getD c 0 ≤ core.d.available c) ∧
    ¬ (∀ c, c < 8 → 64 + core.d.minimaSum c + (creates 1024).minima.getD c 0 ≤ core.d.available c) ∧ createOk (creates 1024) = true ∧
    core.d.mem.retired = [] ∧ 2 ^ 20 ≤ core.d.host.tableTop ∧ (tenant.d.ownerAt 1).live = true ∧ tenant.d.host.unmaps = [] ∧
    (let s := withCluster (fun c => { c with scrubbing := true, former := 1 }) core
     (s.d.clusters[(0 : Fin 32)]).scrubbing = true ∧ (s.d.clusters[(0 : Fin 32)]).former = 1) := by decide +kernel
/-- Owner 1 has a page table, and what LOAD, MAP and UNMAP name is in its first page. -/
def mapped (bits : Word := 0) : State := listed <| withOwner 1 (fun x => { x with live := true }) (tabled 1 bits core)
theorem witness_PagesAreMapped_table : (match (mapped.d.heard header).tableFor 0x1000 (leafLevel 0 - 1) 0x100000 1 with
    | some (table, d) => decide (table = 0x130000 ∧ d.host = (mapped.d.heard header).host ∧ d.mem.hbm = (mapped.d.heard header).mem.hbm)
    | none => false) = true ∧ (∀ a ∈ mapped.d.replicas 1 0, mapped.d.valueAt none a 8 = (leaf 0).toNat) ∧
    (∀ j, j < leafCount 0 → pteV (mapped.d.entryAt (0x130000 + 8 * (1 + j))) = false) := by decide +kernel
theorem witness_PagesAreMapped : let s := mapped
    pteSize 0x5001F = 0 ∧ s.d.memoriesOk = true ∧ s.d.InTurn header ∧ s.d.Still ∧ (s.d.ownerAt 1).live = true ∧ (s.d.ownerAt 1).root = some 0x100000 ∧
    (let b : MapBody := { va := 0x1000, pte := 0x5001F, pages := 1 }
     s.d.mapOk 1 b = true ∧ s.d.pageNotReady b.pte = false ∧ pteRmt b.pte = false ∧ pteAddr b.pte + pageBytes b.pte ≤ 0x130000) ∧
    (let b : MapBody := { va := 0x1001, pte := 0x5001F, pages := 1 }
     s.d.pageNotReady b.pte = false ∧ s.d.mapOk 1 b = false) ∧
    (withMem (fun m => { m with frames := [(0x50, 2)] }) s).d.frameOwner (pteAddr 0x5001F) = 2 ∧
    (let u : UnmapBody := { va := 0, k := 0, pages := 1 }
     s.d.walk 1 u.va = .leaf (leaf 0) 4 ∧ pteSize (leaf 0) = u.k.toNat ∧ u.va.toNat % 4096 = 0 ∧ s.d.unmapHeld 1 u = false ∧
     (queue { opened with owner := 1, pending := [started [] []], nextSeq := 2 } s).d.unmapHeld 1 u = true) := by
  unfold Dev.InTurn Dev.Hears Dev.Still; decide +kernel
theorem witness_ProgramsAreLoaded : let s := mapped
    s.d.memoriesOk = true ∧ s.d.InTurn header ∧ (s.d.ownerAt 1).live = true ∧ s.d.walk 1 0xFFF = .leaf (leaf 0) 4 ∧ pteMig (leaf 0) = false ∧
    pteDec (leaf 0) = false ∧ remoteRefuses (leaf 0) = false ∧ inLocalRange 0xFFF = false ∧ s.d.Still ∧ leafPa (leaf 0) 0xFFF < 2 ^ 48 ∧
    coreExists 95 = true ∧ tenant.d.clusters[clusterIx 95].owner = 1 ∧ (tenant.d.coreAt 95).isIdle = true ∧
    (s.d.queueAt 1023).state = .unbound ∧ s.d.wordOk 1 0xFF8 = true ∧
    (queue { opened with owner := 1, state := .closed } s).d.queueAt 17 = { opened with owner := 1, state := .closed } ∧
    ({ opened with owner := 1 } : Queue).boundTo 1 = true ∧ ({ opened with owner := 1 } : Queue).state ≠ .closed := by
  unfold Dev.InTurn Dev.Hears Dev.Still; decide +kernel
/-- Owner 1 has a launch record and its kernel descriptor in its first page, and cluster 0. -/
def hosted (x : Queue) : State := queue x (withCluster (fun c => { c with
    owner := 1, tlb := [{ owner := 1, gen := c.gen, va := 0, size := 4096, leaf := leaf 0, level := 4 }] }) (mapped |> withMem fun m =>
  { m with hbm := Memory.write (Memory.write (Memory.write (Memory.write m.hbm 0x40008 (leBytes 8 0x40)) 0x40028 (leBytes 8 10))
    0x40030 (leBytes 8 1)) 0x40040 (leBytes 8 0x1000) }))
theorem witness_HostLaunchesAreAppended : let s := hosted { opened with owner := 1 }
    let v := (s.d.heard header).asOwner 1 ((s.d.clustersOf 1).headD 0) 0
    s.d.InTurn header ∧ (s.d.ownerAt 1).live = true ∧ s.d.clustersOf 1 ≠ [] ∧ (s.d.queueAt 17).boundTo 1 = true ∧
    (s.d.queueAt 17).state = .opened ∧ (∀ n ∈ s.d.core.id :: s.d.others.map (·.1), n % 128 ≠ 127) ∧
    (match v.readWhole 0 64 with
      | .ok b => recordOk none (wordsOf 8 b.1) && (match b.2.readKernel 0 (wordsOf 8 b.1)[1] with
        | .ok k => (match k.2.checkAnchor (wordsOf 8 b.1)[3] with | .ok _ => true | _ => false) &&
          match k.2.startFrontier (wordsOf 8 b.1) with | .ok _ => true | _ => false
        | _ => false)
      | _ => false) = true ∧ v.holdsAny v.core.id = false ∧ opened.nextSeq % 2 ^ 64 ≠ 0 ∧ opened.last = none ∧
    (s.d.queueAt 17).pending.length < Config.launchDepth ∧
    Config.launchDepth ≤ ((hosted { opened with owner := 1, pending := List.replicate Config.launchDepth (started [] []) }).d.queueAt 17).pending.length := by
  unfold Dev.InTurn Dev.Hears; decide +kernel
-- A record on no page, one in the event unit, and one on a page that migrates, with a full hold queue.
theorem witness_HostLaunchesAreAppended_stops :
    (let v := ((hosted { opened with owner := 1 }).d.heard header).asOwner 1 0 0
     (match v.readWhole 0x5000 64 with | .error (.walkedTrap _ c) => decide (c.code = 4) | _ => false) &&
       (match v.readWhole 0x00FFFF000FC00000 64 with | .error (.trap _) => true | _ => false)) = true ∧
    (let v := ((withCluster (fun c => { c with hold := List.replicate 64 (.wait 5 0), tlb := c.tlb.map fun t => { t with leaf := leaf 0x40 } }) (hosted { opened with owner := 1 })).d.heard header).asOwner 1 0 0
     match v.readWhole 0 64 with | .error (.wait _) => true | _ => false) = true := by decide +kernel
/-- Core 0 of the tenant is escalated. -/
def escalated : State := { tenant with d := { tenant.d with core := { tenant.d.core with run := .escalated 4 8 0 1 } } }
theorem witness_HostSettings_rewrite : (escalated.d.coreAt 0).rewriteAll [] = some (escalated.d.coreAt 0) := by rfl
theorem witness_HostSettings : tenant.d.memoriesOk = true ∧ (listed tenant).d.InTurn header ∧ (tenant.d.ownerAt 1).live = true ∧
    tenant.d.clusters[clusterIx 0].owner = 1 ∧ (escalated.d.coreAt 0).isEscalated = true ∧ (tenant.d.coreAt 0).isEscalated = false ∧
    core.d.host.power ≠ .sleep ∧
    (∀ p : Fin 64, p ≠ 0 → (core.d.ownerAt p.val).live = false) ∧ (List.replicate 12 true).length = 12 := by
  unfold Dev.InTurn Dev.Hears; decide +kernel
theorem witness_FirmwareAndAttestation : (listed core).d.InTurn header ∧ (core.d.ownerAt 1).live = false ∧ (tenant.d.ownerAt 1).live = true ∧
    core.d.host.fused ≤ 0 ∧ 0 < (withHost (fun h => { h with fused := 1 }) core).d.host.fused ∧ 14 ≤ (14 : BitVec 16).toNat := by
  unfold Dev.InTurn Dev.Hears; decide +kernel
-- Whether a signature verifies is open: each of the two clauses is met as soon as one image and signature has that answer.
theorem witness_FirmwareAndAttestation_signature (x : BitVec 256) (y : List Byte) :
    Config.firmwareSignatureOk x y = true ∨ Config.firmwareSignatureOk x y = false := by
  cases Config.firmwareSignatureOk x y <;> simp
theorem witness_BringUpAndEvents : unitExists (.cluster 31) = true ∧ core.d.portUp 11 = true ∧ core.d.portUp 12 = false ∧
    (let s := withHost (fun h => { h with unreported := [.cluster 31] }) core
     DevUnit.cluster 31 ∈ s.d.host.unreported ∧ DevUnit.control 3 ∉ s.d.host.unreported) ∧
    DevUnit.cluster 31 ∉ core.d.host.unreported ∧ (withHost (fun h => { h with accepted := some (5, 6) }) core).d.host.accepted = some (5, 6) := by
  decide +kernel

-- Steps.

/-- Core 0 runs at pc 0x10000 in the mapped page, with one word there. -/
def fetching (w : Word32) : State := warm 0x10000 <|
  withMem (fun m => { m with hbm := Memory.write [] 0x40000 (wordBytes w) }) (page 0 (core fun c => { c with pc := 0x10000 }))
theorem witness_StepRunsDecoded : let s := fetching 0xBC000401
    s.inputs = [] ∧ s.d.coreOn = true ∧ s.d.dueMember = none ∧ s.d.core.run = .running ∧ s.d.core.gang = none ∧ s.Quiet ∧
    s.d.core.leaving = false ∧ s.d.fetch = .ok 0xBC000401 ∧ decode 0xBC000401 = .ok (.trap 1) ∧ (fetching 0).d.fetch = .ok 0 ∧ decode 0 = .error 1 ∧
    (match core.d.fetch with | .error _ => true | .ok _ => false) = true ∧ (0x10002 : Word).toNat % 4 ≠ 0 := by decide +kernel
theorem witness_InputsAreHeard : encode .cutClose = none ∧ core.d.host.powered = true ∧ core.d.clocked = true ∧ goesOn .cutClose = false ∧
    goesOn .powerOn = true ∧ (let s := withHost (fun h => { h with power := .standby }) core
     s.d.host.powered = true ∧ s.d.clocked = false) ∧ encode .nop ≠ none ∧ coreExists 4063 = true ∧
    (core.d.coreAt 4063).gang = none := by decide +kernel
-- A page that is mapped and not cached, and one whose code no slice holds.
theorem witness_FetchesMiss : (let s := tabled 0 0 core
     s.d.core.pc.toNat % 4 = 0 ∧ inLocalRange s.d.core.pc = false ∧ s.d.translateNow 0 0 .supervisor .fetch 0 = .ok (leaf 0) 0x40000 ∧
     s.d.tlbLookup 0 0 0 = none) ∧
    (∀ copies ∈ [[], [copy none]], let s := withMem (fun m => { m with copies := copies }) (page 0 (core fun c => { c with pc := 0x10000 }))
     s.d.translate 0 0 .supervisor .fetch 0x10000 = .ok (leaf 0) 0x40000 ∧ remoteRefuses (leaf 0) = false ∧ pteDec (leaf 0) = false ∧
     s.d.badAt none (grainBase 0x40000 (grainBytes (leaf 0))) (grainBytes (leaf 0)) = none ∧ s.d.codeFor 0 0 none 0x40000 = none ∧
     s.d.copyFor 0 none 0x40000 4 = copies.head?) := by decide +kernel
theorem witness_TimePasses : (fetching 0xBC000401).d.memoriesOk = true ∧ (fetching 0xBC000401).d.stops = [] ∧
    (fetching 0xBC000401).d.trigger = none ∧ (fetching 0xBC000401).d.mem.stores = [] ∧
    ((withOwner 0 (fun x => { x with counting := [(31, 0x0A)] }) core).d.ownerAt 0).counting = [(31, 0x0A)] ∧ (0 + 5) / 65536 ≤ core.d.rotated ∧
    (storing .sent).d.mem.stores ≠ [] ∧ core.d.clusters[(0 : Fin 32)].owner = 0 := by decide +kernel
theorem witness_StepKeepsInv : (fetching 0xBC000401).d.memoriesOk = true ∧
    (match step (fetching 0xBC000401) with | .next t => decide (t.gcycle = 1) | _ => false) = true := by decide +kernel
theorem witness_RoundTrip : (Instr.remn 4 2 3).wf = true ∧ encode (.remn 4 2 3) = some 0x04821818 := by decide +kernel
theorem witness_DecodedIsEncoded : decode 0x04821818 = .ok (.remn 4 2 3) := by decide +kernel
theorem witness_ReservedWordsAreRefused : decode 0xC4000000 = .error 1 ∧ (0xC4000000 : Word32).toNat / 2 ^ 26 = 0x31 := by decide +kernel
end Sys2Proof.Tests
end

section
/-! PROOF. Trap entry with nothing left to the vector engine, and PRIV at user level (R87, R91): O9. -/
namespace Sys2Proof.Machine
open Sys2Proof

-- Trap entry.

/-- With nothing left to the vector engine, TakeTrap changes the cause registers, STATUS, the pc and, at user level, exchanges the stack (R91). -/
theorem Core.takeTrap_quiet (c : Core) (g : BitVec 8) (t : Trap) (hcons : c.status.cons = true)
    (hframe : c.frame = none) (hseq : c.sequencer = []) :
    c.takeTrap g t =
      { (if c.status.pl = .user then c.swapStack g else c) with
        cause := { defer := t.defer, async := t.async, code := t.code }
        epc := t.epc, faddr := t.faddr, finfo := t.finfo
        status := { cons := false, ppl := c.status.pl, pie := c.status.ie, ie := false, pl := .supervisor }
        parked := false, traps := c.traps + 1, pc := c.tvec, run := .running } := by
  simp only [Core.takeTrap, hcons, Bool.true_eq_false, if_false, c.leaveFrame_none hframe hseq, c.resumeAt_none _ hframe hseq]
  split <;> rfl

/-- After the exchange s30 reads as TSTACK did, and every other register as before. -/
theorem Core.readS_swapStack (c : Core) (g : BitVec 8) (r : SReg) :
    (c.swapStack g).readS g r = if r = 30 then c.tstack else c.readS g r := by
  rw [Core.swapStack, Core.readS_writeS]
  by_cases h0 : r = 0
  · subst h0; rfl
  · rw [if_neg h0]; rfl

@[simp] theorem Core.takeTrap_id (c : Core) (g : BitVec 8) (t : Trap) : (c.takeTrap g t).id = c.id := by
  unfold Core.takeTrap
  split
  · rfl
  · dsimp only; split <;> simp [Core.swapStack]

@[simp] theorem Dev.gen_takeTrap (d : Dev) (t : Trap) : (d.takeTrap t).gen = d.gen := by
  simp [Dev.gen, Dev.cluster, Dev.takeTrap]

/-- A trap taken with CONS = 1 and the vector engine quiet is an entry as R91 writes it. -/
theorem entered_takeTrap (s : State) (t : Trap) (h : CanTrap s) :
    Entered s (s.withDev (s.d.takeTrap t)) t.code t.epc t.faddr t.finfo t.async t.defer := by
  obtain ⟨hcons, hframe, hseq⟩ := h
  have hcore := s.d.core.takeTrap_quiet s.d.gen t hcons hframe hseq
  have hdev : s.d.takeTrap t = { s.d with core := s.d.core.takeTrap s.d.gen t } := by simp [Dev.takeTrap, hcons]
  have hrd (r : SReg) : (s.d.takeTrap t).rd r = (s.d.core.takeTrap s.d.gen t).readS s.d.gen r := by
    rw [Dev.rd, Dev.gen_takeTrap, hdev]
  simp only [Entered, State.withDev_d, hrd]
  rw [hdev, hcore]
  by_cases hpl : s.d.core.status.pl = .user
  · simp only [if_pos hpl, true_and]
    refine ⟨⟨?_, rfl, fun r hr => ?_⟩, rfl⟩
    · exact (Core.readS_swapStack ..).trans (if_pos rfl)
    · exact (Core.readS_swapStack ..).trans (if_neg hr)
  · simp only [if_neg hpl, true_and]
    rfl

-- PRIV.

/-- FINFO of PRIV: the word below the level that it requires (R87). -/
theorem zext_level_word (level : BitVec 2) (w : Word32) : zext (level ++ w) = u64 (w.toNat + level.toNat * 2 ^ 32) := by
  apply BitVec.eq_of_toNat_eq
  have hcat : (level ++ w).toNat = w.toNat + level.toNat * 2 ^ 32 := by
    rw [BitVec.toNat_append, ← Nat.shiftLeft_add_eq_or_of_lt w.isLt, Nat.shiftLeft_eq, Nat.add_comm]
  rw [zext, u64, BitVec.toNat_setWidth, BitVec.toNat_ofNat, hcat]

/-- PRIV enters at the pc, with the word and the level in FINFO (R87, R91). -/
theorem priv_enters (s : State) (w : Word32) (level : BitVec 2) (h : CanTrap s) :
    Gives (finish s (s.d.priv w level)) fun t => EnteredAt s t 0x02 s.d.core.pc (u64 (w.toNat + level.toNat * 2 ^ 32)) := by
  rw [← zext_level_word]
  exact ⟨_, rfl, entered_takeTrap s _ h⟩

/-- What requires supervisor level raises PRIV at user level, with level 0b01, whatever it would do otherwise (R87). -/
theorem needSupervisor_enters (s : State) (w : Word32) (k : Act) (h : CanTrap s) (hpl : s.d.core.status.pl = .user) :
    Gives (finish s (s.d.needSupervisor w k)) fun t => EnteredAt s t 0x02 s.d.core.pc (u64 (w.toNat + 2 ^ 32)) := by
  have hpriv : s.d.needSupervisor w k = s.d.priv w 1#2 := if_pos hpl
  rw [hpriv]
  exact priv_enters s w 1#2 h

-- The word that each meaning names, where it is not the encoder's by definition.

/-- At MWAIT the machine names the word of R323: without an acquire the scope field is zero. -/
theorem exec_monitorAndWait (s : State) (acq : Bool) (scope : MemScope) (rd ra rb : SReg) :
    ∃ k, exec (.monitorAndWait acq scope rd ra rb) s =
      finish s (s.d.needSupervisor (encS 0x29 rd ra 8 (0#1 ++ (if acq then scope.code else 0) ++ boolBit acq ++ rb)) k) :=
  ⟨_, rfl⟩

theorem exec_ctsel (s : State) (ra : SReg) (slot : BitVec 5) :
    ∃ k, exec (.ctsel ra slot) s = finish s (s.d.needSupervisor (encS 0x30 0 ra 1 (0#5 ++ slot)) k) := by
  have hslot : (zext slot).setWidth 10 = 0#5 ++ slot := by
    apply BitVec.eq_of_toNat_eq
    rw [zext, BitVec.setWidth_setWidth_of_le _ (by decide), BitVec.toNat_append, BitVec.toNat_setWidth]
    simpa using Nat.mod_eq_of_lt (show slot.toNat < 1024 by omega)
  rw [← hslot]
  exact ⟨_, rfl⟩

theorem exec_xinv_own (s : State) (ra : SReg) :
    ∃ k, exec (.xinv 0 ra) s = finish s (s.d.needSupervisor (encS 0x17 0 ra 3 0) k) :=
  ⟨_, congrArg (finish s) (if_neg (not_not.mpr rfl))⟩

theorem exec_xinva_own (s : State) :
    ∃ k, exec (.xinva 0) s = finish s (s.d.needSupervisor (encS 0x17 0 0 4 0) k) :=
  ⟨_, congrArg (finish s) (if_neg (not_not.mpr rfl))⟩

theorem exec_crd_reserved (s : State) (rd : SReg) (r : CReg) (hr : userCreg r = false) :
    ∃ k, exec (.crd rd r) s = finish s (s.d.needSupervisor (encS 0x2F rd 0 4 r.code) k) :=
  ⟨_, congrArg (finish s) (if_neg (by simp [hr]))⟩

theorem exec_cwr_reserved (s : State) (r : CReg) (ra : SReg) (hr : userCreg r = false) :
    ∃ k, exec (.cwr r ra) s = finish s (s.d.needSupervisor (encS 0x2F 0 ra 5 r.code) k) :=
  ⟨_, congrArg (finish s) (if_neg (by simp [hr]))⟩

/-- A well-formed instruction reserved to supervisor level asks for that level, with its own word, before anything else (R87). -/
theorem exec_supervisorOnly (s : State) (i : Instr) (w : Word32) (hi : supervisorOnly i = true) (hwf : i.wf = true)
    (hw : encode i = some w) : ∃ k, exec i s = finish s (s.d.needSupervisor w k) := by
  unfold supervisorOnly at hi
  split at hi
  case h_3 acq scope rd ra rb => -- MWAIT: without an acquire the scope is core, whose code is zero
    cases hw
    cases acq with
    | true => exact exec_monitorAndWait ..
    | false =>
      obtain rfl : scope = .core := of_decide_eq_true hwf
      exact exec_monitorAndWait ..
  case h_10 => -- CTSEL
    cases hw
    exact exec_ctsel ..
  case h_13 => -- XINV without an owner
    obtain rfl := of_decide_eq_true hi
    cases hw
    exact exec_xinv_own ..
  case h_14 => -- XINVA without an owner
    obtain rfl := of_decide_eq_true hi
    cases hw
    exact exec_xinva_own ..
  case h_15 => -- CRD
    cases hw
    exact exec_crd_reserved _ _ _ (by simpa using hi)
  case h_16 => -- CWR
    cases hw
    exact exec_cwr_reserved _ _ _ (by simpa using hi)
  case h_17 => -- no other instruction is reserved
    exact absurd hi (by decide)
  all_goals -- the other meanings name the encoder's word
    cases hw
    exact ⟨_, rfl⟩

/-- R87 for every well-formed instruction: what is reserved to supervisor level raises PRIV at user level, with its word and the level in FINFO. -/
theorem supervisorOnly_enters (s : State) (i : Instr) (w : Word32) (hi : supervisorOnly i = true) (hwf : i.wf = true)
    (hw : encode i = some w) (h : CanTrap s) (hpl : s.d.core.status.pl = .user) :
    Gives (exec i s) fun t => EnteredAt s t 0x02 s.d.core.pc (u64 (w.toNat + 2 ^ 32)) := by
  obtain ⟨k, hk⟩ := exec_supervisorOnly s i w hi hwf hw
  rw [hk]
  exact needSupervisor_enters s w k h hpl

-- The refutation.

/-- An outcome has one next state. -/
theorem Gives.and {r : Result State} {P Q : State → Prop} (hp : Gives r P) (hq : Gives r Q) : ∃ t, P t ∧ Q t := by
  obtain ⟨t, ht, hPt⟩ := hp
  obtain ⟨u, hu, hQu⟩ := hq
  obtain rfl : t = u := by simpa [ht] using hu
  exact ⟨t, hPt, hQu⟩

theorem EnteredAt.finfo_eq {s t : State} {code : BitVec 6} {faddr finfo : Word} (h : EnteredAt s t code faddr finfo) :
    t.d.core.finfo = finfo := by
  obtain ⟨-, -, -, hfinfo, -⟩ := h
  exact hfinfo

/-- Core 0 after reset, at user level. -/
def State.resetUser : State :=
  State.reset.withCore { State.reset.d.core with status := { State.reset.d.core.status with pl := .user } }

theorem State.resetUser_canTrap : CanTrap State.resetUser := ⟨rfl, rfl, rfl⟩

/-- An MWAIT without an acquire that carries the scope dev all the same: R323 makes it no instruction, but `encode` writes the code of
that scope into a word. -/
def scopedMonitor : Instr := .monitorAndWait false .dev 0 0 0

theorem scopedMonitor_not_wf : scopedMonitor.wf = false := rfl

/-- What the machine does with it at user level: FINFO holds the word with a scope field of zero. -/
theorem scopedMonitor_enters :
    Gives (exec scopedMonitor State.resetUser) fun t =>
      EnteredAt State.resetUser t 0x02 State.resetUser.d.core.pc (u64 ((encS 0x29 0 0 8 0).toNat + 2 ^ 32)) := by
  obtain ⟨k, hk⟩ := exec_monitorAndWait State.resetUser false .dev 0 0 0
  rw [scopedMonitor, hk]
  exact needSupervisor_enters _ _ k State.resetUser_canTrap rfl

end Sys2Proof.Machine

namespace Sys2Proof.Proofs
open Sys2Proof Sys2Proof.Machine

/-- Refutes O9: the statement ranges over every instruction that `encode` answers a word for, and so over an MWAIT without an acquire whose
scope is not core, which R323 makes no instruction. For it the word of `encode` has the scope's code and FINFO does not. For every
well-formed instruction the statement holds (`supervisorOnly_enters`); this one is not (`scopedMonitor_not_wf`). -/
theorem not_privilegedInstructionsTrap : ¬ Obligations.PrivilegedInstructionsTrap := by
  unfold Obligations.PrivilegedInstructionsTrap
  intro h
  have hclaim := h State.resetUser scopedMonitor (encS 0x29 0 0 8 (0#1 ++ MemScope.dev.code ++ boolBit false ++ 0#5)) rfl rfl
    State.resetUser_canTrap rfl
  obtain ⟨t, hword, hscoped⟩ := hclaim.and scopedMonitor_enters
  have hfinfo := hword.finfo_eq.symm.trans hscoped.finfo_eq
  exact absurd hfinfo (by decide)

end Sys2Proof.Proofs
end

section
/-! PROOF. Words as the naturals and integers that they stand for (R49), and the outcome of what writes one scalar register and goes on (R29, R50). -/
namespace Sys2Proof.Machine
open Sys2Proof

-- A word is the number that it holds, read without a sign or with one; u64 and s64 take the operations of the numbers to those of the words.

theorem u64_toNat (a : Word) : u64 a.toNat = a := (BitVec.ofNat_toNat 64 a).trans a.setWidth_eq
theorem s64_toInt (a : Word) : s64 a.toInt = a := BitVec.ofInt_toInt
theorem s64_natCast (n : Nat) : s64 n = u64 n := BitVec.ofInt_natCast 64 n
theorem s64_toNat (a : Word) : s64 a.toNat = a := (s64_natCast _).trans (u64_toNat a)

theorem eq_u64_of_toNat {x : Word} {n : Nat} (h : x.toNat = n) : x = u64 n := h ▸ (u64_toNat x).symm
theorem eq_s64_of_toInt {x : Word} {i : Int} (h : x.toInt = i) : x = s64 i := h ▸ (s64_toInt x).symm

theorem u64_add (m n : Nat) : u64 (m + n) = u64 m + u64 n := BitVec.ofNat_add m n
theorem u64_mul (m n : Nat) : u64 (m * n) = u64 m * u64 n := BitVec.ofNat_mul m n
theorem u64_and (m n : Nat) : u64 (m &&& n) = u64 m &&& u64 n := BitVec.ofNat_and
theorem u64_or (m n : Nat) : u64 (m ||| n) = u64 m ||| u64 n := BitVec.ofNat_or
theorem u64_xor (m n : Nat) : u64 (m ^^^ n) = u64 m ^^^ u64 n := BitVec.ofNat_xor
theorem s64_add (i j : Int) : s64 (i + j) = s64 i + s64 j := BitVec.ofInt_add i j
theorem s64_sub (i j : Int) : s64 (i - j) = s64 i - s64 j := by
  rw [Int.sub_eq_add_neg, s64_add, BitVec.sub_eq_add_neg]
  exact congrArg (s64 i + ·) BitVec.ofInt_neg

/-- SExt of the low half of an integer is the sign extension of that half. -/
theorem s32_eq_sext (i : Int) : s32 i = sext (BitVec.ofInt 32 i) := by
  rw [s32, ← BitVec.toInt_ofInt]; rfl
theorem s32_natCast (n : Nat) : s32 n = sext (BitVec.ofNat 32 n) := by rw [s32_eq_sext, BitVec.ofInt_natCast]

/-- Two fields side by side: the high one times the weight of the low one's width, plus the low one. -/
theorem toNat_append_eq_add {n m : Nat} (x : BitVec n) (y : BitVec m) : (x ++ y).toNat = x.toNat * 2 ^ m + y.toNat := by
  rw [BitVec.toNat_append, ← Nat.shiftLeft_add_eq_or_of_lt y.isLt, Nat.shiftLeft_eq]

-- One scalar register written.

/-- Where every scalar register reads as after a write of rd, rd has the value and no other register changed. -/
theorem scalarIs_wr {s t : State} {rd : SReg} {x : Word} (h : ∀ r, t.d.rd r = (s.d.wr rd x).rd r) : ScalarIs s t rd x := by
  refine ⟨?_, fun r hr => ?_⟩
  · rw [h, Dev.rd_wr, if_pos rfl]
  · rw [h, Dev.rd_wr_other _ _ _ _ hr]

/-- A register write and a jump leave everything but scalar registers and the pc. -/
theorem sameButScalars_wr_jump (s : State) (rd : SReg) (x pc : Word) : SameButScalars s (s.withDev ((s.d.wr rd x).jump pc)) := by
  simp only [SameButScalars, State.withCore, State.withDev, Dev.jump, Dev.wr, Core.writeS]
  split <;> rfl

/-- A register write and a jump: that register, that pc, and nothing else. -/
theorem wr_jump_spec (s : State) (rd : SReg) (x pc : Word) : let t := s.withDev ((s.d.wr rd x).jump pc)
    t.d.core.pc = pc ∧ ScalarIs s t rd x ∧ SameButScalars s t :=
  ⟨rfl, scalarIs_wr fun _ => rfl, sameButScalars_wr_jump s rd x pc⟩

theorem Dev.advance_eq_jump (d : Dev) : d.advance = d.jump (d.core.pc + 4) := rfl

/-- What setS answers: the register written and the pc moved on, whichever way the value is given. -/
theorem setS_writesScalar (s : State) (rd : SReg) {x y : Word} (h : x = y) :
    Gives (setS s rd x) fun t => WritesScalar s t rd y := by
  subst h
  rw [setS_eq, Dev.advance_eq_jump, Dev.wr_core_pc]
  obtain ⟨hpc, hreg, hframe⟩ := wr_jump_spec s rd x (s.d.core.pc + 4)
  exact ⟨_, rfl, hreg, hpc, hframe⟩

end Sys2Proof.Machine
end

section
/-! PROOF. The results of the ALU operations and of the divisions as numbers (R106, R107): O1. -/
namespace Sys2Proof.Machine
open Sys2Proof

-- Sums, differences, products and logic.

theorem add_eq_u64 (a b : Word) : a + b = u64 (a.toNat + b.toNat) := by rw [u64_add, u64_toNat, u64_toNat]
theorem sub_eq_s64 (a b : Word) : a - b = s64 (a.toNat - b.toNat) := by rw [s64_sub, s64_toNat, s64_toNat]
theorem mul_eq_u64 (a b : Word) : a * b = u64 (a.toNat * b.toNat) := by rw [u64_mul, u64_toNat, u64_toNat]
theorem and_eq_u64 (a b : Word) : a &&& b = u64 (a.toNat &&& b.toNat) := by rw [u64_and, u64_toNat, u64_toNat]
theorem or_eq_u64 (a b : Word) : a ||| b = u64 (a.toNat ||| b.toNat) := by rw [u64_or, u64_toNat, u64_toNat]
theorem xor_eq_u64 (a b : Word) : a ^^^ b = u64 (a.toNat ^^^ b.toNat) := by rw [u64_xor, u64_toNat, u64_toNat]
theorem not_eq_u64 (a : Word) : ~~~ a = u64 (2 ^ 64 - 1 - a.toNat) := eq_u64_of_toNat BitVec.toNat_not
theorem andn_eq_u64 (a b : Word) : a &&& ~~~ b = u64 (a.toNat &&& (2 ^ 64 - 1 - b.toNat)) := by
  rw [u64_and, u64_toNat, not_eq_u64]
theorem orn_eq_u64 (a b : Word) : a ||| ~~~ b = u64 (a.toNat ||| (2 ^ 64 - 1 - b.toNat)) := by
  rw [u64_or, u64_toNat, not_eq_u64]
theorem xnor_eq_u64 (a b : Word) : ~~~ (a ^^^ b) = u64 (2 ^ 64 - 1 - (a.toNat ^^^ b.toNat)) := by
  rw [not_eq_u64, BitVec.toNat_xor]

theorem aluMulh_eq (a b : Word) : aluMulh a b = s64 (a.toInt * b.toInt / 2 ^ 64) := rfl
theorem aluMulhn_eq (a b : Word) : aluMulhn a b = u64 (a.toNat * b.toNat / 2 ^ 64) := rfl
theorem aluAdds_eq (a b : Word) : aluAdds a b = s64 (max (-2 ^ 63) (min (2 ^ 63 - 1) (a.toInt + b.toInt))) := rfl
theorem aluSubs_eq (a b : Word) : aluSubs a b = s64 (max (-2 ^ 63) (min (2 ^ 63 - 1) (a.toInt - b.toInt))) := rfl

-- Shifts.

theorem aluSll_eq (a : Word) (n : Nat) : aluSll a n = u64 (a.toNat * 2 ^ n) := by
  apply BitVec.eq_of_toNat_eq
  rw [aluSll, u64, BitVec.toNat_shiftLeft, BitVec.toNat_ofNat, Nat.shiftLeft_eq]
theorem aluSrl_eq (a : Word) (n : Nat) : aluSrl a n = u64 (a.toNat / 2 ^ n) := by
  apply eq_u64_of_toNat
  rw [aluSrl, BitVec.toNat_ushiftRight, Nat.shiftRight_eq_div_pow]
theorem aluSra_eq (a : Word) (n : Nat) : aluSra a n = s64 (a.toInt / 2 ^ n) := by
  apply eq_s64_of_toInt
  rw [aluSra, BitVec.toInt_sshiftRight, Int.shiftRight_eq_div_pow]
  norm_cast

/-- A rotation is the OR of the two shifts, for a count of zero too: the left shift then has no bit below 2^64. -/
theorem aluRor_eq (a : Word) (n : Nat) (hn : n < 64) : aluRor a n = u64 (a.toNat / 2 ^ n ||| a.toNat * 2 ^ (64 - n)) := by
  rw [u64_or]
  change a.rotateRight n = u64 (a.toNat / 2 ^ n) ||| u64 (a.toNat * 2 ^ (64 - n))
  rw [BitVec.rotateRight_def, Nat.mod_eq_of_lt hn, ← aluSrl_eq, ← aluSll_eq]
  rfl

-- Comparisons and selections.

theorem aluSlt_eq (a b : Word) : aluSlt a b = one01 (decide (a.toInt < b.toInt)) := rfl
theorem aluSltn_eq (a b : Word) : aluSltn a b = one01 (decide (a.toNat < b.toNat)) := rfl

theorem aluMin_eq (a b : Word) : aluMin a b = s64 (min a.toInt b.toInt) := by
  rw [aluMin]
  split
  case isTrue h => rw [min_eq_left (BitVec.slt_iff_toInt_lt.mp h).le, s64_toInt]
  case isFalse h => rw [min_eq_right (not_lt.mp (mt BitVec.slt_iff_toInt_lt.mpr h)), s64_toInt]
theorem aluMax_eq (a b : Word) : aluMax a b = s64 (max a.toInt b.toInt) := by
  rw [aluMax]
  split
  case isTrue h => rw [max_eq_right (BitVec.slt_iff_toInt_lt.mp h).le, s64_toInt]
  case isFalse h => rw [max_eq_left (not_lt.mp (mt BitVec.slt_iff_toInt_lt.mpr h)), s64_toInt]
theorem aluMinn_eq (a b : Word) : aluMinn a b = u64 (min a.toNat b.toNat) := by
  rw [aluMinn]
  split
  case isTrue h => rw [min_eq_left (BitVec.ult_iff_toNat_lt.mp h).le, u64_toNat]
  case isFalse h => rw [min_eq_right (not_lt.mp (mt BitVec.ult_iff_toNat_lt.mpr h)), u64_toNat]
theorem aluMaxn_eq (a b : Word) : aluMaxn a b = u64 (max a.toNat b.toNat) := by
  rw [aluMaxn]
  split
  case isTrue h => rw [max_eq_right (BitVec.ult_iff_toNat_lt.mp h).le, u64_toNat]
  case isFalse h => rw [max_eq_left (not_lt.mp (mt BitVec.ult_iff_toNat_lt.mpr h)), u64_toNat]

-- Counts of bits.

/-- Looked at below n, where all its bits are: the highest 1 bit is bit log2, and n - 1 - log2 zeros stand above it. -/
theorem clzAux_eq (x : Word) (n : Nat) (h : x.toNat < 2 ^ n) :
    clzAux x n = if x.toNat = 0 then n else n - 1 - x.toNat.log2 := by
  induction n with
  | zero =>
    have h0 : x.toNat = 0 := by omega
    rw [if_pos h0, clzAux]
  | succ n ih =>
    rw [clzAux]
    by_cases hbit : x.getLsbD n
    · have hle : 2 ^ n ≤ x.toNat := Nat.ge_two_pow_of_testBit hbit
      have hpos : x.toNat ≠ 0 := (Nat.two_pow_pos n |>.trans_le hle).ne'
      rw [if_pos hbit, if_neg hpos, (Nat.log2_eq_iff hpos).mpr ⟨hle, h⟩]
      omega
    · have hlt : x.toNat < 2 ^ n := by
        by_contra hge
        exact hbit (Nat.testBit_of_two_pow_le_and_two_pow_add_one_gt (not_lt.mp hge) h)
      rw [if_neg hbit, ih hlt]
      split
      · rfl
      · have := (Nat.log2_lt ‹_›).mpr hlt
        omega

theorem aluClz_eq (a : Word) : aluClz a = u64 (if a.toNat = 0 then 64 else 63 - a.toNat.log2) :=
  congrArg u64 (clzAux_eq a 64 a.isLt)

/-- Above i zero bits, ctzAux counts the zeros up to the lowest 1 bit, and no further than n. -/
theorem ctzAux_spec (x : Word) (i n : Nat) (h : x.toNat % 2 ^ i = 0) :
    ctzAux x i n ≤ n ∧ x.toNat % 2 ^ (i + ctzAux x i n) = 0 ∧
      (ctzAux x i n < n → x.toNat / 2 ^ (i + ctzAux x i n) % 2 = 1) := by
  induction n generalizing i with
  | zero => exact ⟨le_rfl, h, fun hlt => absurd hlt (Nat.lt_irrefl 0)⟩
  | succ n ih =>
    rw [ctzAux]
    have hdigit : x.getLsbD i = decide (x.toNat / 2 ^ i % 2 = 1) := Nat.testBit_eq_decide_div_mod_eq
    by_cases hbit : x.getLsbD i
    · rw [if_pos hbit]
      exact ⟨Nat.zero_le _, h, fun _ => by simpa [hdigit] using hbit⟩
    · have hzero : x.toNat / 2 ^ i % 2 = 0 := by simpa [hdigit] using hbit
      have hnext : x.toNat % 2 ^ (i + 1) = 0 := by rw [pow_succ, Nat.mod_mul, h, hzero]; rfl
      obtain ⟨hle, hlow, hone⟩ := ih (i + 1) hnext
      rw [if_neg hbit, show i + (ctzAux x (i + 1) n + 1) = i + 1 + ctzAux x (i + 1) n by omega]
      exact ⟨by omega, hlow, fun hlt => hone (by omega)⟩

/-- The count of trailing zeros: 64 for zero, else where the lowest 1 bit is. -/
theorem ctzAux_64 (a : Word) :
    if a.toNat = 0 then ctzAux a 0 64 = 64 else a.toNat % 2 ^ ctzAux a 0 64 = 0 ∧ a.toNat / 2 ^ ctzAux a 0 64 % 2 = 1 := by
  obtain ⟨hle, hlow, hone⟩ := ctzAux_spec a 0 64 (Nat.mod_one _)
  rw [Nat.zero_add] at hlow hone
  split
  case isTrue hzero =>
    by_contra hne
    have hbit := hone (by omega)
    rw [hzero, Nat.zero_div] at hbit
    exact absurd hbit (by decide)
  case isFalse hpos =>
    refine ⟨hlow, hone (lt_of_le_of_ne hle fun hall => hpos ?_)⟩
    rwa [hall, Nat.mod_eq_of_lt a.isLt] at hlow

theorem popcAux_eq (x : Word) (n : Nat) :
    popcAux x n = ((List.range n).filter fun i => decide (x.toNat / 2 ^ i % 2 = 1)).length := by
  induction n with
  | zero => rfl
  | succ n ih =>
    have hdigit : x.getLsbD n = decide (x.toNat / 2 ^ n % 2 = 1) := Nat.testBit_eq_decide_div_mod_eq
    rw [popcAux, ih, List.range_succ, List.filter_append, List.length_append, hdigit, List.filter_singleton]
    cases decide (x.toNat / 2 ^ n % 2 = 1) <;> rfl

theorem aluPopc_eq (a : Word) : aluPopc a = u64 ((List.range 64).filter fun i => decide (a.toNat / 2 ^ i % 2 = 1)).length :=
  congrArg u64 (popcAux_eq a 64)

-- Bytes.

/-- BSWAP as a number: the bytes of a in the opposite order. -/
theorem aluBswap_toNat (a : Word) : let byte k := a.toNat / 256 ^ k % 256
    (aluBswap a).toNat = ((((((byte 0 * 256 + byte 1) * 256 + byte 2) * 256 + byte 3) * 256 + byte 4) * 256 + byte 5) * 256
      + byte 6) * 256 + byte 7 := by
  unfold aluBswap
  rw [toNat_append_eq_add]
  simp only [toNat_append_eq_add, BitVec.extractLsb'_toNat, Nat.shiftRight_eq_div_pow, Nat.reducePow]

/-- Digit i of a number of eight digits to the base 256 that are written from digit 0 down is digit 7 - i. -/
theorem digit_of_eight (d : Nat → Nat) (hd : ∀ k, d k < 256) (i : Nat) (hi : i < 8) :
    (((((((d 0 * 256 + d 1) * 256 + d 2) * 256 + d 3) * 256 + d 4) * 256 + d 5) * 256 + d 6) * 256 + d 7) / 256 ^ i % 256 = d (7 - i) := by
  have h0 := hd 0; have h1 := hd 1; have h2 := hd 2; have h3 := hd 3
  have h4 := hd 4; have h5 := hd 5; have h6 := hd 6; have h7 := hd 7
  interval_cases i <;> simp only [Nat.reduceSub] <;> omega

theorem aluBswap_byte (a : Word) (i : Nat) (hi : i < 8) :
    (aluBswap a).toNat / 256 ^ i % 256 = a.toNat / 256 ^ (7 - i) % 256 := by
  rw [aluBswap_toNat]
  exact digit_of_eight (fun k => a.toNat / 256 ^ k % 256) (fun k => Nat.mod_lt _ (by decide)) i hi

-- The .w forms.

theorem lo32_eq (a : Word) : lo32 a = BitVec.ofNat 32 a.toNat := by
  rw [BitVec.ofNat_toNat, lo32, BitVec.setWidth_eq_extractLsb' (by decide)]
theorem lo32_toNat (a : Word) : (lo32 a).toNat = a.toNat % 2 ^ 32 := by rw [lo32_eq, BitVec.toNat_ofNat]
theorem lo32_toInt (a : Word) : (lo32 a).toInt = (a.toNat : Int).bmod (2 ^ 32) := by rw [lo32_eq, BitVec.toInt_ofNat']

theorem lo32_s64 (i : Int) : lo32 (s64 i) = BitVec.ofInt 32 i := by
  apply BitVec.eq_of_toNat_eq
  rw [lo32_toNat, s64, BitVec.toNat_ofInt, BitVec.toNat_ofInt]
  omega

/-- A .w result of an operation that is exact modulo 2^64. -/
theorem sext_lo32_eq {x : Word} {i : Int} (h : x = s64 i) : sext (lo32 x) = s32 i := by rw [h, lo32_s64, s32_eq_sext]
theorem sext_eq_of_toNat {x : Word32} {n : Nat} (h : x.toNat = n % 2 ^ 32) : sext x = s32 n := by
  rw [s32_natCast]
  exact congrArg sext (BitVec.eq_of_toNat_eq (h.trans (BitVec.toNat_ofNat ..).symm))
theorem sext_eq_of_toInt {x : Word32} {i : Int} (h : x.toInt = i) : sext x = s32 i := by
  rw [s32_eq_sext, ← h, BitVec.ofInt_toInt]

theorem aluAddw_eq (a b : Word) : aluAddw a b = s32 (a.toNat + b.toNat) :=
  sext_lo32_eq (by rw [s64_add, s64_toNat, s64_toNat])
theorem aluSubw_eq (a b : Word) : aluSubw a b = s32 (a.toNat - b.toNat) := sext_lo32_eq (sub_eq_s64 a b)
theorem aluMulw_eq (a b : Word) : aluMulw a b = s32 (a.toNat * b.toNat) :=
  sext_lo32_eq (by rw [← Nat.cast_mul, s64_natCast, mul_eq_u64])
theorem aluSllw_eq (a : Word) (n : Nat) : aluSllw a n = s32 (a.toNat % 2 ^ 32 * 2 ^ n) := by
  have h : (lo32 a <<< n).toNat = a.toNat % 2 ^ 32 * 2 ^ n % 2 ^ 32 := by
    rw [BitVec.toNat_shiftLeft, lo32_toNat, Nat.shiftLeft_eq]
  exact_mod_cast sext_eq_of_toNat h
theorem aluSrlw_eq (a : Word) (n : Nat) : aluSrlw a n = s32 (a.toNat % 2 ^ 32 / 2 ^ n) := by
  have h : (lo32 a >>> n).toNat = a.toNat % 2 ^ 32 / 2 ^ n % 2 ^ 32 := by
    rw [← Nat.mod_eq_of_lt (lo32 a >>> n).isLt, BitVec.toNat_ushiftRight, lo32_toNat, Nat.shiftRight_eq_div_pow]
  exact_mod_cast sext_eq_of_toNat h
theorem aluSraw_eq (a : Word) (n : Nat) : aluSraw a n = s32 ((a.toNat : Int).bmod (2 ^ 32) / 2 ^ n) := by
  apply sext_eq_of_toInt
  rw [BitVec.toInt_sshiftRight, lo32_toInt, Int.shiftRight_eq_div_pow]
  norm_cast

-- Divisions (R107).

theorem aluDiv_of_ne (a b : Word) (h : b ≠ 0) : aluDiv a b = s64 (a.toInt.tdiv b.toInt) := if_neg h
theorem aluRem_of_ne (a b : Word) (h : b ≠ 0) : aluRem a b = s64 (a.toInt.tmod b.toInt) := if_neg h
theorem aluDivn_of_ne (a b : Word) (h : b ≠ 0) : aluDivn a b = u64 (a.toNat / b.toNat) := if_neg h
theorem aluRemn_of_ne (a b : Word) (h : b ≠ 0) : aluRemn a b = u64 (a.toNat % b.toNat) := if_neg h

/-- The one signed overflow: the quotient 2^63 is no signed word, and its low 64 bits are the dividend. -/
theorem division_overflow (a b : Word) (ha : a.toInt = -2 ^ 63) (hb : b.toInt = -1) : aluDiv a b = a ∧ aluRem a b = 0 := by
  obtain rfl : a = s64 (-2 ^ 63) := eq_s64_of_toInt ha
  obtain rfl : b = s64 (-1) := eq_s64_of_toInt hb
  decide

/-- The remainder has the sign of the dividend, or is zero. -/
theorem tmod_pos_iff (a b : Int) : a.tmod b = 0 ∨ (0 < a.tmod b ↔ 0 < a) := by
  have hsign := Int.sign_tmod a b
  split at hsign
  · exact .inl (Int.sign_eq_zero_iff_zero.mp hsign)
  · exact .inr (by rw [← Int.sign_eq_one_iff_pos, hsign, Int.sign_eq_one_iff_pos])

/-- Quotient and remainder of a signed division by anything but zero. -/
theorem division_spec (a b : Word) (h : b ≠ 0) : let q := a.toInt.tdiv b.toInt; let r := a.toInt.tmod b.toInt
    a.toInt = b.toInt * q + r ∧ r.natAbs < b.toInt.natAbs ∧ (r = 0 ∨ (0 < r ↔ 0 < a.toInt)) := by
  have hb : b.toInt ≠ 0 := fun h0 => h (BitVec.eq_of_toInt_eq h0)
  refine ⟨(Int.mul_tdiv_add_tmod ..).symm, ?_, tmod_pos_iff ..⟩
  rw [Int.natAbs_tmod]
  exact Nat.mod_lt _ (Int.natAbs_pos.mpr hb)

-- The claims.

theorem registerOperations : Claims.RegisterOperations := by
  intro s rd ra rb
  have writes {x y : Word} (h : x = y) := setS_writesScalar s rd h
  have hshift (x : Word) : shamt x < 64 := Nat.mod_lt _ (by decide)
  exact ⟨
    writes (add_eq_u64 ..), writes (sub_eq_s64 ..), writes (and_eq_u64 ..), writes (or_eq_u64 ..), writes (xor_eq_u64 ..),
    writes (andn_eq_u64 ..), writes (orn_eq_u64 ..), writes (xnor_eq_u64 ..), writes (aluSll_eq ..), writes (aluSrl_eq ..),
    writes (aluSra_eq ..), writes (aluRor_eq _ _ (hshift _)), writes (aluSlt_eq ..), writes (aluSltn_eq ..), writes (aluMin_eq ..),
    writes (aluMax_eq ..), writes (aluMinn_eq ..), writes (aluMaxn_eq ..), writes (mul_eq_u64 ..), writes (aluMulh_eq ..),
    writes (aluMulhn_eq ..), writes (aluClz_eq _), ⟨_, writes rfl, ctzAux_64 _⟩, writes (aluPopc_eq _), ⟨_, writes rfl, aluBswap_byte _⟩,
    writes (aluAddw_eq ..), writes (aluSubw_eq ..), writes (aluSllw_eq ..), writes (aluSrlw_eq ..), writes (aluSraw_eq ..),
    writes (aluMulw_eq ..), writes (aluAdds_eq ..), writes (aluSubs_eq ..)⟩

theorem divisionResults : Claims.DivisionResults := by
  intro s rd ra rb
  have writes {x y : Word} (h : x = y) := setS_writesScalar s rd h
  refine ⟨fun hzero => ?_, fun ⟨ha, hb⟩ => ?_, fun hb _ => ?_, fun hb => ?_⟩
  · exact ⟨writes (if_pos hzero), writes (if_pos hzero), writes (if_pos hzero), writes (if_pos hzero)⟩
  · obtain ⟨hdiv, hrem⟩ := division_overflow _ _ ha hb
    exact ⟨writes hdiv, writes hrem⟩
  · exact ⟨_, _, writes (aluDiv_of_ne _ _ hb), writes (aluRem_of_ne _ _ hb), division_spec _ _ hb⟩
  · exact ⟨writes (aluDivn_of_ne _ _ hb), writes (aluRemn_of_ne _ _ hb)⟩

end Sys2Proof.Machine

namespace Sys2Proof.Proofs
open Sys2Proof Sys2Proof.Machine

/-- Settles O1: each operation is one register write (`setS_writesScalar`) of a result that the lemmas above read as a number. -/
theorem registerAluAndDivision : Obligations.RegisterAluAndDivision := by
  unfold Obligations.RegisterAluAndDivision
  exact ⟨registerOperations, divisionResults⟩

end Sys2Proof.Proofs
end

section
/-! PROOF. Branches, loops, jumps and calls: targets and words as numbers, and what each leaves (R113 to R116): O3. -/
namespace Sys2Proof.Machine
open Sys2Proof

-- Targets (R35, R113, R115).

/-- A word displaced by four times a signed field. -/
theorem add_sext_shiftLeft_two {w : Nat} (pc : Word) (off : BitVec w) : pc + (sext off <<< 2) = s64 (pc.toNat + 4 * off.toInt) := by
  have hshift : sext off <<< 2 = s64 (4 * off.toInt) := by
    rw [BitVec.shiftLeft_eq_mul_twoPow, mul_comm]
    exact (BitVec.ofInt_mul 4 off.toInt).symm
  rw [hshift, s64_add, s64_toNat]

theorem branchTarget_eq (pc : Word) (off : BitVec 13) : branchTarget pc off = s64 (pc.toNat + 4 * off.toInt) :=
  add_sext_shiftLeft_two pc off
theorem jumpTarget_eq (pc : Word) (off : BitVec 26) : jumpTarget pc off = s64 (pc.toNat + 4 * off.toInt) :=
  add_sext_shiftLeft_two pc off
theorem add_four_eq_u64 (pc : Word) : pc + 4 = u64 (pc.toNat + 4) := by
  rw [u64_add, u64_toNat]; rfl

-- Words (R33).

theorem eq_ofNat_of_toNat {x : Word32} {n : Nat} (h : x.toNat = n) : x = BitVec.ofNat 32 n := by
  rw [← h, BitVec.ofNat_toNat, BitVec.setWidth_eq]

theorem encM_eq_ofNat (mo : BitVec 6) (rd ra : BitVec 5) (sz : BitVec 3) (off : BitVec 13) : encM mo rd ra sz off =
    BitVec.ofNat 32 (mo.toNat * 2 ^ 26 + rd.toNat * 2 ^ 21 + ra.toNat * 2 ^ 16 + sz.toNat * 2 ^ 13 + off.toNat) := by
  apply eq_ofNat_of_toNat
  rw [encM, toNat_append_eq_add, toNat_append_eq_add, toNat_append_eq_add, toNat_append_eq_add]
  ring

theorem encJ_eq_ofNat (mo : BitVec 6) (off : BitVec 26) : encJ mo off = BitVec.ofNat 32 (mo.toNat * 2 ^ 26 + off.toNat) :=
  eq_ofNat_of_toNat (toNat_append_eq_add mo off)

/-- The word of an R-format instruction that names two registers and no function. -/
theorem encR_two_registers (mo : BitVec 6) (rd ra : BitVec 5) :
    encR mo rd ra 0 0 = BitVec.ofNat 32 (mo.toNat * 2 ^ 26 + rd.toNat * 2 ^ 21 + ra.toNat * 2 ^ 16) := by
  apply eq_ofNat_of_toNat
  rw [encR, toNat_append_eq_add, toNat_append_eq_add, toNat_append_eq_add, toNat_append_eq_add]
  change (((mo.toNat * 2 ^ 5 + rd.toNat) * 2 ^ 5 + ra.toNat) * 2 ^ 5 + 0) * 2 ^ 11 + 0 = _
  ring

-- Outcomes.

/-- A branch, taken or not, is a jump. -/
theorem Dev.branch_eq_jump (d : Dev) (taken : Bool) (off : BitVec 13) :
    d.branch taken off = d.jump (if taken then s64 (d.core.pc.toNat + 4 * off.toInt) else d.core.pc + 4) := by
  cases taken with
  | true => exact congrArg d.jump (branchTarget_eq ..)
  | false => rfl

/-- What a comparison answers: the pc by its test, and nothing else. -/
theorem branchIf_spec (s : State) {c taken : Bool} (off : BitVec 13) (h : c = taken) :
    Gives (branchIf s c off) fun t =>
      t.d.core.pc = (if taken then s64 (s.d.core.pc.toNat + 4 * off.toInt) else s.d.core.pc + 4) ∧ SameButPc s t := by
  subst h
  rw [branchIf, Dev.branch_eq_jump]
  exact ⟨_, rfl, rfl, rfl⟩

/-- What a LOOP answers: its counter, the pc by its test, and nothing else. -/
theorem loopTo_spec (s : State) (ra : SReg) {m n : Word} {c taken : Bool} (off : BitVec 13) (hn : m = n) (hc : c = taken) :
    Gives (loopTo s ra m c off) fun t => ScalarIs s t ra n ∧
      t.d.core.pc = (if taken then s64 (s.d.core.pc.toNat + 4 * off.toInt) else s.d.core.pc + 4) ∧ SameButScalars s t := by
  subst hn hc
  rw [loopTo, Dev.branch_eq_jump, Dev.wr_core_pc]
  obtain ⟨hpc, hreg, hframe⟩ := wr_jump_spec s ra m (if c then s64 (s.d.core.pc.toNat + 4 * off.toInt) else s.d.core.pc + 4)
  exact ⟨_, rfl, hreg, hpc, hframe⟩

-- Tests.

theorem bne_eq_decide_ne (a b : Word) : (a != b) = decide (a ≠ b) := by
  rw [bne, beq_eq_decide, ← decide_not]
theorem zero_slt_eq_decide (a : Word) : (0 : Word).slt a = decide (0 < a.toInt) := rfl
theorem not_slt_eq_decide (a b : Word) : (!a.slt b) = decide (b.toInt ≤ a.toInt) := by
  rw [BitVec.slt_eq_decide, ← decide_not, decide_eq_decide, not_lt]
theorem not_ult_eq_decide (a b : Word) : (!a.ult b) = decide (b.toNat ≤ a.toNat) := by
  rw [BitVec.ult_eq_decide, ← decide_not, decide_eq_decide, not_lt]
theorem and_eq_zero_iff (a b : Word) : a &&& b = 0 ↔ a.toNat &&& b.toNat = 0 := by
  rw [← BitVec.toNat_and]
  exact BitVec.toNat_inj.symm
theorem and_beq_zero (a b : Word) : (a &&& b == 0) = decide (a.toNat &&& b.toNat = 0) := by
  rw [beq_eq_decide, decide_eq_decide, and_eq_zero_iff]
theorem and_bne_zero (a b : Word) : (a &&& b != 0) = decide (a.toNat &&& b.toNat ≠ 0) := by
  rw [bne, and_beq_zero, ← decide_not]

-- Counters.

theorem sub_one_eq_s64 (a : Word) : a - 1 = s64 (a.toNat - 1) := by
  rw [s64_sub, s64_toNat]
  rfl
theorem add_one_eq_u64 (a : Word) : a + 1 = u64 (a.toNat + 1) := by
  rw [u64_add, u64_toNat]
  rfl

-- The claims.

theorem branchesAndLoops : Claims.BranchesAndLoops := by
  intro s ra rb off
  refine ⟨⟨?_, ?_, ?_, ?_, ?_, ?_, ?_, ?_⟩, ?_, ?_, ?_, ?_, ?_, ?_, ?_, ?_, ?_, ?_, ?_⟩
  iterate 8 exact congrArg some (encM_eq_ofNat 0x0B ra rb _ off)
  · exact branchIf_spec s off (beq_eq_decide ..)
  · exact branchIf_spec s off (bne_eq_decide_ne ..)
  · exact branchIf_spec s off BitVec.slt_eq_decide
  · exact branchIf_spec s off (not_slt_eq_decide ..)
  · exact branchIf_spec s off BitVec.ult_eq_decide
  · exact branchIf_spec s off (not_ult_eq_decide ..)
  · exact branchIf_spec s off (and_bne_zero ..)
  · exact branchIf_spec s off (and_beq_zero ..)
  · exact loopTo_spec s ra off (sub_one_eq_s64 _) (by rw [sub_one_eq_s64, bne_eq_decide_ne])
  · exact loopTo_spec s ra off (add_one_eq_u64 _) (by rw [add_one_eq_u64, BitVec.ult_eq_decide])
  · exact loopTo_spec s ra off (sub_eq_s64 ..) (by rw [sub_eq_s64, zero_slt_eq_decide])

theorem jumpsAndCalls : Claims.JumpsAndCalls := by
  intro s rd ra off
  refine ⟨⟨?_, ?_, ?_⟩, ?_, ?_, ?_⟩
  · exact congrArg some (encJ_eq_ofNat 0x0C off)
  · exact congrArg some (encJ_eq_ofNat 0x0D off)
  · exact congrArg some (encR_two_registers 0x0E rd ra)
  · rw [← jumpTarget_eq]
    exact ⟨_, rfl, rfl, rfl⟩
  · rw [← jumpTarget_eq, ← add_four_eq_u64]
    exact ⟨_, rfl, wr_jump_spec s 31 (s.d.core.pc + 4) (jumpTarget s.d.core.pc off)⟩
  · rw [← add_four_eq_u64]
    exact ⟨_, rfl, wr_jump_spec s rd (s.d.core.pc + 4) (s.d.rd ra)⟩

end Sys2Proof.Machine

namespace Sys2Proof.Proofs
open Sys2Proof Sys2Proof.Machine

/-- Settles O3: a comparison is a jump by its test (`branchIf_spec`), a LOOP that and a register write (`loopTo_spec`), a call or a JREG a
jump to a target that was read before the link is written (`wr_jump_spec`). -/
theorem branchesJumpsAndCalls : Obligations.BranchesJumpsAndCalls := by
  unfold Obligations.BranchesJumpsAndCalls
  exact ⟨branchesAndLoops, jumpsAndCalls⟩

end Sys2Proof.Proofs
end
